-- ==== Sys2Proof/Word.lean ====
section
/-!
DEFINITION. The word types of the machine and their plainest arithmetic (R10): a byte, a 32-bit lane element, a 64-bit scalar.
-/
namespace Sys2Proof

abbrev Byte := BitVec 8
/-- R82: one lane of a vector register. -/
abbrev Lane := BitVec 32
/-- R82, R84: a scalar register. -/
abbrev Scalar := BitVec 64
/-- R82: a mask register, one bit per lane. -/
abbrev Mask := BitVec 128

/-- The number whose `n`-bit two's-complement code is `x` (R10). -/
def signedOf (n x : Nat) : Int := if x % 2 ^ n < 2 ^ (n - 1) then (x % 2 ^ n : Nat) else (x % 2 ^ n : Nat) - (2 ^ n : Nat)

/-- The low `n` bits of an integer. -/
def wrapTo (n : Nat) (x : Int) : Nat := (x % (2 ^ n : Nat)).toNat

end Sys2Proof
end

