-- ==== Sys2Proof/Config.lean ====
section
/-!
DEFINITION. The free values of the model: constants with no body, one for each place where the spec leaves a value open.
Each is applied to State.free, a plain counter that every issue advances, or to the operands (assumption log 2).
Nothing in Lean can evaluate them, so a statement holds whatever they are.
-/
namespace Sys2Proof

/-- R96: whether the racy element `key` delivers the outstanding value (or keeps it), at the `n`-th free choice. -/
opaque Config.race : Nat → Nat → Bool
/-- R80, R231: the delivered step of a bounded result within its interval, by function code, format and operand bits. R81 makes it a function of the operands. -/
opaque Config.bounded : Nat → Nat → Nat → Nat
/-- R80: whether NX is set at a point where the bounded result is exact but not listed. -/
opaque Config.boundedNX : Nat → Nat → Nat → Bool
/-- R2: a 64-bit value that the spec leaves unpredictable, at the `n`-th free choice, for element `key`. -/
opaque Config.anyValue : Nat → Nat → Nat
/-- R423: SHAKE256, of which 64 bytes are taken, and the boot value of the measurement log's digest. -/
opaque Config.shake256 : List Nat → List Nat
opaque Config.bootDigest : List Nat
/-- R422, R423: the byte that the `n`-th key of the memory controllers gives at an address, from the 128 bytes stored in its line. -/
opaque Config.keyByte : Nat → Nat → Nat → BitVec 8
/-- R422: the Falcon-1024 signature of a message with the identity key, and what CERT returns. -/
opaque Config.sign : List Nat → List Nat
opaque Config.certificate : List Nat

end Sys2Proof
end

