-- ==== Sys2Proof/Machine/Float.lean ====
section
/-!
DEFINITION. Floating-point formats and exact arithmetic (03): decoding, the one rounding of R67, zero signs (R68), flags (R69),
and the operations of R141 to R151 on one element. A pattern is a Nat below 2^width; an exact value is sign, magnitude and power of two,
or a quotient of integers.
-/
namespace Sys2Proof.Machine

/-- R64: a format by fraction and exponent widths. -/
structure Fmt where
  p : Nat
  e : Nat
  deriving DecidableEq, Repr

def f32 : Fmt := ⟨23, 8⟩
def f16 : Fmt := ⟨10, 5⟩
def bf16 : Fmt := ⟨7, 8⟩
def f36 : Fmt := ⟨27, 8⟩

def fmtWidth (f : Fmt) : Nat := 1 + f.e + f.p
def fmtBias (f : Fmt) : Nat := 2 ^ (f.e - 1) - 1
/-- The exponent of the subnormal spacing, 1 - b - p. -/
def fmtMinExp (f : Fmt) : Int := 1 - (fmtBias f : Int) - f.p
/-- R64: the pattern of infinity; a NaN is any greater magnitude. -/
def fmtInf (f : Fmt) : Nat := (2 ^ f.e - 1) * 2 ^ f.p
/-- R64: the canonical NaN, sign clear. -/
def fmtNaN (f : Fmt) : Nat := fmtInf f + 2 ^ (f.p - 1)
/-- The sign bit's weight. -/
def fmtSign (f : Fmt) : Nat := 2 ^ (f.e + f.p)
def fmtMaxFinite (f : Fmt) : Nat := fmtInf f - 1

/-- R69: sticky flags as in cw.hazard bits 21:16: NV DZ OF UF NX SA. -/
abbrev Flags := BitVec 6
def flNV : Flags := 0x20
def flDZ : Flags := 0x10
def flOF : Flags := 0x08
def flUF : Flags := 0x04
def flNX : Flags := 0x02
def flSA : Flags := 0x01
def flagIf (b : Bool) (f : Flags) : Flags := if b then f else 0

/-- R65: a decoded value; `inv` is an invalid product (0 times infinity), which no pattern encodes. -/
inductive FVal where
  | nan
  | inv
  | inf (neg : Bool)
  | fin (neg : Bool) (mag : Nat) (exp : Int)
  deriving DecidableEq, Repr

/-- A result pattern with the flags it raises. -/
structure FRes where
  bits : Nat
  flags : Flags
  deriving DecidableEq, Repr

def signBit (f : Fmt) (x : Nat) : Bool := x / fmtSign f % 2 == 1
def magBits (f : Fmt) (x : Nat) : Nat := x % fmtSign f
def isNaNBits (f : Fmt) (x : Nat) : Bool := decide (fmtInf f < magBits f x)

/-- R65. -/
def decodeF (f : Fmt) (x : Nat) : FVal :=
  let m := magBits f x
  let neg := signBit f x
  if fmtInf f < m then .nan
  else if m = fmtInf f then .inf neg
  else
    let ex := m / 2 ^ f.p
    let fr := m % 2 ^ f.p
    if ex = 0 then .fin neg fr (fmtMinExp f)
    else .fin neg (2 ^ f.p + fr) (fmtMinExp f + (ex - 1 : Nat))

/-- An exact quotient; the denominator is positive. -/
structure Ratio where
  num : Int
  den : Nat
  deriving DecidableEq, Repr

/-- The quotient mag * 2^exp with a sign. -/
def ratioOf (neg : Bool) (mag : Nat) (exp : Int) : Ratio :=
  let n : Int := if neg then -(mag : Int) else mag
  if 0 ≤ exp then ⟨n * (2 ^ exp.toNat : Nat), 1⟩ else ⟨n, 2 ^ (-exp).toNat⟩

def ratioAdd (x y : Ratio) : Ratio :=
  if x.den = y.den then ⟨x.num + y.num, x.den⟩ else ⟨x.num * y.den + y.num * x.den, x.den * y.den⟩
def ratioMul (x y : Ratio) : Ratio := ⟨x.num * y.num, x.den * y.den⟩
def ratioNeg (x : Ratio) : Ratio := ⟨-x.num, x.den⟩
def ratioSub (x y : Ratio) : Ratio := ratioAdd x (ratioNeg y)
/-- x / y for y not zero. -/
def ratioDiv (x y : Ratio) : Ratio :=
  if y.num < 0 then ⟨-(x.num * y.den), x.den * y.num.natAbs⟩ else ⟨x.num * y.den, x.den * y.num.natAbs⟩
def ratioLe (x y : Ratio) : Bool := decide (x.num * y.den ≤ y.num * x.den)
def ratioLt (x y : Ratio) : Bool := decide (x.num * y.den < y.num * x.den)
def ratioEq (x y : Ratio) : Bool := decide (x.num * y.den = y.num * x.den)
def ratioAbs (x : Ratio) : Ratio := ⟨x.num.natAbs, x.den⟩

/-- The value of a finite pattern; 0 for others. -/
def finRatio : FVal → Ratio
  | .fin neg mag exp => ratioOf neg mag exp
  | _ => ⟨0, 1⟩

/-- floor(log2 (n / d)) for n, d positive. -/
def ratioLog2 (n d : Nat) : Int :=
  let l : Int := (Nat.log2 n : Int) - (Nat.log2 d : Int)
  let below : Bool := if 0 ≤ l then decide (n < d * 2 ^ l.toNat) else decide (n * 2 ^ (-l).toNat < d)
  if below then l - 1 else l

/-- R67: whether to step away from zero, given quotient parity, remainder and divisor. -/
def roundUp (rm : Nat) (neg : Bool) (m r d : Nat) : Bool :=
  if rm = 0 then decide (d < 2 * r) || (decide (2 * r = d) && m % 2 == 1)
  else if rm = 1 then false
  else if rm = 2 then !neg && decide (r ≠ 0)
  else if rm = 3 then neg && decide (r ≠ 0)
  else decide (d ≤ 2 * r)

/-- n / d in units of 2^q, rounded: the count of units and whether it is inexact. -/
def roundUnits (rm : Nat) (neg : Bool) (n d : Nat) (q : Int) : Nat × Bool :=
  let n' := if 0 ≤ q then n else n * 2 ^ (-q).toNat
  let d' := if 0 ≤ q then d * 2 ^ q.toNat else d
  let m := n' / d'
  let r := n' % d'
  (if roundUp rm neg m r d' then m + 1 else m, decide (r ≠ 0))

/-- R67: what overflow delivers, as a magnitude. -/
def overflowMag (f : Fmt) (rm : Nat) (neg : Bool) : Nat :=
  if rm = 1 || (rm = 2 && neg) || (rm = 3 && !neg) then fmtMaxFinite f else fmtInf f

/-- R67, R69: the rounding of the non-zero magnitude n / d. -/
def roundMag (f : Fmt) (rm : Nat) (neg : Bool) (n d : Nat) : FRes :=
  let e := ratioLog2 n d
  let qmin := fmtMinExp f
  let q := if e - f.p < qmin then qmin else e - f.p
  let (m, inexact) := roundUnits rm neg n d q
  let bits := (q - qmin).toNat * 2 ^ f.p + m
  let sg := if neg then fmtSign f else 0
  if fmtInf f ≤ bits then ⟨sg + overflowMag f rm neg, flOF ||| flNX⟩
  else
    let u := (roundUnits rm neg n d (e - f.p)).1
    -- below the smallest normal after rounding with an unbounded exponent
    let tiny : Bool := decide (e < qmin + f.p) && !(decide (e = qmin + f.p - 1) && decide (u = 2 ^ (f.p + 1)))
    ⟨sg + bits, flagIf inexact flNX ||| flagIf (inexact && tiny) flUF⟩

/-- R67, R68: the rounding of an exact value; `zneg` is the sign of an exact zero. -/
def roundRatio (f : Fmt) (rm : Nat) (x : Ratio) (zneg : Bool) : FRes :=
  if x.num = 0 then ⟨if zneg then fmtSign f else 0, 0⟩
  else roundMag f rm (decide (x.num < 0)) x.num.natAbs x.den

def negF : FVal → FVal
  | .inf n => .inf !n
  | .fin n m e => .fin (!n) m e
  | x => x

/-- An exact product; 0 times infinity is invalid. -/
def mulF : FVal → FVal → FVal
  | .nan, _ => .nan
  | _, .nan => .nan
  | .inv, _ => .inv
  | _, .inv => .inv
  | .inf a, .inf b => .inf (a != b)
  | .inf a, .fin b m _ => if m = 0 then .inv else .inf (a != b)
  | .fin b m _, .inf a => if m = 0 then .inv else .inf (a != b)
  | .fin a m e, .fin b n g => .fin (a != b) (m * n) (e + g)

def isNaNF : FVal → Bool
  | .nan => true
  | _ => false
def isInvF : FVal → Bool
  | .inv => true
  | _ => false
def infSign : FVal → Option Bool
  | .inf n => some n
  | _ => none
/-- The sign of a zero term. -/
def zeroSign : FVal → Option Bool
  | .fin n 0 _ => some n
  | _ => none

def canonNaN (f : Fmt) (fl : Flags) : FRes := ⟨fmtNaN f, fl⟩
def infRes (f : Fmt) (neg : Bool) : FRes := ⟨(if neg then fmtSign f else 0) + fmtInf f, 0⟩

/-- R68: the sign of an exact zero sum of these terms. -/
def zeroSumSign (rm : Nat) (ts : List FVal) : Bool :=
  if ts.all fun t => zeroSign t == some true then true
  else if ts.all fun t => zeroSign t == some false then false
  else rm == 3

/-- R75, R68: the exact sum of terms, rounded once; `nanQuiet` says that a NaN input suppresses NV for an invalid product. -/
def sumF (f : Fmt) (rm : Nat) (nanQuiet : Bool) (ts : List FVal) : FRes :=
  let anyNaN := ts.any isNaNF
  let inv := ts.any isInvF
  let pos := ts.any fun t => infSign t == some false
  let neg := ts.any fun t => infSign t == some true
  if anyNaN then canonNaN f (flagIf (inv && !nanQuiet) flNV)
  else if inv || (pos && neg) then canonNaN f flNV
  else if pos then infRes f false
  else if neg then infRes f true
  else roundRatio f rm (ts.foldl (fun acc t => ratioAdd acc (finRatio t)) ⟨0, 1⟩) (zeroSumSign rm ts)

/-- R141. -/
def fAdd (f : Fmt) (rm x y : Nat) : FRes := sumF f rm true [decodeF f x, decodeF f y]
def fSub (f : Fmt) (rm x y : Nat) : FRes := sumF f rm true [decodeF f x, negF (decodeF f y)]
def fMul (f : Fmt) (rm x y : Nat) : FRes := sumF f rm true [mulF (decodeF f x) (decodeF f y)]
/-- R141: one rounding; 0 times infinity is invalid whatever z holds. -/
def fFma (f : Fmt) (rm x y z : Nat) : FRes := sumF f rm false [mulF (decodeF f x) (decodeF f y), decodeF f z]

/-- R142: the order in which -0 is below +0. -/
def orderKey (f : Fmt) (x : Nat) : Int := if signBit f x then -(magBits f x : Int) - 1 else magBits f x
def fMin (f : Fmt) (x y : Nat) : Nat :=
  if isNaNBits f x then (if isNaNBits f y then fmtNaN f else y)
  else if isNaNBits f y then x
  else if orderKey f y < orderKey f x then y else x
def fMax (f : Fmt) (x y : Nat) : Nat :=
  if isNaNBits f x then (if isNaNBits f y then fmtNaN f else y)
  else if isNaNBits f y then x
  else if orderKey f x < orderKey f y then y else x
def fAbs (f : Fmt) (x : Nat) : Nat := if isNaNBits f x then fmtNaN f else magBits f x
def fNeg (f : Fmt) (x : Nat) : Nat :=
  if isNaNBits f x then fmtNaN f else if signBit f x then magBits f x else magBits f x + fmtSign f

/-- R143: the comparison key, in which +0 and -0 are equal. -/
def cmpKey (f : Fmt) (x : Nat) : Int := if signBit f x then -(magBits f x : Int) else magBits f x
def fUn (f : Fmt) (x y : Nat) : Bool := isNaNBits f x || isNaNBits f y
def fEq (f : Fmt) (x y : Nat) : Bool := !fUn f x y && decide (cmpKey f x = cmpKey f y)
def fLt (f : Fmt) (x y : Nat) : Bool := !fUn f x y && decide (cmpKey f x < cmpKey f y)
def fLe (f : Fmt) (x y : Nat) : Bool := !fUn f x y && decide (cmpKey f x ≤ cmpKey f y)

/-- R144. -/
def fRcp (f : Fmt) (rm x : Nat) : FRes :=
  match decodeF f x with
  | .nan => canonNaN f 0
  | .inv => canonNaN f 0
  | .inf neg => ⟨if neg then fmtSign f else 0, 0⟩
  | .fin neg m e =>
    if m = 0 then ⟨(if neg then fmtSign f else 0) + fmtInf f, flDZ⟩
    else roundRatio f rm (ratioDiv ⟨1, 1⟩ (ratioOf neg m e)) neg

/-- One binary digit of an integer square root. -/
def isqrtStep (n : Nat) (r b : Nat) : Nat := if (r + 2 ^ b) * (r + 2 ^ b) ≤ n then r + 2 ^ b else r
/-- The integer square root, from digit `b - 1` down. -/
def isqrtFrom (n : Nat) : Nat → Nat → Nat
  | 0, r => r
  | b + 1, r => isqrtFrom n b (isqrtStep n r b)
def isqrt (n : Nat) : Nat := isqrtFrom n (Nat.log2 n / 2 + 1) 0

/-- R80, R144: correctly rounded. The integer root keeps at least p + 3 digits; a half unit stands for any value strictly between. -/
def fSqrt (f : Fmt) (rm x : Nat) : FRes :=
  match decodeF f x with
  | .nan => canonNaN f 0
  | .inv => canonNaN f 0
  | .inf neg => if neg then canonNaN f flNV else infRes f false
  | .fin neg m e =>
    if m = 0 then ⟨if neg then fmtSign f else 0, 0⟩
    else if neg then canonNaN f flNV
    else
      let k : Nat := 2 * (f.p + 4) + (if e % 2 = 0 then 0 else 1)
      let n := m * 2 ^ k
      let r := isqrt n
      let v := if r * r = n then 2 * r else 2 * r + 1
      roundRatio f rm (ratioOf false v ((e - k) / 2 - 1)) false

/-- x rounded to an integer by RM, with whether it is inexact. -/
def roundInt (rm : Nat) (x : Ratio) : Int × Bool :=
  let neg := decide (x.num < 0)
  let (m, ix) := roundUnits rm neg x.num.natAbs x.den 0
  (if neg then -(m : Int) else m, ix)

/-- R148: FRND. -/
def fRnd (f : Fmt) (rm x : Nat) : FRes :=
  match decodeF f x with
  | .nan => canonNaN f 0
  | .inv => canonNaN f 0
  | .inf _ => ⟨x, 0⟩
  | .fin neg m e =>
    let (k, ix) := roundInt rm (ratioOf neg m e)
    let r := roundRatio f 0 ⟨k, 1⟩ neg
    ⟨r.bits, flagIf ix flNX⟩

/-- R148: FSCALE, y a signed integer; a scale beyond the range of every result is clamped first, which changes no result. -/
def fScale (f : Fmt) (rm x : Nat) (y : Int) : FRes :=
  match decodeF f x with
  | .nan => canonNaN f 0
  | .inv => canonNaN f 0
  | .inf _ => ⟨x, 0⟩
  | .fin neg m e =>
    let y' : Int := if y < -1000 then -1000 else if 1000 < y then 1000 else y
    roundRatio f rm (ratioOf neg m (e + y')) neg

/-- R147. -/
def fClass (f : Fmt) (x : Nat) : Nat :=
  let neg := signBit f x
  let m := magBits f x
  if fmtInf f < m then 2 ^ 8
  else if m = fmtInf f then (if neg then 2 ^ 0 else 2 ^ 7)
  else if m = 0 then (if neg then 2 ^ 3 else 2 ^ 4)
  else if m < 2 ^ f.p then (if neg then 2 ^ 2 else 2 ^ 5)
  else (if neg then 2 ^ 1 else 2 ^ 6)

/-- R145: float to float. -/
def cvtFF (src dst : Fmt) (rm x : Nat) : FRes :=
  match decodeF src x with
  | .nan => canonNaN dst 0
  | .inv => canonNaN dst 0
  | .inf neg => infRes dst neg
  | .fin neg m e => roundRatio dst rm (ratioOf neg m e) neg

/-- R145, R146: an integer to float. -/
def cvtIF (dst : Fmt) (rm : Nat) (x : Int) : FRes := roundRatio dst rm ⟨x, 1⟩ false

/-- R69, R145, R146: float to an integer between lo and hi, with SA, NX and NV. -/
def cvtFI (src : Fmt) (rm : Nat) (lo hi : Int) (x : Nat) : Int × Flags :=
  match decodeF src x with
  | .nan => (0, flNV)
  | .inv => (0, flNV)
  | .inf neg => (if neg then lo else hi, flSA ||| flNX)
  | .fin neg m e =>
    let (k, ix) := roundInt rm (ratioOf neg m e)
    if k < lo then (lo, flSA ||| flNX)
    else if hi < k then (hi, flSA ||| flNX)
    else (k, flagIf ix flNX)

/-- R150: DOT2F, elements in P, the sum in F32. -/
def fDot2 (P : Fmt) (rm a0 b0 a1 b1 d : Nat) : FRes :=
  sumF f32 rm true [decodeF f32 d, mulF (decodeF P a0) (decodeF P b0), mulF (decodeF P a1) (decodeF P b1)]

/-- R151: QSCALE. A zero integer counts as +0, so that a zero result has the sign of b. -/
def fQscale (rm : Nat) (a : Int) (b : Nat) : FRes :=
  sumF f32 rm true [mulF (.fin (decide (a < 0)) a.natAbs 0) (decodeF f32 b)]

end Sys2Proof.Machine
end

