-- ==== Sys2Proof/Machine/Approx.lean ====
section
/-!
DEFINITION. The functions of stated accuracy (R80, R231). Each exact value is enclosed between two quotients; the delivered result is a
free value (Config.bounded) clamped into the patterns that the stated bound allows (assumption log 2). The listed exact points are exact.
-/
namespace Sys2Proof.Machine

/-- The fixed-point unit of the enclosures. -/
def fx : Nat := 2 ^ 128
/-- floor(pi * 2^128) and floor(log2(e) * 2^128). -/
def fxPi : Nat := 0x3243F6A8885A308D313198A2E03707344
def fxLog2e : Nat := 0x171547652B82FE1777D0FFDA0D23A7D11

/-- An enclosure: the exact value lies between `lo` and `hi`. -/
structure Encl where
  lo : Ratio
  hi : Ratio
  deriving DecidableEq, Repr

def ratioInt (n : Int) : Ratio := ⟨n, 1⟩
def ratioPow2 (e : Int) : Ratio := ratioOf false 1 e
def ratioFloor (x : Ratio) : Int := x.num / x.den
def ratioMin (x y : Ratio) : Ratio := if ratioLe x y then x else y
def ratioMax (x y : Ratio) : Ratio := if ratioLe x y then y else x

/-- 1 / sqrt(n / d), n and d positive. -/
def enclRsqrt (n d : Nat) : Encl :=
  let k : Nat := 96 + (Nat.log2 n + 1 - Nat.log2 d + 1) / 2
  let s := isqrt (d * 2 ^ (2 * k) / n)
  ⟨ratioOf false s (-k), ratioOf false (s + 1) (-k)⟩

/-- One factor 2^(2^-i) of a power of two: `lo` and `hi` hold the product so far, `clo` and `chi` the last constant. -/
def exp2Loop : Nat → Nat → Nat → Nat → Nat → Nat → Nat × Nat
  | 0, _, lo, hi, _, _ => (lo, hi)
  | n + 1, frac, lo, hi, clo, chi =>
    let clo' := isqrt (clo * fx)
    let chi' := isqrt (chi * fx) + 1
    let f := frac * 2
    if fx ≤ f then exp2Loop n (f - fx) (lo * clo' / fx) (hi * chi' / fx + 1) clo' chi'
    else exp2Loop n f lo hi clo' chi'

/-- 2^x close to 1: 2^x is convex, so that for x above 0 it lies between 1 + x/2 and 1 + x, and for x below 0 between 1 + x and 1 + x/2. -/
def enclNearOne (xlo xhi : Ratio) : Encl :=
  let half (x : Ratio) : Ratio := ratioMul x ⟨1, 2⟩
  ⟨ratioAdd (ratioInt 1) (ratioMin xlo (half xlo)), ratioAdd (ratioInt 1) (ratioMax xhi (half xhi))⟩
/-- 2^x by 96 factors, and what the rest of x adds. -/
def exp2Encl (xlo xhi : Ratio) : Encl :=
  let part (x : Ratio) : Int × Nat :=
    let n := ratioFloor x
    (n, ((x.num - n * x.den).toNat * fx) / x.den)
  let (nl, fl) := part xlo
  let (nh, fh) := part xhi
  let l := (exp2Loop 96 fl fx fx (2 * fx) (2 * fx)).1
  let h := (exp2Loop 96 (fh + 1) fx fx (2 * fx) (2 * fx)).2
  ⟨ratioMul (ratioOf false l (-128)) (ratioPow2 nl),
   ratioMul (ratioOf false (h + h / 2 ^ 96 + 1) (-128)) (ratioPow2 nh)⟩
/-- 2^x for x between two close quotients, above -400 and below 400. -/
def enclExp2 (xlo xhi : Ratio) : Encl :=
  if ratioLt (ratioPow2 (-60)) (ratioMax (ratioAbs xlo) (ratioAbs xhi)) then exp2Encl xlo xhi else enclNearOne xlo xhi

/-- Binary digits of log2 of a mantissa between 1 and 2, given between `lo` and `hi`; stops where a digit is not decided. -/
def log2Loop : Nat → Nat → Nat → Nat → Nat → Nat × Nat
  | 0, acc, w, _, _ => (acc, w)
  | n + 1, acc, w, lo, hi =>
    let l := lo * lo / fx
    let h := hi * hi / fx + 1
    if 2 * fx ≤ l then log2Loop n (2 * acc + 1) (w + 1) (l / 2) (h / 2 + 1)
    else if h < 2 * fx then log2Loop n (2 * acc) (w + 1) l h
    else (acc, w)

/-- log2 (n / d), n and d positive. -/
def enclLog2 (n d : Nat) : Encl :=
  let e := ratioLog2 n d
  let m := if 0 ≤ e then n * fx / (d * 2 ^ e.toNat) else n * 2 ^ (-e).toNat * fx / d
  let (acc, w) := log2Loop 110 0 0 m (m + 1)
  ⟨ratioAdd (ratioInt e) ⟨acc, 2 ^ w⟩, ratioAdd (ratioInt e) ⟨(acc + 1 : Nat), 2 ^ w⟩⟩

/-- The alternating sine series in fixed point. -/
def sinLoop : Nat → Nat → Nat → Int → Int → Int
  | 0, _, _, _, sum => sum
  | n + 1, k, y2, term, sum =>
    let t := -(term * y2 / fx / ((2 * k) * (2 * k + 1) : Nat))
    sinLoop n (k + 1) y2 t (sum + t)

/-- sin(pi u) for u between 0 and 1/2: the series; it lies between 2u and pi u, and, with t = 1/2 - u, between 1 - 5t^2 and 1 - 4t^2. -/
def enclSinPi (u : Ratio) : Encl :=
  let y : Nat := u.num.toNat * fxPi / u.den
  let s := sinLoop 16 1 (y * y / fx) y y
  let t := ratioSub ⟨1, 2⟩ u
  let below (k : Int) : Ratio := ratioSub (ratioInt 1) (ratioMul (ratioInt k) (ratioMul t t))
  ⟨ratioMax (ratioMax (ratioMul (ratioInt 2) u) (below 5)) (ratioSub ⟨s, fx⟩ (ratioPow2 (-90))),
   ratioMin (ratioMin (ratioMul u ⟨fxPi + 1, fx⟩) (below 4)) (ratioAdd ⟨s, fx⟩ (ratioPow2 (-90)))⟩

/-- The pattern magnitudes of `f` between two non-negative quotients, and the one picked by `sel`. -/
def pickMag (f : Fmt) (lo hi : Ratio) (sel : Nat) : Nat :=
  let bl := if lo.num ≤ 0 then 0 else (roundMag f 2 false lo.num.natAbs lo.den).bits
  let bh := if hi.num ≤ 0 then 0 else (roundMag f 1 false hi.num.natAbs hi.den).bits
  let bl := min bl (fmtMaxFinite f)
  let bh := min bh (fmtMaxFinite f)
  if bh ≤ bl then bl else bl + sel % (bh - bl + 1)

/-- The spacing of `f` at a positive quotient. -/
def ulpOf (f : Fmt) (x : Ratio) : Ratio :=
  if x.num ≤ 0 then ratioPow2 (fmtMinExp f)
  else
    let e := ratioLog2 x.num.natAbs x.den - f.p
    ratioPow2 (if e < fmtMinExp f then fmtMinExp f else e)

/-- R80, R69: the flags of a bounded F32 result that differs from the exact value. UF is set where the exact value or the delivered one lies below
the smallest normal: R69 and R80 do not say which of the two counts (log 40). -/
def boundedFlags (f : Fmt) (mag : Nat) (hi : Ratio) : Flags :=
  let minNormal := ratioPow2 (fmtMinExp f + f.p)
  flNX ||| flagIf (ratioLt hi minNormal || (decide (mag ≠ 0) && decide (mag < 2 ^ f.p))) flUF

/-- A bounded F32 result: `neg` its sign, `e` an enclosure of the magnitude, `bound` the largest error, `sel` the free choice. -/
def boundedF32 (sel : Nat) (neg : Bool) (e : Encl) (bound : Ratio) : FRes :=
  let mag := pickMag f32 (ratioSub e.lo bound) (ratioAdd e.hi bound) sel
  ⟨(if neg then fmtSign f32 else 0) + mag, boundedFlags f32 mag e.hi⟩

/-- R80: function codes. -/
inductive BFun where
  | rsq
  | exp2
  | log2
  | sinpi
  | cospi
  deriving DecidableEq, Repr

def bfunCode : BFun → Nat
  | .rsq => 0
  | .exp2 => 1
  | .log2 => 2
  | .sinpi => 3
  | .cospi => 4

/-- sin(pi v) for a value that is no multiple of 1/2. -/
def sinPiAt (sel : Nat) (v : Ratio) : FRes :=
  let k := ratioFloor v
  let u := ratioSub v (ratioInt k)
  let half : Ratio := ⟨1, 2⟩
  let u := if ratioLe u half then u else ratioSub (ratioInt 1) u
  boundedF32 sel (decide (k % 2 = 1)) (enclSinPi u) (ratioPow2 (-22))

/-- R80 on an F32 pattern, with the flags that the rule demands; `sel` picks the result among those of the bound. The ulp is that at the lower end
of the enclosure, which has the exact value's exponent. -/
def boundedFun (g : BFun) (sel x : Nat) : FRes :=
  match decodeF f32 x with
  | .nan => canonNaN f32 0
  | .inv => canonNaN f32 0
  | .inf neg => match g with
    | .rsq => if neg then canonNaN f32 flNV else ⟨0, 0⟩
    | .exp2 => if neg then ⟨0, 0⟩ else infRes f32 false
    | .log2 => if neg then canonNaN f32 flNV else infRes f32 false
    | .sinpi => canonNaN f32 flNV
    | .cospi => canonNaN f32 flNV
  | .fin neg m e =>
    let v := ratioOf neg m e
    match g with
    | .rsq =>
      if m = 0 then ⟨(infRes f32 neg).bits, flDZ⟩
      else if neg then canonNaN f32 flNV
      else
        let l := ratioLog2 v.num.natAbs v.den
        if ratioEq v (ratioPow2 l) && decide (l % 2 = 0) then roundRatio f32 0 (ratioPow2 (-(l / 2))) false
        else
          let en := enclRsqrt v.num.natAbs v.den
          boundedF32 sel false en (ulpOf f32 en.lo)
    | .exp2 =>
      if ratioLt v (ratioInt (-300)) then ⟨if v.num % v.den = 0 then 0 else pickMag f32 (ratioInt 0) (ratioPow2 (-148)) sel, flUF ||| flNX⟩
      else if ratioLe (ratioInt 128) v then ⟨fmtInf f32, flOF ||| flNX⟩
      else if v.num % v.den = 0 then
        let n := v.num / v.den
        if n < fmtMinExp f32 then ⟨0, flUF ||| flNX⟩ else roundRatio f32 0 (ratioPow2 n) false
      else
        let en := enclExp2 v v
        boundedF32 sel false en (ratioMul (ratioInt 2) (ulpOf f32 en.lo))
    | .log2 =>
      if m = 0 then ⟨(infRes f32 true).bits, flDZ⟩
      else if neg then canonNaN f32 flNV
      else
        let l := ratioLog2 v.num.natAbs v.den
        if ratioEq v (ratioPow2 l) then roundRatio f32 0 (ratioInt l) false
        else
          let en := enclLog2 v.num.natAbs v.den
          let ng := ratioLt v (ratioInt 1)
          let en' : Encl := if ng then ⟨ratioNeg en.hi, ratioNeg en.lo⟩ else en
          let near := ratioLe ⟨1, 2⟩ v && ratioLe v (ratioInt 2)
          boundedF32 sel ng en' (if near then ratioPow2 (-22) else ratioMul (ratioInt 2) (ulpOf f32 en'.lo))
    | .sinpi =>
      if v.num % v.den = 0 then ⟨if neg then fmtSign f32 else 0, 0⟩
      else if (2 * v.num) % v.den = 0 then roundRatio f32 0 (ratioInt (if ratioFloor v % 2 = 0 then 1 else -1)) false
      else sinPiAt sel v
    | .cospi =>
      if v.num % v.den = 0 then roundRatio f32 0 (ratioInt (if (v.num / v.den) % 2 = 0 then 1 else -1)) false
      else if (2 * v.num) % v.den = 0 then ⟨0, 0⟩
      else sinPiAt sel (ratioAdd v ⟨1, 2⟩)

/-- R80: at a finite input whose result is exact NX may also be set. -/
def mayInexact (code fmt x : Nat) (fin : Bool) (r : FRes) : FRes :=
  if fin && r.flags == 0 then ⟨r.bits, flagIf (Config.boundedNX code fmt x) flNX⟩ else r
def isFinite (f : Fmt) (x : Nat) : Bool := decide (magBits f x < fmtInf f)
/-- The number of a format in the free choices: 0 F32, 1 F16, 2 BF16. -/
def fmtCode (f : Fmt) : Nat := if f = f32 then 0 else if f = f16 then 1 else 2

/-- R80: whether an F32 value, rounded to `f` with an unbounded exponent, is non-zero and below the smallest normal of `f`. -/
def tinyIn (f : Fmt) (x : Nat) : Bool :=
  match decodeF f32 x with
  | .fin _ m e =>
    if m = 0 then false
    else ((roundMag f 0 false (ratioOf false m e).num.natAbs (ratioOf false m e).den).flags &&& flUF) != 0
      || decide ((roundMag f 0 false (ratioOf false m e).num.natAbs (ratioOf false m e).den).bits < 2 ^ f.p)
  | _ => false

/-- A finite pattern whose value is an integer. -/
def integral (f : Fmt) (x : Nat) : Bool :=
  let v := finRatio (decodeF f x)
  isFinite f x && v.num % v.den == 0
/-- R80: an element of F16x2 or BF16x2 is evaluated with the F32 bound, by a choice of its own, and then rounded to nearest-even. UF asks that the
element differs from the exact value; a FEXP2 of an integer below the F32 range, whose F32 value is +0, sets UF by the table of R80 (log 40). -/
def boundedElem (g : BFun) (f : Fmt) (x : Nat) : FRes :=
  let code := bfunCode g
  let sel := Config.bounded code (fmtCode f) x
  if f = f32 then mayInexact code 0 x (isFinite f32 x) (boundedFun g sel x)
  else
    let r := boundedFun g sel (cvtFF f f32 0 x).bits
    let o := cvtFF f32 f 0 r.bits
    let differs := ((r.flags ||| o.flags) &&& flNX) != 0
    mayInexact code (fmtCode f) x (isFinite f x) ⟨o.bits, (r.flags &&& (flNV ||| flDZ ||| flOF)) ||| (o.flags &&& flOF) |||
      (if differs then flNX ||| flagIf (tinyIn f r.bits || (r.flags &&& flUF) != 0 && r.bits == 0 && integral f x) flUF else 0)⟩

/-- e^x. -/
def enclExp (x : Ratio) : Encl :=
  let a := ratioMul x ⟨fxLog2e, fx⟩
  let b := ratioMul x ⟨fxLog2e + 1, fx⟩
  enclExp2 (ratioMin a b) (ratioMax a b)

/-- The series of the normal distribution function: the sum of (-1)^n x^(2n+1) / (n! 2^n (2n+1)). -/
def phiLoop : Nat → Nat → Int → Int → Int → Int
  | 0, _, _, _, sum => sum
  | n + 1, k, x2, pw, sum =>
    let p := -(pw * x2 / fx / (2 * k : Nat))
    phiLoop n (k + 1) x2 p (sum + p / (2 * k + 1 : Nat))

/-- x times Phi(x), for x between -6 and 6. -/
def enclGelu (x : Ratio) : Encl :=
  let xf : Int := x.num * fx / x.den
  let s := phiLoop 120 1 (xf * xf / fx) xf xf
  let c : Int := isqrt (fx * fx * fx / (2 * fxPi))
  let phi : Ratio := ratioAdd ⟨1, 2⟩ ⟨s * c / fx, fx⟩
  let v := ratioMul x phi
  ⟨ratioSub v (ratioPow2 (-80)), ratioAdd v (ratioPow2 (-80))⟩

/-- x / (1 + e^-x). -/
def enclSilu (x : Ratio) : Encl :=
  let e := enclExp (ratioNeg x)
  let a := ratioDiv x (ratioAdd (ratioInt 1) e.lo)
  let b := ratioDiv x (ratioAdd (ratioInt 1) e.hi)
  ⟨ratioMin a b, ratioMax a b⟩

/-- The rounding of a value that `sel` picks within an enclosure. A zero is -0 where the value is negative, which is open where the enclosure
holds values of both signs (R231 bounds the value and not its sign; log 40). -/
def pickSigned (f : Fmt) (e : Encl) (sel : Nat) : Nat :=
  let kl : Int := cmpKey f (roundRatio f 0 e.lo false).bits
  let kh : Int := cmpKey f (roundRatio f 0 e.hi false).bits
  let n := (kh - kl).toNat + 1
  let k : Int := kl + (sel % n : Nat)
  let neg := ratioLt e.hi (ratioInt 0) || ratioLt e.lo (ratioInt 0) && sel / n % 2 == 1
  if k < 0 ∨ (k = 0 ∧ neg) then fmtSign f + k.natAbs else k.natAbs

/-- R231: the error, the larger of a relative and an absolute one, around an enclosure. -/
def widen (e : Encl) (rel : Int) (abs : Option Int) : Encl :=
  let m := ratioMax (ratioAbs e.lo) (ratioAbs e.hi)
  let r := ratioMul m (ratioPow2 rel)
  let w := match abs with
    | none => r
    | some a => ratioMax r (ratioPow2 a)
  ⟨ratioSub e.lo w, ratioAdd e.hi w⟩

/-- The magnitude nearest to zero in an enclosure. -/
def leastMag (e : Encl) : Ratio :=
  if ratioLe e.lo (ratioInt 0) && ratioLe (ratioInt 0) e.hi then ratioInt 0 else ratioMin (ratioAbs e.lo) (ratioAbs e.hi)
/-- R231, R69: the flags of roundF36 of a free value of the enclosure `e` that rounds to r. The value may be r exactly where r lies in the
enclosure, which leaves NX open, but for -0, which stands for a negative value; else it differs. At the smallest normal it may lie below it. -/
def roundedFlags (code x r : Nat) (e : Encl) : Flags :=
  let mag := magBits f36 r
  let v := finRatio (decodeF f36 r)
  let exact := ratioLe e.lo v && ratioLe v e.hi && !(mag == 0 && signBit f36 r)
  let low := roundRatio f36 0 (leastMag e) false
  let below := (low.flags &&& flUF) != 0 || decide (low.bits < 2 ^ f36.p)
  if fmtInf f36 ≤ mag then flOF ||| flNX
  else if !exact || Config.boundedNX code 1 x then
    flNX ||| flagIf (decide (mag < 2 ^ f36.p) || decide (mag = 2 ^ f36.p) && below && Config.boundedNX code 2 x) flUF
  else 0

/-- R231: function `q` on an F36 pattern, with roundF36. -/
def tactFun (q x : Nat) : FRes :=
  match decodeF f36 x with
  | .nan => canonNaN f36 0
  | .inv => canonNaN f36 0
  | .inf neg =>
    if q = 4 then infRes f36 false else if neg then ⟨0, 0⟩ else infRes f36 false
  | .fin neg m e =>
    let v := ratioOf neg m e
    if q = 0 then (if neg then ⟨0, 0⟩ else ⟨x, 0⟩)
    else if q = 1 then
      if m = 0 then ⟨0, 0⟩
      else if ratioLe (ratioInt 6) v then ⟨x, 0⟩
      else if ratioLe v (ratioInt (-6)) then ⟨0, 0⟩
      else
        let e := widen (enclGelu v) (-21) (some (-26))
        let r := pickSigned f36 e (Config.bounded 11 1 x)
        ⟨r, roundedFlags 11 x r e⟩
    else if q = 2 then
      if m = 0 then ⟨0, 0⟩
      else if ratioLe (ratioInt 24) v then ⟨x, 0⟩
      else if ratioLe v (ratioInt (-104)) then ⟨0, 0⟩
      else
        let e := widen (enclSilu v) (-21) (some (-26))
        let r := pickSigned f36 e (Config.bounded 12 1 x)
        ⟨r, roundedFlags 12 x r e⟩
    else if q = 3 then
      if m = 0 then ⟨2 ^ f36.p * 127, 0⟩
      else if ratioLt ⟨8873, 100⟩ v then ⟨fmtInf f36, flOF ||| flNX⟩
      else if ratioLt v (ratioInt (-200)) then ⟨0, flUF ||| flNX⟩
      else
        let e := widen (enclExp v) (-22) none
        let r := pickSigned f36 e (Config.bounded 13 1 x)
        ⟨r, roundedFlags 13 x r e⟩
    else roundRatio f36 0 (ratioMul v v) false

end Sys2Proof.Machine
end

