-- ==== Sys2Proof/Machine/Sparse.lean ====
section
/-!
DEFINITION. Sparse arrays and tables as plain sorted lists, in one canonical form each: keys strictly rising, and in a sparse array no
entry equal to what an unlisted key reads as. Equal contents are then equal data.
-/
namespace Sys2Proof.Machine

/-- An array indexed by Nat; an unlisted index reads as the array's default value, which each operation names. -/
abbrev Sparse (α : Type) := List (Nat × α)
/-- A table of records by handle. -/
abbrev Tbl (α : Type) := List (Nat × α)

variable {α : Type}

/-- The element at `k`; `z` where nothing is listed. -/
def spGet (z : α) : Sparse α → Nat → α
  | [], _ => z
  | (k', v) :: t, k => if k' = k then v else if k < k' then z else spGet z t k

/-- Listing `v` at `k`, or dropping the entry where `v` is the default. -/
def spCons [DecidableEq α] (z : α) (k : Nat) (v : α) (t : Sparse α) : Sparse α :=
  if v = z then t else (k, v) :: t

/-- The array with element `k` set to `v`. -/
def spSet [DecidableEq α] (z : α) : Sparse α → Nat → α → Sparse α
  | [], k, v => spCons z k v []
  | (k', v') :: t, k, v =>
    if k < k' then spCons z k v ((k', v') :: t)
    else if k = k' then spCons z k v t
    else (k', v') :: spSet z t k v

/-- Every key is at least `lo`, keys rise strictly, and no entry is the default. -/
def spWfFrom [DecidableEq α] (z : α) (lo : Nat) : Sparse α → Bool
  | [] => true
  | (k, v) :: t => decide (lo ≤ k) && decide (v ≠ z) && spWfFrom z (k + 1) t

/-- The canonical form. -/
def spWf [DecidableEq α] (z : α) (m : Sparse α) : Bool := spWfFrom z 0 m

/-- The array without the entries whose key fails `p`. -/
def spKeep (p : Nat → Bool) (m : Sparse α) : Sparse α := m.filter fun e => p e.1

/-- Setting the elements `k`, `k + 1`, ... to the values of a list. -/
def spSetList [DecidableEq α] (z : α) (m : Sparse α) (k : Nat) : List α → Sparse α
  | [] => m
  | v :: vs => spSetList z (spSet z m k v) (k + 1) vs

/-- The `n` elements from `k` on. -/
def spRange (z : α) (m : Sparse α) (k n : Nat) : List α := (List.range n).map fun j => spGet z m (k + j)

/-- The record of handle `k`. -/
def tbGet? : Tbl α → Nat → Option α
  | [], _ => none
  | (k', v) :: t, k => if k' = k then some v else tbGet? t k

/-- The record of handle `k`, or `z` where the table has none. -/
def tbGet (z : α) (m : Tbl α) (k : Nat) : α := (tbGet? m k).getD z

/-- The table with record `k` set to `v`. -/
def tbPut : Tbl α → Nat → α → Tbl α
  | [], k, v => [(k, v)]
  | (k', v') :: t, k, v =>
    if k < k' then (k, v) :: (k', v') :: t
    else if k = k' then (k, v) :: t
    else (k', v') :: tbPut t k v

/-- The table without record `k`. -/
def tbErase (m : Tbl α) (k : Nat) : Tbl α := m.filter fun e => e.1 != k

/-- `f` applied to each record. -/
def tbMap (f : Nat → α → α) (m : Tbl α) : Tbl α := m.map fun e => (e.1, f e.1 e.2)

/-- List element `i` replaced. -/
def setAt (l : List α) (i : Nat) (v : α) : List α := l.set i v

/-- The list without element `i`. -/
def dropAt : List α → Nat → List α
  | [], _ => []
  | _ :: t, 0 => t
  | h :: t, i + 1 => h :: dropAt t i

/-- The smallest element of a list under a key, the earlier one on a tie. -/
def minBy (f : α → Nat) : List α → Option α
  | [] => none
  | h :: t => match minBy f t with
    | none => some h
    | some m => if f m < f h then some m else some h

end Sys2Proof.Machine
end

