-- ==== Sys2Proof/Syntax.lean ====
section
/-!
DEFINITION. The instructions of the Denyx (R42 to R52) and the events of spec/opcode_table.json, as one inductive type.
An instruction word carries its switch marker `y` first (R42); register and immediate fields follow in the order of the word.
An event row has no word: its arguments say which unit acts, and on what.
-/
namespace Sys2Proof

/-- R45: a vector register; 0 to 31 name g0 to g31, 32 + n names wn. -/
abbrev VReg := Fin 128
/-- R45: a scalar register s0 to s63. -/
abbrev SReg := Fin 64
/-- R45: a mask register m0 to m7. -/
abbrev MReg := Fin 8
/-- R45: an accumulator slot acc0 to acc3. -/
abbrev AccReg := Fin 4
/-- R45: a threshold register th0 to th7. -/
abbrev ThReg := Fin 8
/-- R45, R51: a queue number; 5 to 7 name no queue. -/
abbrev QReg := Fin 8

/-- R46: the four forms of a "b,k operand". -/
inductive BOp where
  /-- k = 00: lane i reads lane i of a vector register. -/
  | vec (r : VReg)
  /-- k = 01: every lane reads a scalar register. -/
  | sca (r : SReg)
  /-- k = 10: lane i reads lane i + MODE.XD. -/
  | xlane (r : VReg)
  /-- k = 11: lane i reads lane 4 (i div 4) + MODE.XD[1:0]. -/
  | quad (r : VReg)
  deriving DecidableEq, Repr

/-- R421, R419: one access of an agent outside the package. -/
inductive OutsideAccess where
  | read (n : Nat)
  | write (bytes : List Nat)
  /-- An atomic of `k` words of 32 bits: AO, MODE.ET, and the operands (R190). -/
  | atomic (ao et k v v2 : Nat)
  deriving DecidableEq, Repr

/-- R240, R241: what the distributor makes resident: the next group (or atoll) of a launch, or the oldest batch of a node. -/
inductive Placing where
  | launch (l : Nat)
  | batch (island graph node : Nat)
  deriving DecidableEq, Repr

/-- Every row of the opcode table: 192 instruction words, then 79 events. -/
inductive Instr where
  /-- IADD, R126. -/
  | iadd (y : Bool) (d : VReg) (a : VReg) (b : BOp)
  /-- ISUB, R126. -/
  | isub (y : Bool) (d : VReg) (a : VReg) (b : BOp)
  /-- IMUL, R126. -/
  | imul (y : Bool) (d : VReg) (a : VReg) (b : BOp)
  /-- IMULH, R126. -/
  | imulh (y : Bool) (d : VReg) (a : VReg) (b : BOp)
  /-- IMAD, R126. -/
  | imad (y : Bool) (d : VReg) (a : VReg) (b : BOp)
  /-- IMIN, R126. -/
  | imin (y : Bool) (d : VReg) (a : VReg) (b : BOp)
  /-- IMAX, R126. -/
  | imax (y : Bool) (d : VReg) (a : VReg) (b : BOp)
  /-- IABS, R126. -/
  | iabs (y : Bool) (d : VReg) (a : VReg)
  /-- AND, R127. -/
  | and (y : Bool) (d : VReg) (a : VReg) (b : BOp)
  /-- OR, R127. -/
  | or (y : Bool) (d : VReg) (a : VReg) (b : BOp)
  /-- XOR, R127. -/
  | xor (y : Bool) (d : VReg) (a : VReg) (b : BOp)
  /-- SHL, R128. -/
  | shl (y : Bool) (d : VReg) (a : VReg) (b : BOp)
  /-- SHR, R128. -/
  | shr (y : Bool) (d : VReg) (a : VReg) (b : BOp)
  /-- SRA, R128. -/
  | sra (y : Bool) (d : VReg) (a : VReg) (b : BOp)
  /-- BFX, R129. -/
  | bfx (y : Bool) (d : VReg) (a : VReg) (b : BOp)
  /-- BFI, R129. -/
  | bfi (y : Bool) (d : VReg) (a : VReg) (b : BOp)
  /-- POPC, R130. -/
  | popc (y : Bool) (d : VReg) (a : VReg)
  /-- CLZ, R130. -/
  | clz (y : Bool) (d : VReg) (a : VReg)
  /-- BREV, R130. -/
  | brev (y : Bool) (d : VReg) (a : VReg)
  /-- SEL, R131. -/
  | sel (y : Bool) (d : VReg) (a : VReg) (b : BOp)
  /-- ICMPEQ, R132. -/
  | icmpeq (y : Bool) (d : MReg) (a : VReg) (b : BOp)
  /-- ICMPNE, R132. -/
  | icmpne (y : Bool) (d : MReg) (a : VReg) (b : BOp)
  /-- ICMPLT, R132. -/
  | icmplt (y : Bool) (d : MReg) (a : VReg) (b : BOp)
  /-- ICMPLE, R132. -/
  | icmple (y : Bool) (d : MReg) (a : VReg) (b : BOp)
  /-- MOV, R133. -/
  | mov (y : Bool) (d : VReg) (a : VReg)
  /-- MOVI, R133. -/
  | movi (y : Bool) (d : VReg) (i : BitVec 16)
  /-- MOVIH, R133. -/
  | movih (y : Bool) (d : VReg) (i : BitVec 16)
  /-- IADDI, R126. -/
  | iaddi (y : Bool) (d : VReg) (a : VReg) (i : BitVec 9)
  /-- SHLI, R128. -/
  | shli (y : Bool) (d : VReg) (a : VReg) (n : Fin 32)
  /-- SHRI, R128. -/
  | shri (y : Bool) (d : VReg) (a : VReg) (n : Fin 32)
  /-- SRAI, R128. -/
  | srai (y : Bool) (d : VReg) (a : VReg) (n : Fin 32)
  /-- ANDI, R127. -/
  | andi (y : Bool) (d : VReg) (a : VReg) (i : BitVec 9)
  /-- ORI, R127. -/
  | ori (y : Bool) (d : VReg) (a : VReg) (i : BitVec 9)
  /-- XORI, R127. -/
  | xori (y : Bool) (d : VReg) (a : VReg) (i : BitVec 9)
  /-- SADD, R134. -/
  | sadd (y : Bool) (d : SReg) (a : SReg) (b : SReg)
  /-- SSUB, R134. -/
  | ssub (y : Bool) (d : SReg) (a : SReg) (b : SReg)
  /-- SMUL, R134. -/
  | smul (y : Bool) (d : SReg) (a : SReg) (b : SReg)
  /-- SAND, R134. -/
  | sand (y : Bool) (d : SReg) (a : SReg) (b : SReg)
  /-- SOR, R134. -/
  | sor (y : Bool) (d : SReg) (a : SReg) (b : SReg)
  /-- SXOR, R134. -/
  | sxor (y : Bool) (d : SReg) (a : SReg) (b : SReg)
  /-- SSHL, R134. -/
  | sshl (y : Bool) (d : SReg) (a : SReg) (b : SReg)
  /-- SSHR, R134. -/
  | sshr (y : Bool) (d : SReg) (a : SReg) (b : SReg)
  /-- SSRA, R134. -/
  | ssra (y : Bool) (d : SReg) (a : SReg) (b : SReg)
  /-- SMOV, R134. -/
  | smov (y : Bool) (d : SReg) (a : SReg)
  /-- SMOVI, R134. -/
  | smovi (y : Bool) (d : SReg) (i : BitVec 16)
  /-- SMOVK, R136. -/
  | smovk (y : Bool) (d : SReg) (i : BitVec 16)
  /-- SADDI, R134. -/
  | saddi (y : Bool) (d : SReg) (a : SReg) (i : BitVec 9)
  /-- SSEQ, R134. -/
  | sseq (y : Bool) (d : SReg) (a : SReg) (b : SReg)
  /-- SSLT, R134. -/
  | sslt (y : Bool) (d : SReg) (a : SReg) (b : SReg)
  /-- SSLTU, R134. -/
  | ssltu (y : Bool) (d : SReg) (a : SReg) (b : SReg)
  /-- VTOS, R137. -/
  | vtos (y : Bool) (d : SReg) (a : VReg)
  /-- FADD, R141. -/
  | fadd (y : Bool) (d : VReg) (a : VReg) (b : BOp)
  /-- FSUB, R141. -/
  | fsub (y : Bool) (d : VReg) (a : VReg) (b : BOp)
  /-- FMUL, R141. -/
  | fmul (y : Bool) (d : VReg) (a : VReg) (b : BOp)
  /-- FFMA, R141. -/
  | ffma (y : Bool) (d : VReg) (a : VReg) (b : BOp)
  /-- FMIN, R142. -/
  | fmin (y : Bool) (d : VReg) (a : VReg) (b : BOp)
  /-- FMAX, R142. -/
  | fmax (y : Bool) (d : VReg) (a : VReg) (b : BOp)
  /-- FABS, R142. -/
  | fabs (y : Bool) (d : VReg) (a : VReg)
  /-- FNEG, R142. -/
  | fneg (y : Bool) (d : VReg) (a : VReg)
  /-- FCMPEQ, R143. -/
  | fcmpeq (y : Bool) (d : MReg) (a : VReg) (b : BOp)
  /-- FCMPLT, R143. -/
  | fcmplt (y : Bool) (d : MReg) (a : VReg) (b : BOp)
  /-- FCMPLE, R143. -/
  | fcmple (y : Bool) (d : MReg) (a : VReg) (b : BOp)
  /-- FCMPUN, R143. -/
  | fcmpun (y : Bool) (d : MReg) (a : VReg) (b : BOp)
  /-- FRCP, R144. -/
  | frcp (y : Bool) (d : VReg) (a : VReg)
  /-- FRSQ, R144. -/
  | frsq (y : Bool) (d : VReg) (a : VReg)
  /-- FSQRT, R144. -/
  | fsqrt (y : Bool) (d : VReg) (a : VReg)
  /-- FEXP2, R144. -/
  | fexp2 (y : Bool) (d : VReg) (a : VReg)
  /-- FLOG2, R144. -/
  | flog2 (y : Bool) (d : VReg) (a : VReg)
  /-- FSINPI, R144. -/
  | fsinpi (y : Bool) (d : VReg) (a : VReg)
  /-- FCOSPI, R144. -/
  | fcospi (y : Bool) (d : VReg) (a : VReg)
  /-- FCVT, R145. -/
  | fcvt (y : Bool) (d : VReg) (a : VReg) (ty : Fin 128)
  /-- ICVTF, R146. -/
  | icvtf (y : Bool) (d : VReg) (a : VReg)
  /-- FCVTI, R146. -/
  | fcvti (y : Bool) (d : VReg) (a : VReg)
  /-- FCLASS, R147. -/
  | fclass (y : Bool) (d : VReg) (a : VReg)
  /-- FSCALE, R148. -/
  | fscale (y : Bool) (d : VReg) (a : VReg) (b : BOp)
  /-- FRND, R148. -/
  | frnd (y : Bool) (d : VReg) (a : VReg)
  /-- DOT4, R149. -/
  | dot4 (y : Bool) (d : VReg) (a : VReg) (b : BOp)
  /-- DOT8, R149. -/
  | dot8 (y : Bool) (d : VReg) (a : VReg) (b : BOp)
  /-- DOT2F, R150. -/
  | dot2f (y : Bool) (d : VReg) (a : VReg) (b : BOp)
  /-- QSCALE, R151. -/
  | qscale (y : Bool) (d : VReg) (a : VReg) (b : BOp)
  /-- PACK, R152. -/
  | pack (y : Bool) (d : VReg) (a : VReg) (e : Fin 8)
  /-- UNPK, R152. -/
  | unpk (y : Bool) (d : VReg) (a : VReg) (e : Fin 8)
  /-- MAND, R157. -/
  | mand (y : Bool) (d : MReg) (a : MReg) (b : MReg)
  /-- MOR, R157. -/
  | mor (y : Bool) (d : MReg) (a : MReg) (b : MReg)
  /-- MXOR, R157. -/
  | mxor (y : Bool) (d : MReg) (a : MReg) (b : MReg)
  /-- MANDN, R157. -/
  | mandn (y : Bool) (d : MReg) (a : MReg) (b : MReg)
  /-- MTOS, R158. -/
  | mtos (y : Bool) (d : SReg) (a : MReg) (hi : Bool)
  /-- STOM, R158. -/
  | stom (y : Bool) (d : MReg) (a : SReg) (hi : Bool)
  /-- MPOPC, R158. -/
  | mpopc (y : Bool) (d : SReg) (a : MReg)
  /-- MFIRST, R158. -/
  | mfirst (y : Bool) (d : SReg) (a : MReg)
  /-- SHFL, R156. -/
  | shfl (y : Bool) (d : VReg) (a : VReg) (b : VReg)
  /-- SHFLX, R156. -/
  | shflx (y : Bool) (d : VReg) (a : VReg) (b : SReg)
  /-- QSWAP, R156. -/
  | qswap (y : Bool) (d : VReg) (a : VReg) (k : Fin 4)
  /-- QBCAST, R156. -/
  | qbcast (y : Bool) (d : VReg) (a : VReg) (l : Fin 4)
  /-- REDADD, R159. -/
  | redadd (y : Bool) (d : SReg) (a : VReg)
  /-- REDMIN, R159. -/
  | redmin (y : Bool) (d : SReg) (a : VReg)
  /-- REDMAX, R159. -/
  | redmax (y : Bool) (d : SReg) (a : VReg)
  /-- SCANADD, R160. -/
  | scanadd (y : Bool) (d : VReg) (a : VReg)
  /-- MSET, R161. -/
  | mset (y : Bool) (i : BitVec 16)
  /-- MSETH, R161. -/
  | mseth (y : Bool) (i : BitVec 16)
  /-- MRD, R161. -/
  | mrd (y : Bool) (d : SReg)
  /-- MWR, R161. -/
  | mwr (y : Bool) (a : SReg)
  /-- RDSPEC, R162. -/
  | rdspec (y : Bool) (d : VReg) (sel : Fin 16)
  /-- CWRD, R163. -/
  | cwrd (y : Bool) (d : SReg) (w : Fin 4096)
  /-- CWWR, R163. -/
  | cwwr (y : Bool) (d : SReg) (w : Fin 4096)
  /-- THSET, R164. -/
  | thset (y : Bool) (d : ThReg) (a : SReg) (b : SReg)
  /-- IF, R368. -/
  | ifM (y : Bool) (m : MReg) (o : BitVec 16)
  /-- ELSE, R368. -/
  | elseM (y : Bool) (o : BitVec 16)
  /-- ENDIF, R368. -/
  | endif (y : Bool)
  /-- LOOP, R368. -/
  | loop (y : Bool) (o : BitVec 16)
  /-- BRK, R368. -/
  | brk (y : Bool) (m : MReg) (n : Fin 64)
  /-- CONT, R368. -/
  | cont (y : Bool) (m : MReg) (n : Fin 64)
  /-- ENDLOOP, R368. -/
  | endloop (y : Bool) (o : BitVec 16)
  /-- JMP, R369. -/
  | jmp (y : Bool) (o : BitVec 23)
  /-- BRS, R369. -/
  | brs (y : Bool) (x : SReg) (o : BitVec 16)
  /-- BRANY, R369. -/
  | brany (y : Bool) (m : MReg) (o : BitVec 16)
  /-- BRALL, R369. -/
  | brall (y : Bool) (m : MReg) (o : BitVec 16)
  /-- JMPX, R370. -/
  | jmpx (y : Bool) (a : VReg)
  /-- MERGE, R373. -/
  | merge (y : Bool)
  /-- EXIT, R377. -/
  | exit (y : Bool)
  /-- NOP, R378. -/
  | nop (y : Bool)
  /-- YIELD, R378. -/
  | yield (y : Bool)
  /-- CALL, R106. -/
  | call (y : Bool) (o : BitVec 23)
  /-- CALLX, R106. -/
  | callx (y : Bool) (a : VReg)
  /-- RET, R107. -/
  | ret (y : Bool)
  /-- FRAME, R105. -/
  | frame (y : Bool) (nin : Fin 32) (nloc : Fin 64) (nout : Fin 32)
  /-- WFLUSH, R109. -/
  | wflush (y : Bool)
  /-- RDLINK, R108. -/
  | rdlink (y : Bool) (d : SReg)
  /-- WRLINK, R108. -/
  | wrlink (y : Bool) (a : SReg)
  /-- TRAP, R396. -/
  | trap (y : Bool) (i : BitVec 16)
  /-- TRET, R396. -/
  | tret (y : Bool)
  /-- REGION, R397. -/
  | region (y : Bool)
  /-- REGEND, R397. -/
  | regend (y : Bool)
  /-- BAR, R383. -/
  | bar (y : Bool) (n : Fin 16)
  /-- BARARV, R383. -/
  | bararv (y : Bool) (n : Fin 16)
  /-- BARWT, R383. -/
  | barwt (y : Bool) (n : Fin 16)
  /-- TMSET, R388. -/
  | tmset (y : Bool) (a : SReg)
  /-- LD, R184. -/
  | ld (y : Bool) (d : VReg) (a : VReg) (s : SReg) (z : Fin 8)
  /-- ST, R185. -/
  | st (y : Bool) (d : VReg) (a : VReg) (s : SReg) (z : Fin 8)
  /-- LDS, R184. -/
  | lds (y : Bool) (d : VReg) (a : VReg) (s : SReg) (z : Fin 8)
  /-- STS, R185. -/
  | sts (y : Bool) (d : VReg) (a : VReg) (s : SReg) (z : Fin 8)
  /-- LDU, R187. -/
  | ldu (y : Bool) (d : SReg) (a : SReg) (z : Fin 8) (i : BitVec 6)
  /-- STU, R187. -/
  | stu (y : Bool) (d : SReg) (a : SReg) (z : Fin 8) (i : BitVec 6)
  /-- ATOM, R190. -/
  | atom (y : Bool) (d : VReg) (a : VReg) (s : SReg) (ord : Fin 4) (wide : Bool)
  /-- ATOMS, R190. -/
  | atoms (y : Bool) (d : VReg) (a : VReg) (s : SReg) (ord : Fin 4) (wide : Bool)
  /-- LDA, R188. -/
  | lda (y : Bool) (d : VReg) (a : VReg) (s : SReg) (z : Fin 8)
  /-- STREL, R188. -/
  | strel (y : Bool) (d : VReg) (a : VReg) (s : SReg) (z : Fin 8)
  /-- FENCE, R189. -/
  | fence (y : Bool) (z : Fin 8)
  /-- CFLUSH, R192. -/
  | cflush (y : Bool) (a : VReg) (s : SReg)
  /-- CINV, R192. -/
  | cinv (y : Bool) (a : VReg) (s : SReg)
  /-- PREF, R193. -/
  | pref (y : Bool) (a : VReg) (s : SReg) (z : Fin 8)
  /-- SRCFG, R176. -/
  | srcfg (y : Bool) (d : SReg)
  /-- SPCFG, R177. -/
  | spcfg (y : Bool) (d : SReg)
  /-- HAAR, R227. -/
  | haar (y : Bool) (d : VReg) (a : VReg) (s : SReg)
  /-- IHAAR, R227. -/
  | ihaar (y : Bool) (d : VReg) (a : VReg) (s : SReg)
  /-- THR, R228. -/
  | thr (y : Bool) (d : VReg) (a : VReg) (th : ThReg)
  /-- TST, R232. -/
  | tst (y : Bool) (d : VReg) (a : SReg) (s : SReg) (th : Fin 8)
  /-- TLD, R233. -/
  | tld (y : Bool) (d : VReg) (a : SReg) (s : SReg)
  /-- TLDQ, R234. -/
  | tldq (y : Bool) (a : SReg) (s : SReg)
  /-- TBIAS, R229. -/
  | tbias (y : Bool) (d : VReg) (a : VReg) (s : SReg)
  /-- TRECON, R227. -/
  | trecon (y : Bool) (d : VReg) (a : VReg) (s : SReg)
  /-- TACT, R230. -/
  | tact (y : Bool) (d : VReg) (a : VReg) (s : SReg) (fn : Fin 8)
  /-- MMA, R257. -/
  | mma (y : Bool) (d : AccReg) (a : VReg) (b : VReg)
  /-- MMAX, R258. -/
  | mmax (y : Bool) (d : AccReg) (a : VReg) (b : VReg)
  /-- MMAQ, R262. -/
  | mmaq (y : Bool) (d : AccReg) (b : VReg)
  /-- MZERO, R255. -/
  | mzero (y : Bool) (d : AccReg) (a : SReg)
  /-- MRDA, R256. -/
  | mrda (y : Bool) (d : VReg) (a : AccReg) (b : SReg)
  /-- MWRA, R255. -/
  | mwra (y : Bool) (d : AccReg) (a : VReg) (b : SReg)
  /-- MLAYOUT, R265. -/
  | mlayout (y : Bool) (a : SReg)
  /-- MLDB, R266. -/
  | mldb (y : Bool) (d : VReg) (s : SReg)
  /-- CPY, R274. -/
  | cpy (y : Bool) (d : SReg) (a : SReg) (s : SReg)
  /-- CPYG, R275. -/
  | cpyg (y : Bool) (d : SReg) (a : VReg) (s : SReg) (q : Fin 8)
  /-- CPYS, R275. -/
  | cpys (y : Bool) (d : SReg) (a : VReg) (s : SReg) (q : Fin 8)
  /-- CPYB, R277. -/
  | cpyb (y : Bool) (d : SReg) (a : SReg) (s : SReg) (q : Fin 8)
  /-- CPYM, R278. -/
  | cpym (y : Bool) (d : SReg) (a : SReg) (s : SReg) (q : Fin 8)
  /-- BATCH, R280. -/
  | batch (y : Bool) (d : SReg)
  /-- BWAIT, R281. -/
  | bwait (y : Bool) (a : SReg)
  /-- RNGINIT, R284. -/
  | rnginit (y : Bool) (a : SReg)
  /-- RWAIT, R288. -/
  | rwait (y : Bool) (a : SReg)
  /-- RREL, R289. -/
  | rrel (y : Bool) (a : SReg)
  /-- RARRV, R285. -/
  | rarrv (y : Bool) (a : SReg) (b : SReg)
  /-- QPUSH, R319. -/
  | qpush (y : Bool) (q : Fin 8) (a : VReg)
  /-- QPOP, R326. -/
  | qpop (y : Bool) (d : VReg) (q : Fin 8)
  /-- QPEEK, R328. -/
  | qpeek (y : Bool) (d : SReg) (q : Fin 8)
  /-- QCNT, R328. -/
  | qcnt (y : Bool) (d : SReg) (q : Fin 8)
  /-- BSCN, R317. -/
  | bscn (y : Bool) (a : SReg)
  /-- BCFG, R316. -/
  | bcfg (y : Bool) (a : SReg)
  /-- APND, R336. -/
  | apnd (y : Bool) (a : VReg) (b : SReg)
  /-- TDONE, R343. -/
  | tdone (y : Bool) (a : SReg)
  /-- LAUNCH, R344. -/
  | launch (y : Bool) (a : SReg)
  /-- WLCFG, R335. -/
  | wlcfg (y : Bool) (a : SReg)
  /-- WQUIET, R347. -/
  | wquiet (y : Bool) (d : SReg)
  /-- VARIABLE_RESULT_RETURN, R94: A variable-latency result lands and its register leaves the outstanding-write set. -/
  | variableResultReturn (wv idx : Nat)
  /-- SLOT_GRANT, R244: A vacant issue slot is granted at its turn to the wave selected by R27. -/
  | slotGrant (q slot : Nat)
  /-- HOLD_COUNT_DISPLACE, R245: An active wave whose hold count reaches 4 leaves its slots for a waiting wave. -/
  | holdCountDisplace (wv : Nat)
  /-- CLASS_DISPLACE, R246: A ready higher-class wave displaces the holders of an aligned slot group. -/
  | classDisplace (wv : Nat)
  /-- SPIN_QUANTUM_EXPIRY, R39: A wave parked for a spin quantum becomes ready again. -/
  | spinQuantumExpiry (wv : Nat)
  /-- MERGE_WAIT_EXPIRY, R373: A split parked at MERGE for WAIT resident clocks releases the MERGE-parked splits. -/
  | mergeWaitExpiry (wv : Nat)
  /-- LEFTOVER_RESPAWN, R375: When a split entry frees, leftover lanes leave as a new split at the JMPX. -/
  | leftoverRespawn (wv sp : Nat)
  /-- TIMER_FIRE, R389: cw.wtime reaches CMP of an armed timer and the wave takes a timer trap. -/
  | timerFire (wv : Nat)
  /-- TABLE_WALK, R351: The walker translates an address, setting A and D or classifying a failure. -/
  | tableWalk (core island asid va kind : Nat)
  /-- REPLICATED_COMMIT, R209: A write to a replicated page locks every replica, updates and unlocks. -/
  | replicatedCommit (idx : Nat)
  /-- REPLICATED_STALL, R210: A replica stays locked longer than cw.repstall and an event is placed. -/
  | replicatedStall (idx : Nat)
  /-- POISONED_WRITE, R211: A write's line suffers an uncorrectable error and is reported as poisoned. -/
  | poisonedWrite (line : Nat)
  /-- IMPRECISE_EVENT, R401: A poisoned read, malformed image, feed mismatch or register error is raised for a split. -/
  | impreciseEvent (wv idx : Nat)
  /-- WINDOW_SPILL, R110: The spill engine writes the bottom record to the backing store. -/
  | windowSpill (wv : Nat)
  /-- WINDOW_REFILL, R110: The spill engine reads a record back from the backing store. -/
  | windowRefill (wv : Nat)
  /-- WINDOW_REFILL_AHEAD, R110: With RAHI set and room free, the last spilled record is refilled early. -/
  | windowRefillAhead (wv : Nat)
  /-- COPY_COMMAND_START, R279: The copy engine starts a queued command in issue order. -/
  | copyCommandStart (core idx : Nat)
  /-- COPY_PIECE, R291: A copy piece is translated and performed, updating its slot counts. -/
  | copyPiece (core idx piece : Nat)
  /-- COLLECTIVE_COPY_START, R277: All slices of a CPYB have arrived and start together. -/
  | collectiveCopyStart (g key : Nat)
  /-- CPYM_HOP, R278: One hop of a multicast writes a member's scratchpad. -/
  | cpymHop (core idx piece : Nat)
  /-- BEAM_ACCEPT, R320: The engine takes a descriptor into a pool entry and checks it. -/
  | beamAccept (g : Nat)
  /-- BEAM_TRAVERSAL_STEP, R321: The engine performs a box test or clip on a pool entry, creating children. -/
  | beamTraversalStep (g idx : Nat)
  /-- RAY_EMIT, R323: A piece without a pool entry becomes rays that emit fragments. -/
  | rayEmit (g idx : Nat)
  /-- FRAGMENT_EMIT, R325: A finished fragment enters q1, waiting while q1 is full. -/
  | fragmentEmit (g idx : Nat)
  /-- BEAM_RETIRE, R324: A beam's last fragment has entered q1 and the unretired count falls. -/
  | beamRetire (g beam : Nat)
  /-- TLDQ_ROW_PUSH, R234: The transform pipe pushes a thresholded row of a TLDQ into q2. -/
  | tldqRowPush (core : Nat)
  /-- TILE_INSTRUCTION_COMPLETE, R226: The transform pipe finishes a tile instruction and writes its results. -/
  | tileInstructionComplete (core : Nat)
  /-- MATRIX_COMMAND_EXECUTE, R253: The matrix array performs the next command of its queue. -/
  | matrixCommandExecute (q : Nat)
  /-- MMAQ_PASS, R263: The array performs one pass of up to 16 consumed feed rows. -/
  | mmaqPass (q : Nat)
  /-- APPEND_RECORD, R336: A parked APND lane takes a freed pool block and enters its list. -/
  | appendRecord (wv : Nat)
  /-- BATCH_TIMER_EXPIRY, R339: A node's batch timer expires and a batch forms from its list. -/
  | batchTimerExpiry (island graph node : Nat)
  /-- SUCCESSOR_APPEND, R343: The successor record of a counter that reached zero is appended. -/
  | successorAppend (island graph : Nat)
  /-- TASK_CONTROL_BLOCK_WRITE, R362: A parked task's control block is written once the fault queue has room. -/
  | taskControlBlockWrite (island : Nat)
  /-- LAUNCH_DOORBELL_WRITE, R239: The host writes TAIL of a launch queue doorbell. -/
  | launchDoorbellWrite (island cls tail : Nat)
  /-- LAUNCH_ENTRY_READ, R240: The distributor reads and checks a launch queue entry. -/
  | launchEntryRead (island cls : Nat)
  /-- GROUP_RESIDENCY, R241: The distributor makes the next group resident on a qualifying core. -/
  | groupResidency (what : Placing) (core : Nat)
  /-- ATOLL_GROUP_MOVE, R242: The distributor moves a resident group to gather cores for an atoll. -/
  | atollGroupMove (g core : Nat)
  /-- REAL_TIME_RELEASE, R243: A period elapses and a real-time instance is released or deferred. -/
  | realTimeRelease (launch : Nat)
  /-- DEADLINE_MISS, R243: An instance is unfinished at its deadline and is marked late. -/
  | deadlineMiss (launch : Nat)
  /-- GROUP_END, R295: A group ends once its waves, commands and slots have settled. -/
  | groupEnd (g : Nat)
  /-- CLUSTER_RECLAIM, R408: Lent clusters are owed and the drain phase begins. -/
  | clusterReclaim (cluster : Nat)
  /-- RECLAIM_SWAP, R408: T1 expires and the borrowing cores halt and settle for the swap. -/
  | reclaimSwap (cluster : Nat)
  /-- RECLAIM_FORCED_RESET, R408: T2 expires with copies incomplete and their launches end. -/
  | reclaimForcedReset (cluster : Nat)
  /-- CONTEXT_SAVE, R408: Settled core contexts are written to the shadow layer. -/
  | contextSave (cluster : Nat)
  /-- CONTEXT_RESTORE, R410: Saved contexts are restored and the borrowing island runs on. -/
  | contextRestore (cluster : Nat)
  /-- FAULTRES_RESOLVED, R406: A resolved verdict resumes every agent waiting on the fault record. -/
  | faultresResolved (island slot : Nat)
  /-- FAULTRES_UNRESOLVABLE, R406: An unresolvable verdict gives waiting agents their unresolved outcome. -/
  | faultresUnresolvable (island slot : Nat)
  /-- TLBINV_PAGE, R353: Starts invalidation of the page at VA. -/
  | tlbinvPage (island va : Nat)
  /-- TLBINV_NONGLOBAL, R353: Starts invalidation of every entry with G clear. -/
  | tlbinvNonglobal (island : Nat)
  /-- TLBINV_ALL, R353: Starts invalidation of every entry. -/
  | tlbinvAll (island : Nat)
  /-- TLBINV_COMPLETE, R353: The invalidation finishes and GO reads 0. -/
  | tlbinvComplete (island : Nat)
  /-- FAULT_QUEUE_HEAD_WRITE, R362: Software advances the fault-queue HEAD, freeing slots. -/
  | faultQueueHeadWrite (island head : Nat)
  /-- ISLAND_TABLE_WRITE, R361: System software writes an island table entry, or it is ignored. -/
  | islandTableWrite (island : Nat) (bytes : List Nat)
  /-- ESCT_WRITE, R407: Writes the island's T1 or T2 escalation timer. -/
  | esctWrite (island value : Nat)
  /-- EVQ_WINDOW_READ, R404: The host pops one record from q4 through the EVQ window. -/
  | evqWindowRead (island : Nat)
  /-- REGISTER_WRITE, R417: A write to a BAR0 register with no row of its own, such as EVQINT or WINDOWS. -/
  | registerWrite (addr value : Nat)
  /-- SEAL, R422: Generates an island key pair and sets SEALED. -/
  | seal (island : Nat)
  /-- UNSEAL, R422: Zeroes the carve-out, destroys the key and clears SEALED. -/
  | unseal (island : Nat)
  /-- QUOTE, R422: Signs a nonce, the log digest and the island entry. -/
  | quote (island nonce : Nat)
  /-- CERT, R422: Returns the identity key and certificate chain. -/
  | cert
  /-- HOST_CXL_MEM_ACCESS, R419: A host access to device memory is performed coherently at system scope. -/
  | hostCxlMemAccess (addr : Nat) (acc : OutsideAccess)
  /-- HOST_SNOOP, R420: A host snoop reaches device-cached host lines through the directory. -/
  | hostSnoop (addr : Nat) (acc : OutsideAccess)
  /-- FLIT_RETRY, R413: A flit failing CRC is resent from the retry buffer. -/
  | flitRetry (link : Nat)
  /-- LINK_DOWN_POISON, R413: A link stays down after retries and its writes and reads are poisoned. -/
  | linkDownPoison (line : Nat)
  /-- PWRCTL_REQ_RUN, R426: A REQ write of 0 requests the run state. -/
  | pwrctlReqRun (sideband : Bool)
  /-- PWRCTL_REQ_DOZE, R426: A REQ write of 1 requests doze. -/
  | pwrctlReqDoze (sideband : Bool)
  /-- PWRCTL_REQ_WATCH, R426: A REQ write of 2 requests watch. -/
  | pwrctlReqWatch (sideband : Bool)
  /-- DOZE_ENTRY, R426: The idle condition holds and the device enters doze. -/
  | dozeEntry
  /-- DOZE_WAKE, R426: A doorbell write, CXL.mem access or REQ returns the device from doze to run. -/
  | dozeWake
  /-- WATCH_ENTRY, R426: The device powers down to watch, losing memory contents. -/
  | watchEntry
  /-- WATCH_WAKE, R426: A sideband request fully initialises the device from watch to run. -/
  | watchWake (good : Bool) (mods : Nat)
  /-- POWER_ON_BOOT, R424: The boot ROM verifies and runs the hub firmware, or stays in watch. -/
  | powerOnBoot (good : Bool) (mods : Nat)
  /-- DEBUG_FREEZE, R414: FREEZE is set and every compute and hub clock stops. -/
  | debugFreeze
  /-- DEBUG_UNFREEZE, R414: FREEZE is cleared and every clock resumes with no state changed. -/
  | debugUnfreeze
  /-- FREEZE_PIN, R414: The freeze pin is asserted and the device freezes. -/
  | freezePin
  /-- ILLEGAL_INSTRUCTION, R49: A word with a reserved opcode, or with a must-be-zero field set, issues and takes the illegal-instruction trap. -/
  | illegalInstruction (word : Nat)
  /-- PUSHES_COMPLETE, R189: A release's pushes, or a store, write-back or update, are performed at their scope, and waves parked on them resume. -/
  | pushesComplete (wv : Nat)
  /-- PEER_DEVICE_ACCESS, R421: A peer device's access arrives over the sound links and is performed at this device's home agent at system scope. -/
  | peerDeviceAccess (addr : Nat) (acc : OutsideAccess)
  /-- POWER_REMOVAL, R415: Power is removed from the device, losing the retention SRAM and every other item. -/
  | powerRemoval
  deriving DecidableEq, Repr

end Sys2Proof
end

