-- ==== Sys2Proof/Machine/State.lean ====
section
/-!
DEFINITION. The state of the whole device as plain data, the reasons a step can stop, and the state after reset.
INVENTORY.md lists every item with the rule of spec/ that names it. Sparse arrays list only what differs from the reset content.
-/
namespace Sys2Proof.Machine

/-- R31, R370, R375: the leftover record of a split. -/
structure Leftover where
  held : Bool := false
  /-- LOK: 0 JMPX, 1 CALLX. -/
  kind : Nat := 0
  lanes : Mask := 0
  addr : Nat := 0
  deriving DecidableEq, Repr

/-- R100: base position and sizes of a split's current frame. -/
structure Frame where
  base : Nat := 0
  nin : Nat := 0
  nloc : Nat := 0
  nout : Nat := 0
  deriving DecidableEq, Repr

/-- R397: what REGION records. -/
structure Snapshot where
  mode : Lane := 0
  counters : Sparse Nat := []
  frame : Frame := {}
  leftover : Leftover := {}
  retry : Bool := false
  batch : Nat := 1
  lanes : Mask := 0
  deriving DecidableEq, Repr

/-- R392, R397, R400: region register, cw.regcnt and read filter of a split. `opened` numbers the openings of the wave. -/
structure Region where
  isOpen : Bool := false
  entry : Nat := 0
  snap : Snapshot := {}
  rollbacks : Nat := 0
  cnt : Nat := 0
  filter : List Nat := []
  opened : Nat := 0
  deriving DecidableEq, Repr

/-- R363, R111: why a split is parked. -/
inductive ParkKind where
  | no
  /-- R373: at a MERGE. -/
  | merge
  /-- R376: at a collective instruction. -/
  | collective
  /-- R105, R106, R110: for room of that many rows. -/
  | room (rows : Nat)
  /-- R105: until the split's record is the highest. -/
  | highest
  /-- R107, R112: until position `pos` is resident. -/
  | refill (pos : Nat)
  /-- R116: behind an instruction that waits for a blocked transfer. -/
  | service
  deriving DecidableEq, Repr

/-- R363: park state of a split; `since` orders the parks of a wave, `clocks` counts resident clocks. -/
structure Park where
  kind : ParkKind := .no
  since : Nat := 0
  clocks : Nat := 0
  /-- R376: the split issues again the collective instruction that it has parked at since then. -/
  back : Bool := false
  /-- R375: the split would have been released but for its JMPX leftover. -/
  due : Bool := false
  deriving DecidableEq, Repr

/-- R31, R363: a split entry. -/
structure Split where
  valid : Bool := false
  pc : Nat := 0
  lanes : Mask := 0
  mode : Lane := 0
  frame : Frame := {}
  leftover : Leftover := {}
  retry : Bool := false
  region : Region := {}
  park : Park := {}
  /-- R395: held while another split's trap handler runs. -/
  held : Bool := false
  deriving DecidableEq, Repr

/-- R101: a frame record. `link` is the position of its link row, `caller` that of its caller's link row. -/
structure FrameRec where
  start : Nat := 0
  base : Nat := 0
  link : Nat := 0
  overlaid : Bool := false
  live : Bool := true
  caller : Option Nat := none
  /-- Rows written at its spill; 0 while it is resident. -/
  rows : Nat := 0
  deriving DecidableEq, Repr

/-- R110: the operations of the spill engine. -/
inductive Transfer where
  | spill
  | refill
  deriving DecidableEq, Repr

/-- R98, R116: window service pending: the blocked operation and the verdict so far. -/
inductive Service where
  | clear
  /-- A page fault waits at this fault-queue slot. -/
  | waiting (op : Transfer) (slot : Nat) (addr : Nat)
  /-- Unresolvable: the oldest instruction parked on the transfer, or the next that needs it, takes the window-backing fault at this address, with
  this translation word (R354). -/
  | failed (op : Transfer) (addr trans : Nat)
  deriving DecidableEq, Repr

/-- R98: the window state of a wave. -/
structure Window where
  /-- N, the unscaled budget (R99). -/
  rows : Nat := 64
  records : List FrameRec := []
  bottom : Nat := 0
  top : Nat := 1
  bstore : Nat := 0
  bsize : Nat := 0
  bused : Nat := 0
  spills : Nat := 0
  refills : Nat := 0
  low : Nat := 64
  rahi : Nat := 0
  /-- R358: the range that its launch block gave the wave, for which the spill engine acts with privilege (R351). -/
  own : Nat := 0
  ownSize : Nat := 0
  /-- R1: an unprivileged wave, and not system software, chose the range (R344, R335). -/
  bare : Bool := false
  service : Service := .clear
  /-- R119: what lanes of other splits have held in detached frames and hold no more: link row of the frame, register, lane, value. -/
  held : List (Nat × Nat × Nat × Lane) := []
  deriving DecidableEq, Repr

/-- R82, R93: registers of a wave. vec is keyed row * 128 + lane: rows 0 to 31 are g0 to g31, row 32 + r is ring row r;
th is keyed 5 * n + level - 1. -/
structure Regs where
  vec : Sparse Lane := []
  sca : Sparse Scalar := []
  msk : Sparse Mask := []
  th : Sparse Nat := []
  flags : Flags := 0
  strict : Bool := false
  /-- R412: keys of the vector elements with an uncorrectable error. -/
  bad : List Nat := []
  deriving DecidableEq, Repr

/-- R401: an imprecise event that waits to be raised: its split at issue, cause code, event kind, address, PC, lanes and region opening. -/
structure Imprecise where
  split : Nat := 0
  code : Nat := 0
  kind : Nat := 0
  addr : Nat := 0
  pc : Nat := 0
  lanes : Mask := 0
  opened : Nat := 0
  aux2 : Nat := 0
  deriving DecidableEq, Repr

/-- Which unit returns a result. -/
inductive ResUnit where
  | load
  | tile
  | matrix
  | queue
  deriving DecidableEq, Repr

/-- R94: one pending result of the outstanding-write set. -/
structure Result where
  id : Nat := 0
  unit : ResUnit := .load
  /-- R39: an acquire whose lanes repeat the previous acquire; its landing parks the wave for a spin quantum. -/
  repeats : Bool := false
  /-- Register rows the entry holds (R94). -/
  rows : List Nat := []
  /-- Scalars the entry holds. -/
  scalars : List Nat := []
  /-- Lane values by key, as Regs.vec. -/
  vec : Sparse Lane := []
  /-- The lane keys with a value of zero, too: every key that the landing writes. -/
  keys : List Nat := []
  sca : List (Nat × Scalar) := []
  flags : Flags := 0
  /-- R326: the lanes whose helper bits the landing writes, and the bits. -/
  helpers : Option (Mask × Mask) := none
  imprecise : List Imprecise := []
  /-- R421: the event that each line read over a sound link would raise if the link goes down. -/
  reads : List Imprecise := []
  /-- Whether it may land on its own; tile and matrix results land when their unit finishes. -/
  ready : Bool := true
  /-- Whether the values are known yet. -/
  known : Bool := true
  deriving DecidableEq, Repr

/-- R25, R27: what a wave waits for. -/
inductive Wait where
  | no
  /-- R95. -/
  | marker
  /-- R39: until cw.wtime reaches the count. -/
  | spin
  /-- R195, R223: a page-fault record in this slot of the fault queue. -/
  | fault (slot : Nat)
  /-- R383. -/
  | barrier (b : Nat)
  /-- R288: the slot of the ring at this scratchpad offset, and the phase. -/
  | ring (hdr slot : Nat) (phase : Bool)
  /-- R281. -/
  | batch (n : Nat)
  /-- R273: room in the copy queue. -/
  | copyQueue
  /-- R253: room in the matrix command queue. -/
  | matrixQueue
  /-- R259: room in q2 for this many entries. -/
  | feedRoom (n : Nat)
  /-- R322: a free pool entry. -/
  | pool
  /-- R326: a fragment. -/
  | fragment
  /-- R336: an APND that waits for blocks. -/
  | append
  /-- R344: room in the launch queue of a class. -/
  | launchQueue (cls : Nat)
  /-- R188, R189: pushes, commits and poison reports. -/
  | pushes
  /-- R209, R211: a release whose earlier commits or poison reports are not complete. -/
  | release
  /-- R384: the same for a BAR, which a timer breaks off (R389). -/
  | arrival
  /-- R176: a SRCFG of this cluster, for earlier ones and for far-scratchpad accesses of copies. -/
  | farAccess (cluster : Nat)
  /-- R176: the way of this far-scratchpad offset enters far mode when a SRCFG that has parked completes. -/
  | farWay (cluster off : Nat)
  /-- R189: every earlier load and acquire has returned. -/
  | loads
  /-- R182, R353: a table walk runs for some lane. -/
  | walk
  /-- R207: an engine owns the line. -/
  | recall (line : Nat)
  /-- R210: the replica is locked. -/
  | replica (line : Nat)
  /-- R258: the group's MMAX meeting. -/
  | meet
  /-- R109: spill writes. -/
  | spillWrites
  deriving DecidableEq, Repr

/-- R395: a trap that waits for the outstanding set to empty, or nothing. -/
structure Trap where
  split : Nat := 0
  code : Nat := 0
  timm : Nat := 0
  tpc : Nat := 0
  taddr : Nat := 0
  /-- R354: the translation word, for the record of a trap that finds no handler. -/
  trans : Nat := 0
  deriving DecidableEq, Repr

/-- R392, R393, R91: event state of a wave. -/
structure Events where
  trapvec : Nat := 0
  cause : Scalar := 0
  tpc : Nat := 0
  taddr : Nat := 0
  replay : Mask := 0
  /-- Whether the next issue of the split replays the lanes of cw.replay alone (R195). -/
  replaying : Bool := false
  /-- R195: the lanes of a replay whose fetch met an absent page; the replay goes on when that page is there. -/
  refetch : Option Mask := none
  handlerLanes : Mask := 0
  handler : Sparse Nat := []
  pend : Option Trap := none
  imprecise : List Imprecise := []
  /-- Openings of regions so far (orders R401's tests). -/
  openings : Nat := 0
  deriving DecidableEq, Repr

/-- R363, R377: control state of a wave. -/
structure Control where
  counters : Sparse Nat := []
  exited : Mask := 0
  helpers : Mask := 0
  splits : List Split := List.replicate 4 {}
  /-- R32: the split that issued last. -/
  lastSplit : Nat := 0
  mergewait : Nat := 1024
  wait : Wait := .no
  /-- The split whose instruction the wait belongs to. -/
  waitSplit : Nat := 0
  /-- R95: the waiting instruction carries S; the marker acts when its wait ends. -/
  markAfter : Bool := false
  /-- The next issue repeats a collective instruction that waited: its gather is not counted again. -/
  again : Bool := false
  /-- R182: the instruction that issues next has parked for its table walks. -/
  walked : Bool := false
  /-- R176: a SRCFG that has parked: its place in the order of the device, and its value. -/
  srcfg : Option (Nat × Nat) := none
  parks : Nat := 0
  deriving DecidableEq, Repr

/-- R381, R39, R27: time and synchronisation of a wave. -/
structure Times where
  wtime : Nat := 0
  tmcmp : Scalar := 0
  spinq : Nat := 256
  /-- R39: lane, address and value of the previous acquire, and of the lanes already performed of one that waits on a page fault. -/
  prevAcq : List (Nat × Nat × Nat) := []
  acqPart : List (Nat × Nat × Nat) := []
  /-- R39: no instruction issues before cw.wtime reaches this count. -/
  spinUntil : Nat := 0
  pending : List Nat := []
  seen : List (Nat × Bool) := []
  /-- R389: the barrier and PC of a barrier wait that a timer trap broke off; the repeated BAR adds no arrival. -/
  owed : Option (Nat × Nat) := none
  /-- The clock on which the wave last entered the pending set. -/
  age : Nat := 0
  /-- R244: the wave was ready at the end of the last clock; it takes slots no earlier than the clock after that. -/
  ready : Bool := false
  /-- R24: the clock after the last pass of the instruction that issued last. -/
  passEnd : Nat := 0
  /-- R26: the next instruction issues its first pass no earlier than this clock. -/
  nextIssue : Nat := 0
  /-- R93: the flags that results raised on this clock. -/
  fresh : Flags := 0
  /-- R389: the timer has fired and its trap waits for an instruction boundary. -/
  fired : Bool := false
  deriving DecidableEq, Repr

/-- R336: an APND under way: its graph and node, its PC, the records still to append, and the fault-queue slot that it waits at. -/
structure Appending where
  graph : Nat := 0
  node : Nat := 0
  pc : Nat := 0
  recs : List (List Nat) := []
  fault : Option Nat := none
  deriving DecidableEq, Repr

/-- A resident wave. -/
structure Wave where
  group : Nat := 0
  /-- Device-wide quarter number: core * 4 + quarter. -/
  quarter : Nat := 0
  num : Nat := 0
  role : Nat := 0
  width : Nat := 32
  regs : Regs := {}
  win : Window := {}
  ctl : Control := {}
  evt : Events := {}
  tim : Times := {}
  out : List Result := []
  /-- R280: number of the open batch. -/
  batch : Nat := 1
  /-- R265: layout register, 32 bytes. -/
  layout : List Nat := []
  /-- R330, R336: the records that an APND which waits has still to append. -/
  apnd : Appending := {}
  /-- R344: the launch block that a LAUNCH which waits has read. -/
  block : List Nat := []
  /-- Spill writes not yet complete (R109), accesses under commit (R209). -/
  commits : Nat := 0
  /-- R197, R204: a FENCE with a release component at SC 3 to 7 precedes the wave's next stores and atomics. -/
  fenced : Bool := false
  deriving DecidableEq, Repr

/-- R237: one entry of the active slot table. -/
structure SlotHold where
  wave : Nat
  pin : Bool := false
  hold : Nat := 0
  /-- R246: the wave leaves after its next instruction. -/
  leave : Bool := false
  deriving DecidableEq, Repr

/-- R247: an accumulator slot; entries are 36-bit patterns. -/
structure AccSlot where
  entries : Sparse Nat := []
  tag : Nat := 0
  flags : Flags := 0
  ov : Bool := false
  /-- R412: the entries with an uncorrectable error. -/
  bad : List Nat := []
  deriving DecidableEq, Repr

/-- R253: a matrix command with its captured sources. -/
inductive MatOp where
  | mma
  | mmax
  | mmaq
  | mzero
  | mrda
  | mwra
  deriving DecidableEq, Repr

structure MatCmd where
  op : MatOp
  wave : Nat
  split : Nat := 0
  who : Nat := 0
  acc : Nat := 0
  /-- Register elements of a and b by register and lane: key reg * 128 + lane. -/
  a : Sparse Lane := []
  b : Sparse Lane := []
  tag : Nat := 0
  mode : Lane := 0
  layout : List Nat := []
  res : Nat := 0
  pc : Nat := 0
  opened : Nat := 0
  /-- Entries an MMAQ has still to consume (R262). -/
  owed : Nat := 0
  started : Bool := false
  /-- R258: the waves that meet at an MMAX, by quarter, once they have. -/
  meet : List Nat := []
  /-- R255, R256: the first column of a window, in units of 16. -/
  col : Nat := 0
  /-- The lanes that had not exited at issue, and the width. -/
  lanes : Mask := 0
  width : Nat := 32
  deriving DecidableEq, Repr

/-- R259: one row in the elastic feed q2. -/
structure FeedRow where
  tag : Nat := 0
  tile : Nat := 0
  pos : Nat := 0
  /-- R260: 0 16-bit elements, 1 8-bit. -/
  esz : Nat := 0
  bitmap : Nat := 0
  elems : List Nat := []
  wave : Nat := 0
  /-- The TLDQ that pushed it, its split and the openings of regions at its issue (R401); 0 for a QPUSH. -/
  cmd : Nat := 0
  split : Nat := 0
  opened : Nat := 0
  deriving DecidableEq, Repr

/-- R19: a quarter. -/
structure Quarter where
  slots : List (Option SlotHold) := []
  accs : List AccSlot := []
  /-- R85: the group that holds the slots. -/
  accHolder : Option Nat := none
  queue : List MatCmd := []
  feed : List FeedRow := []
  /-- R259: the QPUSHes to q2 that wait for room: the order number of each, and its wave. -/
  line : List (Nat × Nat) := []
  /-- R24: the clock after the last pass of the instruction that issued here last; the slots of its passes are in use until then. -/
  passEnd : Nat := 0
  deriving DecidableEq, Repr

/-- R172 to R174: a line of an L1 or of a cache way. -/
structure Line where
  line : Nat
  island : Nat := 0
  way : Nat := 0
  valid : Mask := 0
  dirty : Mask := 0
  data : Sparse Byte := []
  cls : Nat := 0
  stamp : Nat := 0
  /-- R211, R212: bytes of it were fetched from a poisoned line. -/
  bad : Bool := false
  deriving DecidableEq, Repr

/-- R348: a cached translation: 2^size bytes from va to pa. -/
structure TlbEntry where
  island : Nat
  asid : Nat
  va : Nat
  size : Nat
  pa : Nat
  attrs : Nat
  deriving DecidableEq, Repr

/-- R226: a job of the transform pipe. -/
structure TileJob where
  wave : Nat
  res : Nat := 0
  /-- Rows of a TLDQ still to push (R234). -/
  rows : List FeedRow := []
  quarter : Nat := 0
  isFeed : Bool := false
  cmd : Nat := 0
  /-- Counts added when the job completes: reconstructions, survivors (R213). -/
  recons : Nat := 0
  survivors : Nat := 0
  flags : Flags := 0
  deriving DecidableEq, Repr

/-- R271 to R279: kinds of copy command. -/
inductive CopyKind where
  | cpy
  | gather
  | scatter
  /-- R277: the key, and the role with it, and which CPYB of that key this is. -/
  | collective (key gen : Nat)
  | multi
  deriving DecidableEq, Repr

/-- R291: a piece of a copy command. An address with bit 63 set is a scratchpad offset (R271). -/
structure CopyPiece where
  /-- The piece's number: the destination block, or the lane of a row. -/
  num : Nat := 0
  /-- R278. -/
  hop : Nat := 0
  src : Nat := 0
  dst : Nat := 0
  len : Nat := 0
  /-- R198: the source lines read so far, by address, and the source bytes once all have been read; the bytes delivered once they have. -/
  parts : List (Nat × List Nat) := []
  data : Option (List Nat) := none
  /-- R292: the poisoned line or word that the source read has met. -/
  bad : Option Nat := none
  /-- R209: bytes whose commit to a replicated line is under way. -/
  commit : Nat := 0
  done : Bool := false
  /-- Waiting at this fault-queue slot, whose record names this address. -/
  fault : Option Nat := none
  faultAddr : Nat := 0
  /-- R207: the destination lines that are owned for it; `placed` once that is so, or none has to be. -/
  lines : List Nat := []
  placed : Bool := false
  /-- R279, R286: the bytes performed so far, at most 128 at a time; and, in scratchpad, what they replaced (R208). -/
  pos : Nat := 0
  old : List Nat := []
  deriving DecidableEq, Repr

/-- R269: a command of a copy queue. A command that has ended with a failure stays listed until its failure is taken. -/
structure CopyCmd where
  id : Nat := 0
  kind : CopyKind := .cpy
  wave : Nat := 0
  split : Nat := 0
  who : Nat := 0
  batch : Nat := 0
  /-- R272: the slot it is counted against: ring offset and slot number. -/
  slot : Option (Nat × Nat) := none
  /-- The groups whose scratchpads its hops write; one, the issuing wave's, but for CPYM. -/
  dests : List Nat := []
  pieces : List CopyPiece := []
  started : Bool := false
  failed : Option (Nat × Nat) := none
  /-- A BWAIT has taken the failure (R281). -/
  told : Bool := false
  failedHops : List Nat := []
  /-- R278, R288: the failing address of each hop that has failed. -/
  hopAddrs : List (Nat × Nat) := []
  /-- R354: the translation word of a protection failure. -/
  failTrans : Nat := 0
  /-- R286: hops whose bytes are all performed and whose arrival is still to be counted. -/
  owed : List Nat := []
  island : Nat := 0
  priv : Bool := false
  pc : Nat := 0
  block : Nat := 0
  /-- The region opening that it was issued in; 0 outside regions. -/
  opened : Nat := 0
  /-- R169: the endpoint that is the FIFO port; `cut`: the FIFO was emptied while the command waited on it (R176). -/
  srcFifo : Bool := false
  dstFifo : Bool := false
  cut : Bool := false
  /-- R274: the key of the free choices of a copy whose ranges overlap. -/
  mixKey : Nat := 0
  /-- R208: the groups whose slot has filled since the command's last byte there was counted. -/
  filled : List Nat := []
  /-- R289, R292: the groups whose slot holds the command's failure no more. -/
  freed : List Nat := []
  /-- R177: LIMIT of the issuing group at issue. -/
  limit : Nat := 0
  deriving DecidableEq, Repr

/-- A point of the window plane, exact. -/
structure Pt where
  x : Rat
  y : Rat
  deriving DecidableEq, Repr

/-- R302, R303: a projected triangle: its number, ids, hull, depth function and camera-space plane (n, d). -/
structure BeamCand where
  num : Nat := 0
  prim : Nat := 0
  word10 : Nat := 0
  hull : List Pt := []
  a : Rat := 0
  b : Rat := 0
  c : Rat := 0
  plane : List Rat := []
  deriving DecidableEq, Repr

/-- R321, R323: a piece of a beam, or an overflow ray. -/
structure PoolEntry where
  beam : Nat := 0
  poly : List Pt := []
  /-- Child words still to visit, next first. -/
  stack : List Nat := []
  /-- Stack extensions held. -/
  ext : Nat := 0
  /-- Candidates that cover the piece, or hold the ray's point. -/
  cands : List BeamCand := []
  /-- Outside parts that wait for an entry, with the order of the requests. -/
  wait : List (Nat × List Pt) := []
  /-- It takes no pool entry: a ray, or a piece of an OCC beam that found none. -/
  outside : Bool := false
  /-- A ray: its pixel and its weight; its point is the one corner of `poly`. -/
  ray : Option (Nat × Nat × Rat) := none
  /-- R329: a scene read waits at this slot of the fault queue. -/
  fault : Option Nat := none
  /-- R321: its traversal has ended; it becomes free when the finished fragments have entered q1. -/
  ended : Bool := false
  deriving DecidableEq, Repr

/-- R422, R423, R4: a region whose bytes are read under another key than they were stored under, or have been lost: the number of the key, and
the lines that have been written since. -/
structure Veil where
  base : Nat := 0
  size : Nat := 0
  key : Nat := 0
  clear : List Nat := []
  deriving DecidableEq, Repr

/-- R312: memory as it stood when a beam was submitted: at home, in the core's L1, in its cluster's slice and in its far scratchpad. -/
structure Past where
  mem : Sparse Byte := []
  veils : List Veil := []
  l1 : List Line := []
  lines : List Line := []
  /-- The cluster's far scratchpad. -/
  far : Sparse Byte := []
  deriving DecidableEq, Repr

/-- R319, R324: an unretired beam: its descriptor, its binding (root, triangle base, camera table, camera count), memory at its submission, the
camera once read, the finished pieces with the candidates that cover them, every candidate read, and the fragments that have entered q1. -/
structure Beam where
  id : Nat := 0
  desc : List Nat := []
  bind : List Nat := []
  wave : Nat := 0
  split : Nat := 0
  who : Nat := 0
  pc : Nat := 0
  past : Past := {}
  cam : Option (List Nat) := none
  done : List (List Pt × List BeamCand) := []
  met : List BeamCand := []
  emitted : List (Nat × Nat × Nat) := []
  deriving DecidableEq, Repr

/-- R319: a descriptor that waits for an entry, with memory at its submission. -/
structure BeamRoot where
  wave : Nat := 0
  split : Nat := 0
  who : Nat := 0
  pc : Nat := 0
  desc : List Nat := []
  past : Past := {}
  deriving DecidableEq, Repr

/-- R18: a core. -/
structure Core where
  l1 : List Line := []
  tlb : List TlbEntry := []
  /-- Scratchpad bytes of the whole core, by core offset. -/
  spad : Sparse Byte := []
  /-- R412: poisoned scratchpad words. -/
  spadPoison : List Nat := []
  pipe : List TileJob := []
  copies : List CopyCmd := []
  /-- 0x140, 0x141, 0x142, 0x143 (R213, R363). -/
  recons : Nat := 0
  survivors : Nat := 0
  skipped : Nat := 0
  apart : Nat := 0
  /-- 0x040 to 0x05F by index (R391). -/
  stalls : Sparse Nat := []
  conflicts : Nat := 0
  stamp : Nat := 0
  deriving DecidableEq, Repr

/-- R341: what a group that a work-graph node launched holds. -/
structure NodeTask where
  graph : Nat := 0
  node : Nat := 0
  batch : Nat := 0
  res : Nat := 0
  /-- Blocks of its records with the records as appended: its batch, then those it took with QPOP q3. -/
  blocks : List (Nat × List Nat) := []
  /-- R345: it has faulted and is to be parked. -/
  parked : Bool := false
  /-- R345: the quarter and the rows of each wave that stopped then; they are freed when the group ends. -/
  stopped : List (Nat × Nat) := []
  deriving DecidableEq, Repr

/-- R21: a resident group. -/
structure Group where
  launch : Nat := 0
  core : Nat := 0
  index : Nat := 0
  gx : Nat := 0
  gy : Nat := 0
  gz : Nat := 0
  /-- Scratchpad range: base in the core's scratchpad, grant and LIMIT in 128-byte units, SWZ (R177). -/
  base : Nat := 0
  grant : Nat := 0
  limit : Nat := 0
  swz : Nat := 0
  phases : List Bool := List.replicate 16 false
  /-- R316: the beam configuration; 0 is no pool. -/
  bcfg : Nat := 0
  /-- R317: BVH root, triangle base, camera table and camera count. -/
  scene : Option (List Nat) := none
  /-- R325: q1, oldest first; a record is its eight words. -/
  q1 : List (List Nat) := []
  roots : List BeamRoot := []
  pool : List PoolEntry := []
  beams : List Beam := []
  /-- R283: the slot words of the group's rings by offset: as the device last wrote each, and what a program stored there before. -/
  rings : List (Nat × Nat × Option Nat) := []
  /-- R277: the number of CPYB that each wave has issued: key, wave, count. -/
  arrivals : List (Nat × Nat × Nat) := []
  waves : List Nat := []
  /-- Residency order on the core (R27). -/
  order : Nat := 0
  /-- Member number and size of its atoll (R242). -/
  member : Nat := 0
  atoll : Nat := 1
  node : Option NodeTask := none
  /-- R408: its core has been swapped; nothing of it runs. -/
  away : Bool := false
  /-- R242: its waves halt for a move to this core. -/
  moving : Option Nat := none
  deriving DecidableEq, Repr

/-- R410, R411: the saved contexts of a cluster: what its quarters and cores held, the island that it was lent to, and the clock. -/
structure Saved where
  island : Nat := 0
  clock : Nat := 0
  quarters : Tbl Quarter := []
  cores : Tbl Core := []
  /-- R412: the copy in the shadow layer has an uncorrectable error. -/
  bad : Bool := false
  deriving DecidableEq, Repr
/-- R408: a reclaim under way: the clock it began on, and the clock on which its swap phase began. -/
structure Reclaim where
  start : Nat := 0
  swap : Option Nat := none
  deriving DecidableEq, Repr

/-- R17: a cluster. -/
structure Cluster where
  /-- The way-partition register (R173). -/
  ways : Nat := 0x0000004000000000
  lines : List Line := []
  far : Sparse Byte := []
  fifo : List (List Nat) := []
  stamp : Nat := 0
  /-- R36: the island that the cluster is lent to. -/
  lent : Option Nat := none
  reclaim : Option Reclaim := none
  saved : Option Saved := none
  deriving DecidableEq, Repr

/-- R403, R402: a record of q4. -/
structure EvRec where
  kind : Nat := 0
  cause : Nat := 0
  who : Nat := 0
  addr : Nat := 0
  aux : Nat := 0
  aux2 : Nat := 0
  clock : Nat := 0
  deriving DecidableEq, Repr

/-- R405: a fault record that waits for a verdict, by its index in the order of placement, and the address that it names. -/
structure FaultRec where
  slot : Nat
  addr : Nat := 0
  /-- R354: the translation word of the record. -/
  trans : Nat := 0
  deriving DecidableEq, Repr

/-- R338, R341: a formed batch: its number, and its blocks with their records. -/
structure Batch where
  num : Nat := 0
  blocks : List (Nat × List Nat) := []
  deriving DecidableEq, Repr

/-- R330: a node's list (block and record, in append order), timer and formed batches. -/
structure NodeList where
  recs : List (Nat × List Nat) := []
  timer : Option Nat := none
  nextBatch : Nat := 0
  formed : List Batch := []
  deriving DecidableEq, Repr

/-- R330, R332: a graph binding. -/
structure Graph where
  desc : List Nat := []
  /-- The node table entries read by WLCFG: launch-block address, R, TIMEOUT. -/
  nodes : List (Nat × Nat × Nat) := []
  lists : List NodeList := []
  used : List Nat := []
  faulted : Bool := false
  quiet : Bool := true
  /-- R1: an unprivileged wave bound it. -/
  bare : Bool := false
  deriving DecidableEq, Repr

/-- R343: a successor append in the background: the counter, the graph and node that it names, who asked, and its fault-queue slot. -/
structure Successor where
  counter : Nat := 0
  graph : Nat := 0
  node : Nat := 0
  core : Nat := 0
  priv : Bool := false
  who : Nat := 0
  pc : Nat := 0
  block : Nat := 0
  fault : Option Nat := none
  deriving DecidableEq, Repr

/-- R345: a task to be parked: its group, cause code, who faulted, cw.taddr and PC. -/
structure ParkedTask where
  /-- The group that stopped, where the task was resident. -/
  group : Option Nat := none
  who : Nat := 0
  graph : Nat := 0
  node : Nat := 0
  code : Nat := 0
  taddr : Nat := 0
  pc : Nat := 0
  blocks : List (Nat × List Nat) := []
  deriving DecidableEq, Repr

/-- R35, R361: an island. -/
structure Island where
  /-- The island table entry, 128 bytes. -/
  entry : List Nat := []
  /-- HEAD and TAIL of the real-time, normal and background queues (R239). -/
  heads : List Nat := [0, 0, 0]
  tails : List Nat := [0, 0, 0]
  /-- R1: class and index of the queue entries that unprivileged waves have launched (R344). -/
  bare : List (Nat × Nat) := []
  fqHead : Nat := 0
  fqTail : Nat := 0
  fqSeq : Nat := 0
  pending : List FaultRec := []
  /-- Records that wait for a free slot of the fault queue. -/
  fqWait : List (List Nat) := []
  parkQ : List ParkedTask := []
  graphs : Tbl Graph := []
  succ : List Successor := []
  tlbinv : Nat := 0
  t1 : Nat := 4600
  t2 : Nat := 2300
  q4 : List EvRec := []
  q4wait : List EvRec := []
  lost : Nat := 0
  repstall : Nat := 4600
  evqint : Nat := 0
  windows : Nat := 0
  keyGen : Option Nat := none
  deriving DecidableEq, Repr

/-- R237: a launch in flight. -/
structure Launch where
  island : Nat := 0
  cls : Nat := 1
  /-- The 128 bytes of the block, and the address it was read from. -/
  block : List Nat := []
  addr : Nat := 0
  next : Nat := 0
  resident : Nat := 0
  finished : Nat := 0
  fault : Bool := false
  isNode : Bool := false
  /-- R240: HEAD has moved past its entry. -/
  headMoved : Bool := false
  /-- R243: clock of release 0, releases so far, instance that runs (its number and deadline), merged releases, lateness. -/
  r0 : Nat := 0
  released : Nat := 0
  running : Bool := false
  inst : Nat := 0
  deadline : Nat := 0
  merged : Nat := 0
  late : Bool := false
  /-- R360: a copy command of the launch, or a hop, has left a fault record; the launch went on. -/
  recorded : Bool := false
  /-- R1: an unprivileged wave wrote its block, or bound its node. -/
  bare : Bool := false
  deriving DecidableEq, Repr

/-- R209: a commit to a replicated line in progress. -/
structure Commit where
  line : Nat
  island : Nat
  wave : Nat
  writes : Sparse Byte := []
  start : Nat := 0
  reported : Bool := false
  /-- R109: a write of the window spill engine. -/
  spill : Bool := false
  /-- R209: the copy command that makes the write; 0 for none. -/
  cmd : Nat := 0
  deriving DecidableEq, Repr

/-- The items of the device as a whole. -/
structure Device where
  cycle : Nat := 0
  /-- The clock of the last boot: the stall counters of a core that nothing has used yet count from it (R390). -/
  bootCycle : Nat := 0
  /-- Memory by physical address; an unlisted byte reads 0 (log 3). -/
  mem : List Host.Cell := []
  /-- R422, R423: the regions whose key has changed, newest first. -/
  veils : List Veil := []
  poison : List Nat := []
  /-- R211: poisoned writes not yet reported: line and island. -/
  unreported : List (Nat × Nat) := []
  /-- R204: release records by line: (core, kind), kind 0 D, 1 P. -/
  records : Tbl (Nat × Nat) := []
  commits : List Commit := []
  /-- R207: lines owned by an engine's command. -/
  owned : List (Nat × Nat) := []
  corrected : Nat := 0
  pwrReq : Nat := 0
  /-- STATE of R425; 3 stands for no power. -/
  pwrState : Nat := 0
  pwrMods : Nat := 4
  pwrErr : Nat := 0
  frozen : Bool := false
  log : List (List Nat) := []
  /-- R422: STATUS of the security engine's mailbox, the command that it works on (OP and island), and the bytes written beside it. -/
  mailbox : Nat := 0
  mailCmd : Option (Nat × Nat) := none
  mailIn : Sparse Byte := []
  /-- R426: the retention SRAM, and the number of the free values that its bytes read as since its contents were lost; 0 before. -/
  retention : Sparse Byte := []
  retKey : Nat := 0
  msix : List Nat := []
  /-- The bytes last returned to an outside reader, and the lines of them that carried CXL poison (R404, R419, R422). -/
  reply : List Nat := []
  replyBad : List Nat := []
  deriving DecidableEq, Repr

/-- Why the model stops: its own reasons only; every stop the spec describes is a next state. -/
inductive Fault where
  /-- An instruction executed while no split issues. Raised by every instruction row; safe: the hardware never does this. -/
  | noIssuer
  deriving DecidableEq, Repr

/-- Why the model has no answer. -/
inductive Refusal where
  /-- An instruction without a meaning; raised by Dispatch only. Safe. -/
  | notModelled (mnemonic : String)
  /-- The agenda holds an instruction word, which is no move of another agent. Raised by step; safe. -/
  | notAnEvent
  deriving DecidableEq, Repr

/-- The machine. -/
structure State where
  waves : Tbl Wave := []
  /-- R83, R377: the waves that have ended, as they ended, until their rows are granted again. -/
  ended : Tbl Wave := []
  groups : Tbl Group := []
  launches : Tbl Launch := []
  quarters : Tbl Quarter := []
  cores : Tbl Core := []
  clusters : Tbl Cluster := []
  islands : Tbl Island := []
  dev : Device := {}
  agenda : List Instr := []
  cur : Option (Nat × Nat) := none
  turn : Nat := 0
  free : Nat := 0
  nextId : Nat := 1
  deriving DecidableEq, Repr

/-- The machine right after reset: nothing is resident, no island is set up, every counter and register is at its reset value. -/
def State.reset : State := {}

end Sys2Proof.Machine
end

