-- ==== Sys2Proof/Machine/Geometry.lean ====
section
/-!
DEFINITION. Beam geometry on exact rationals (16: R298 to R309; R73, R74): polygons, projection and snapping, depth, split lines, the visible
candidate, and the fields of a fragment.
-/
namespace Sys2Proof.Machine

/-! Numbers. -/
def ratOf (x : Ratio) : Rat := mkRat x.num x.den
def ratioFrom (x : Rat) : Ratio := ⟨x.num, x.den⟩
/-- A finite F32 pattern as a number; none for an infinity or a NaN. -/
def f32Rat (x : Nat) : Option Rat := match decodeF f32 x with
  | .fin n m e => some (ratOf (ratioOf n m e))
  | _ => none
/-- One rounding to F32 with nearest-even; none where it overflows. -/
def round32 (x : Rat) : Option Rat := f32Rat (roundRatio f32 0 (ratioFrom x) false).bits
/-- R73: nearest multiple of 1 / m, ties to even, clamped to lo .. hi steps. -/
def fixedSteps (m : Nat) (x : Rat) : Int := (roundInt 0 (ratioFrom (x * (m : Int)))).1
def clampSteps (lo hi n : Int) : Int := max lo (min hi n)
def fixedOf (m : Nat) (lo hi : Int) (x : Rat) : Int := clampSteps lo hi (fixedSteps m x)
def gridLo : Int := -(2 ^ 23)
def gridHi : Int := 2 ^ 23 - 1
/-- R302, R305: one rounding to F32, then 16.8; an infinity clamps. -/
def gridOf (x : Rat) : Rat :=
  let n : Int := match round32 x with
    | some y => fixedOf 256 gridLo gridHi y
    | none => if x < 0 then gridLo else gridHi
  mkRat n 256
/-- R73: the conversion of `gridOf` clamps. -/
def gridClamps (x : Rat) : Bool := match round32 x with
  | some y => decide (fixedOf 256 gridLo gridHi y ≠ fixedSteps 256 y)
  | none => true
/-- R302: the snapped quotient: 0 / 0 is a NaN, which converts to 0; another quotient by 0 is an infinity. -/
def gridQuot (n d : Rat) : Rat :=
  if d ≠ 0 then gridOf (n / d) else if n = 0 then 0 else mkRat (if n < 0 then gridLo else gridHi) 256
def quotClamps (n d : Rat) : Bool := if d ≠ 0 then gridClamps (n / d) else decide (n ≠ 0)
def absRat (x : Rat) : Rat := if x < 0 then -x else x
def sumRat (l : List Rat) : Rat := l.foldl (· + ·) 0

/-! Polygons: convex, given counter-clockwise. -/
/-- A line p x + q y + r, positive on one side. -/
structure Ln where
  p : Rat
  q : Rat
  r : Rat
  deriving DecidableEq, Repr
def lnAt (l : Ln) (x : Pt) : Rat := l.p * x.x + l.q * x.y + l.r
def lnNeg (l : Ln) : Ln := ⟨-l.p, -l.q, -l.r⟩
/-- The line through two points, positive on the left. -/
def lnThrough (a b : Pt) : Ln := ⟨a.y - b.y, b.x - a.x, (b.y - a.y) * a.x - (b.x - a.x) * a.y⟩
/-- The corners of a polygon in pairs. -/
def sides (poly : List Pt) : List (Pt × Pt) := poly.zip (poly.drop 1 ++ poly.take 1)
def edgeLines (poly : List Pt) : List Ln := (sides poly).map fun s => lnThrough s.1 s.2
def crossPt (a b : Pt) : Rat := a.x * b.y - b.x * a.y
/-- Area and first moments. -/
structure Moment where
  area : Rat
  mx : Rat
  my : Rat
  deriving DecidableEq, Repr
def momentOf (poly : List Pt) : Moment :=
  let c (f : Pt × Pt → Rat) : Rat := sumRat ((sides poly).map fun s => f s * crossPt s.1 s.2)
  ⟨c (fun _ => 1) / 2, c (fun s => s.1.x + s.2.x) / 6, c (fun s => s.1.y + s.2.y) / 6⟩
def momentAdd (a b : Moment) : Moment := ⟨a.area + b.area, a.mx + b.mx, a.my + b.my⟩
def areaOf (poly : List Pt) : Rat := (momentOf poly).area
/-- The centroid of a polygon that has an area. -/
def momentCentre (m : Moment) : Pt := ⟨m.mx / m.area, m.my / m.area⟩
/-- The point where the line meets the side a b, whose ends lie on different sides of it. -/
def meetPt (l : Ln) (a b : Pt) : Pt :=
  let t := lnAt l a / (lnAt l a - lnAt l b)
  ⟨a.x + (b.x - a.x) * t, a.y + (b.y - a.y) * t⟩
def dedupPts : List Pt → List Pt
  | a :: b :: t => if a = b then dedupPts (b :: t) else a :: dedupPts (b :: t)
  | l => l
/-- The part of a polygon on the non-negative side of a line; none where it has no area. -/
def halfOf (l : Ln) (poly : List Pt) : List Pt :=
  let raw := (sides poly).flatMap fun s =>
    (if 0 ≤ lnAt l s.1 then [s.1] else []) ++ (if lnAt l s.1 * lnAt l s.2 < 0 then [meetPt l s.1 s.2] else [])
  let ps := dedupPts raw
  if areaOf ps = 0 then [] else ps
/-- The intersection with a convex polygon. -/
def cutBy (conv poly : List Pt) : List Pt := (edgeLines conv).foldl (fun p l => halfOf l p) poly
/-- The line runs through the interior. -/
def crosses (l : Ln) (poly : List Pt) : Bool := (poly.any fun p => decide (lnAt l p < 0)) && poly.any fun p => decide (0 < lnAt l p)
/-- R306. -/
def pixelSquare (px py : Nat) : List Pt :=
  let x : Rat := (px : Int)
  let y : Rat := (py : Int)
  [⟨x, y⟩, ⟨x + 1, y⟩, ⟨x + 1, y + 1⟩, ⟨x, y + 1⟩]
/-- R304: a closed hull holds the point. -/
def hullHolds (hull : List Pt) (x : Pt) : Bool := (edgeLines hull).all fun l => decide (0 ≤ lnAt l x)
def ptLt (a b : Pt) : Bool := decide (a.x < b.x) || (decide (a.x = b.x) && decide (a.y < b.y))
def insertPt (x : Pt) : List Pt → List Pt
  | [] => [x]
  | h :: t => if ptLt x h then x :: h :: t else if x = h then h :: t else h :: insertPt x t
/-- A chain of a convex hull, latest point first. -/
def chainPush (p : Pt) : List Pt → List Pt
  | b :: a :: t =>
    if crossPt ⟨b.x - a.x, b.y - a.y⟩ ⟨p.x - a.x, p.y - a.y⟩ ≤ 0 then chainPush p (a :: t) else p :: b :: a :: t
  | l => p :: l
/-- R302: the convex hull of a list of points; none where it has no area. -/
def hullOf (pts : List Pt) : List Pt :=
  let ps := pts.foldr insertPt []
  let lo := ps.foldl (fun c p => chainPush p c) []
  let up := ps.reverse.foldl (fun c p => chainPush p c) []
  let h := (lo.drop 1).reverse ++ (up.drop 1).reverse
  if h.length < 3 then [] else h
/-- R321: the part of a piece inside a hull, and the parts outside, one for each side. -/
def clipPiece : List Ln → List Pt → List Pt × List (List Pt)
  | [], inside => (inside, [])
  | l :: t, inside =>
    let out := halfOf (lnNeg l) inside
    let r := clipPiece t (halfOf l inside)
    (r.1, (if out.isEmpty then [] else [out]) ++ r.2)
/-- Whole pixels that a polygon's extent touches, from the region of a descriptor. -/
def pixelsIn (ox oy w h : Nat) : List (Nat × Nat) := (List.range h).flatMap fun j => (List.range w).map fun i => (ox + i, oy + j)

/-! Descriptors (R318). -/
def dBits (d : List Nat) (k lo n : Nat) : Nat := d.getD k 0 / 2 ^ lo % 2 ^ n
def dMode (d : List Nat) : Nat := dBits d 0 0 2
def dNV (d : List Nat) : Nat := dBits d 0 2 4
def dCam (d : List Nat) : Nat := dBits d 0 6 10
def dFlags (d : List Nat) : Nat := dBits d 0 16 16
def dOX (d : List Nat) : Nat := dBits d 1 0 16
def dOY (d : List Nat) : Nat := dBits d 1 16 16
def dW (d : List Nat) : Nat := dBits d 2 0 8
def dH (d : List Nat) : Nat := dBits d 2 8 8
def dId (d : List Nat) : Nat := dBits d 2 16 16
/-- The 384-bit vertex field. -/
def dVert (d : List Nat) : Nat := (List.range 12).foldl (fun a k => a + d.getD (4 + k) 0 % 2 ^ 32 * 2 ^ (32 * k)) 0
def coord (v : Nat) : Rat := mkRat (if v < 2 ^ 23 then (v : Int) else (v : Int) - 2 ^ 24) 256
def dPoly (d : List Nat) : List Pt := (List.range (dNV d)).map fun k =>
  ⟨coord (dVert d / 2 ^ (48 * k) % 2 ^ 24), coord (dVert d / 2 ^ (48 * k + 24) % 2 ^ 24)⟩
/-- R320 cause 3: a simple polygon whose turns are all positive: every side has every other corner on its left. -/
def polyGood (ps : List Pt) : Bool :=
  let n := ps.length
  let at' (i : Nat) : Pt := ps.getD (i % n) ⟨0, 0⟩
  (List.range n).all fun i => (List.range n).all fun j =>
    j == i || j == (i + 1) % n || decide (0 < lnAt (lnThrough (at' i) (at' (i + 1))) (at' j))
/-- R304: the test region K. -/
def testRegion (d : List Nat) : List Pt :=
  let x0 : Rat := (dOX d : Int)
  let y0 : Rat := (dOY d : Int)
  let x1 : Rat := ((dOX d + dW d : Nat) : Int)
  let y1 : Rat := ((dOY d + dH d : Nat) : Int)
  cutBy [⟨x0, y0⟩, ⟨x1, y0⟩, ⟨x1, y1⟩, ⟨x0, y1⟩] (dPoly d)

/-! Cameras (R298): a camera is its sixteen words. -/
def camRat (c : List Nat) (k : Nat) : Rat := (f32Rat (c.getD k 0)).getD 0
def camGood (c : List Nat) : Bool :=
  ((List.range 14).all fun k => (f32Rat (c.getD k 0)).isSome) && decide (0 < camRat c 12) && decide (0 < camRat c 13) && decide (c.getD 15 0 < 2) &&
    (match decodeF f32 (c.getD 14 0) with
    | .inf n => !n
    | .fin _ _ _ => decide (camRat c 13 ≤ camRat c 14)
    | _ => false)
def camMir (c : List Nat) : Bool := c.getD 15 0 % 2 == 1

/-! Projection (R301 to R303). -/
/-- A vector of camera space, or of the world. -/
structure V3 where
  u : Rat
  w : Rat
  z : Rat
  deriving DecidableEq, Repr
def v3sub (a b : V3) : V3 := ⟨a.u - b.u, a.w - b.w, a.z - b.z⟩
def v3dot (a b : V3) : Rat := a.u * b.u + a.w * b.w + a.z * b.z
def v3cross (a b : V3) : V3 := ⟨a.w * b.z - a.z * b.w, a.z * b.u - a.u * b.z, a.u * b.w - a.w * b.u⟩
def camRow (c : List Nat) (k : Nat) : V3 := ⟨camRat c k, camRat c (k + 1), camRat c (k + 2)⟩
/-- Each coordinate rounded once. -/
def round3 (v : V3) : Option V3 := match round32 v.u, round32 v.w, round32 v.z with
  | some u, some w, some z => some ⟨u, w, z⟩
  | _, _, _ => none
/-- R301: a vertex in camera space. -/
def toCamera (c : List Nat) (p : V3) : Option V3 := match round3 (v3sub p (camRow c 0)) with
  | none => none
  | some e => round3 ⟨v3dot (camRow c 3) e, v3dot (camRow c 6) e, v3dot (camRow c 9) e⟩
/-- R300: a vertex of a triangle record; none where a coordinate is not finite. -/
def triVertex (t : List Nat) (k : Nat) : Option V3 := match f32Rat (t.getD (3 * k) 0), f32Rat (t.getD (3 * k + 1) 0), f32Rat (t.getD (3 * k + 2) 0) with
  | some x, some y, some z => some ⟨x, y, z⟩
  | _, _, _ => none
/-- R302: the six planes, in order; FAR = +infinity leaves its plane out. -/
def clipPlanes (c : List Nat) : List (V3 → Rat) :=
  let S := camRat c 12
  [fun v => v.z - camRat c 13] ++ (if (f32Rat (c.getD 14 0)).isSome then [fun v => camRat c 14 - v.z] else []) ++
    [fun v => 16384 * v.z - S * v.u, fun v => 16384 * v.z + S * v.u, fun v => 16384 * v.z - S * v.w, fun v => 16384 * v.z + S * v.w]
def allSome {α : Type} : List (Option α) → Option (List α)
  | [] => some []
  | x :: t => match x, allSome t with
    | some a, some l => some (a :: l)
    | _, _ => none
/-- The point that an edge from a kept to a dropped vertex contributes. -/
def clipPoint (keep drop : V3 × Rat) : Option V3 := match round32 (keep.2 / (keep.2 - drop.2)) with
  | none => none
  | some t =>
    let k := keep.1
    let d := drop.1
    round3 ⟨k.u + t * (d.u - k.u), k.w + t * (d.w - k.w), k.z + t * (d.z - k.z)⟩
/-- R302: one plane; none where a rounding overflows (R303). -/
def clipPlane (g : V3 → Rat) (poly : List V3) : Option (List V3) := match allSome (poly.map fun v => (round32 (g v)).map fun r => (v, r)) with
  | none => none
  | some vs =>
    (allSome ((vs.zip (vs.drop 1 ++ vs.take 1)).flatMap fun s =>
      (if 0 ≤ s.1.2 then [some s.1.1] else []) ++
      (if 0 ≤ s.1.2 ∧ s.2.2 < 0 then [clipPoint s.1 s.2] else if s.1.2 < 0 ∧ 0 ≤ s.2.2 then [clipPoint s.2 s.1] else [])))
def clipAll : List (V3 → Rat) → List V3 → Option (List V3)
  | [], poly => some poly
  | g :: t, poly => match clipPlane g poly with
    | none => none
    | some [] => none
    | some p => clipAll t p
/-- R302: the snapped projection of a camera-space point. -/
def snapPoint (c : List Nat) (v : V3) : Pt := ⟨gridQuot (camRat c 12 * v.u) v.z, gridQuot (camRat c 12 * v.w) v.z⟩
/-- R73: a coordinate of the snapped projection clamps. -/
def snapClamps (c : List Nat) (v : V3) : Bool := quotClamps (camRat c 12 * v.u) v.z || quotClamps (camRat c 12 * v.w) v.z
/-- R300 to R303: a triangle clipped in camera space, with its candidate but for the hull; none where it is skipped. `occ` is the mode of the
beam. -/
def clippedTri (c : List Nat) (occ : Bool) (num : Nat) (t : List Nat) : Option (List V3 × BeamCand) :=
  let fl := t.getD 11 0
  if fl / (if occ then 4 else 8) % 2 = 1 then none
  else match triVertex t 0, triVertex t 1, triVertex t 2 with
    | some p0, some p1, some p2 => match toCamera c p0, toCamera c p1, toCamera c p2 with
      | some v0, some v1, some v2 =>
        let n := v3cross (v3sub v1 v0) (v3sub v2 v0)
        let d := v3dot n v0
        let S := camRat c 12
        if d = 0 then none
        else
          let front : Bool := decide (0 < d) != camMir c
          if fl / 2 % 2 = 1 ∧ !front then none
          else match round32 (n.u / (d * S)), round32 (n.w / (d * S)), round32 (n.z / d) with
            | some a, some b, some q => (clipAll (clipPlanes c) [v0, v1, v2]).map fun ps =>
              (ps, { num := num, prim := t.getD 9 0 % 2 ^ 32, word10 := t.getD 10 0 % 2 ^ 32, a := a, b := b, c := q, plane := [n.u, n.w, n.z, d] })
            | _, _, _ => none
      | _, _, _ => none
    | _, _, _ => none
/-- R302: the candidate of a triangle record: its hull has an area. -/
def candidate (c : List Nat) (occ : Bool) (num : Nat) (t : List Nat) : Option BeamCand := match clippedTri c occ num t with
  | none => none
  | some (ps, A) => match hullOf (ps.map (snapPoint c)) with
    | [] => none
    | h => some { A with hull := h }
/-- R73: projecting the triangle clamps a coordinate. -/
def candidateClamps (c : List Nat) (occ : Bool) (num : Nat) (t : List Nat) : Bool := match clippedTri c occ num t with
  | none => false
  | some (ps, _) => ps.any (snapClamps c)

/-! Boxes (R299, R311). -/
/-- R299: one axis of a child box: each end rounded once to F32, outwards; none where a value is not finite. -/
def boxAxis (lo hi qlo qhi : Nat) : Option (Rat × Rat) :=
  let ends (a b : Rat) (q rm : Nat) : Option Rat := f32Rat (roundRatio f32 rm (ratioFrom (a + (b - a) * (q : Int) / 255)) false).bits
  match f32Rat lo, f32Rat hi with
  | some a, some b => match ends a b qlo 3, ends a b qhi 2 with
    | some x, some y => some (x, y)
    | _, _ => none
  | _, _ => none
/-- R299: the box of child k of a node, axis by axis. -/
def childBox (node : List Nat) (k : Nat) : Option (List (Rat × Rat)) :=
  let byte (i : Nat) : Nat := node.getD (6 + i / 4) 0 / 2 ^ (8 * (i % 4)) % 2 ^ 8
  allSome ((List.range 3).map fun j => boxAxis (node.getD j 0) (node.getD (3 + j) 0) (byte (6 * k + j)) (byte (6 * k + 3 + j)))
/-- One variable of a system of linear conditions c₁x₁ + … + k ≥ 0 is eliminated, exactly. -/
def eliminate (cs : List (List Rat)) : List (List Rat) :=
  let neg := cs.filter fun c => decide (c.headD 0 < 0)
  (cs.filter fun c => c.headD 0 == 0).map (·.tail) ++
    (cs.filter fun c => decide (0 < c.headD 0)).flatMap fun a => neg.map fun b => (List.zipWith (fun x y => x * -(b.headD 0) + y * a.headD 0) a b).tail
/-- The system in one variable: no upper bound lies below a lower one. -/
def solvable (cs : List (List Rat)) : Bool :=
  let bound (c : List Rat) : Rat := -(c.getD 1 0) / c.headD 1
  let lows := (cs.filter fun c => decide (0 < c.headD 0)).map bound
  let highs := (cs.filter fun c => decide (c.headD 0 < 0)).map bound
  (cs.all fun c => c.headD 0 != 0 || decide (0 ≤ c.getD 1 0)) && (match lows, highs with
    | l :: ls, h :: hs => decide (ls.foldl max l ≤ hs.foldl min h)
    | _, _ => true)
/-- R311: no point of the box lies inside the beam, whose cross-section is K, and no triangle of it is a candidate that reaches the beam: the box, moved
to camera space with every rounding of R301 and R302 allowed for, has no point between NEAR and FAR that projects within 1 / 128 pixel of K. False where these bounds do not exclude that a
coordinate clamps. -/
def boxMisses (cam : List Nat) (K : List Pt) (box : List (Rat × Rat)) : Bool :=
  let S := camRat cam 12
  match allSome ((List.range 3).map fun j =>
      let b := box.getD j (0, 0)
      match round32 (b.1 - camRat cam j), round32 (b.2 - camRat cam j) with
      | some x, some y => some (x, y)
      | _, _ => none) with
  | none => false
  | some es =>
    let size (r : V3) : Rat := sumRat (List.zipWith (fun k (e : Rat × Rat) => absRat k * max (absRat e.1) (absRat e.2)) [r.u, r.w, r.z] es)
    let slack (r : V3) : Rat := size r / 2 ^ 18 + mkRat 1 (2 ^ 140)
    let U := camRow cam 3
    let W := camRow cam 6
    let F := camRow cam 9
    let near := camRat cam 13 - slack F
    let tame (r : V3) : Bool := decide (S * slack r + 16384 * slack F ≤ 8192 * near)
    let half (p q r k : Rat) : List Rat :=
      [p * U.u + q * W.u + r * F.u, p * U.w + q * W.w + r * F.w, p * U.z + q * W.z + r * F.z, k + absRat p * slack U + absRat q * slack W + absRat r * slack F]
    let ends : List (List Rat) := (List.range 3).flatMap fun j =>
      let unit (v : Rat) : List Rat := (List.range 3).map fun i => if i = j then v else 0
      let e := es.getD j (0, 0)
      [unit 1 ++ [-e.1], unit (-1) ++ [e.2]]
    let depth := [half 0 0 1 (-(camRat cam 13))] ++ (match f32Rat (cam.getD 14 0) with
      | some far => [half 0 0 (-1) far]
      | none => [])
    let edges := (edgeLines K).map fun l => half (l.p * S) (l.q * S) (l.r + (absRat l.p + absRat l.q) / 128) 0
    tame U && tame W && !(solvable (eliminate (eliminate (ends ++ depth ++ edges))))

/-! What is seen (R304, R305). -/
def qAt (A : BeamCand) (x : Pt) : Rat := A.a * x.x + A.b * x.y + A.c
def candInst (A : BeamCand) : Nat := A.word10 / 2 ^ 12
def qLine (A B : BeamCand) : Ln := ⟨A.a - B.a, A.b - B.b, A.c - B.c⟩
/-- The ends of the chord of a line through a polygon. -/
def chordEnds (l : Ln) (J : List Pt) : Pt × Pt :=
  let ps := (sides J).flatMap fun s =>
    if lnAt l s.1 = 0 then [s.1] else if lnAt l s.1 * lnAt l s.2 < 0 then [meetPt l s.1 s.2] else []
  (ps.headD ⟨0, 0⟩, ps.getLastD ⟨0, 0⟩)
/-- R305: J of a pair. -/
def pairJ (K : List Pt) (A B : BeamCand) : List Pt := cutBy B.hull (cutBy A.hull K)
/-- R73: snapping the ends of the chord of a pair clamps. -/
def splitClamps (K : List Pt) (A B : BeamCand) : Bool :=
  let J := pairJ K A B
  let q := qLine A B
  crosses q J && (let e := chordEnds q J; gridClamps e.1.x || gridClamps e.1.y || gridClamps e.2.x || gridClamps e.2.y)
/-- R305: the split line of a pair, positive on A's side. -/
def splitLine (K : List Pt) (A B : BeamCand) : Option Ln :=
  let J := pairJ K A B
  let q := qLine A B
  if !crosses q J then none
  else
    let e := chordEnds q J
    let g1 : Pt := ⟨gridOf e.1.x, gridOf e.1.y⟩
    let g2 : Pt := ⟨gridOf e.2.x, gridOf e.2.y⟩
    if g1 = g2 then none
    else
      let l := lnThrough g1 g2
      let s := l.p * q.p + l.q * q.q
      if s = 0 then none else some (if 0 < s then l else lnNeg l)
/-- The order of two candidates that depth does not tell apart: primitive id, instance, then free ranks, which order any number of them. -/
def tieFront (A B : BeamCand) : Bool :=
  let rank (x : BeamCand) : Nat := Config.anyValue x.num (2 ^ 26)
  if A.prim ≠ B.prim then decide (A.prim < B.prim)
  else if candInst A ≠ candInst B then decide (candInst A < candInst B)
  else if rank A ≠ rank B then decide (rank A < rank B)
  else decide (A.num < B.num)
def depthFront (A B : BeamCand) (x : Pt) : Bool :=
  if qAt A x = qAt B x then tieFront A B else decide (qAt B x < qAt A x)
/-- R304: A is in front of B at x. -/
def inFront (K : List Pt) (A B : BeamCand) (x : Pt) : Bool := match splitLine K A B with
  | some l => if lnAt l x = 0 then depthFront A B x else decide (0 < lnAt l x)
  | none => depthFront A B x
/-- R304: the visible one of the candidates whose hulls hold x; in a cycle, the one of greatest depth function. -/
def visibleAt (K : List Pt) (cs : List BeamCand) (x : Pt) : Option BeamCand :=
  match cs.find? fun A => cs.all fun B => B.num == A.num || inFront K A B x with
  | some A => some A
  | none => cs.find? fun A => cs.all fun B => B.num == A.num || depthFront A B x
/-- The lines at which the order of two candidates changes. -/
def pairLines (K : List Pt) (A B : BeamCand) : List Ln := match splitLine K A B with
  | some l => [l, qLine A B]
  | none => [qLine A B]
def allPairs : List BeamCand → List (BeamCand × BeamCand)
  | [] => []
  | A :: t => t.map (fun B => (A, B)) ++ allPairs t
/-- A polygon cut by a list of lines. -/
def cutCells : List Ln → List (List Pt) → List (List Pt)
  | [], cells => cells
  | l :: t, cells => cutCells t (cells.flatMap fun c => if crosses l c then [halfOf l c, halfOf (lnNeg l) c] else [c])
/-- R304, R306: who is seen where on a cell that every candidate of `cs` covers. -/
def seenOn (K : List Pt) (cs : List BeamCand) (cell : List Pt) : List (BeamCand × Moment) :=
  (cutCells ((allPairs cs).flatMap fun p => pairLines K p.1 p.2) [cell]).filterMap fun c =>
    let m := momentOf c
    if m.area = 0 then none else (visibleAt K cs (momentCentre m)).map fun A => (A, m)

/-! Fragments (R74, R306, R307, R309, R325). -/
/-- R74. -/
def coverPair (c : Rat) : Nat × Nat :=
  if c.den < 2 ^ 31 then (c.num.toNat, c.den) else ((roundInt 0 (ratioFrom (c * (2 ^ 31 : Nat)))).1.toNat, 2 ^ 31)
/-- R73: a centroid coordinate. -/
def centroid16 (x : Rat) : Nat := (fixedOf 65536 0 65535 x).toNat
def centroidClamps (x : Rat) : Bool := decide (fixedOf 65536 0 65535 x ≠ fixedSteps 65536 x)
/-- A square root between two numbers. -/
def sqrtLo (x : Rat) : Rat := mkRat (isqrt (x.num.toNat * 2 ^ 128 / x.den)) (2 ^ 64)
def sqrtHi (x : Rat) : Rat := mkRat (isqrt (x.num.toNat * 2 ^ 128 / x.den) + 1) (2 ^ 64)
/-- R307: an F16 value within one step of an exact one that lies between lo and hi. -/
def bounded16 (code : Nat) (lo hi : Rat) (key : Rat) : Nat :=
  if 65520 ≤ lo then fmtInf f16
  else
    let u := ratOf (ulpOf f16 (ratioFrom hi))
    pickMag f16 (ratioFrom (lo - u)) (ratioFrom (hi + u)) (Config.bounded code key.num.toNat key.den)
/-- The inverse of the camera's basis applied to a vector; none where the basis is singular. -/
def fromCamera (c : List Nat) (v : V3) : Option V3 :=
  let U := camRow c 3
  let W := camRow c 6
  let F := camRow c 9
  let det := v3dot U (v3cross W F)
  if det = 0 then none
  else
    let k (r : Rat) (x : V3) : V3 := ⟨r * x.u / det, r * x.w / det, r * x.z / det⟩
    let a := k v.u (v3cross W F)
    let b := k v.w (v3cross F U)
    let d := k v.z (v3cross U W)
    some ⟨a.u + b.u + d.u, a.w + b.w + d.w, a.z + b.z + d.z⟩
/-- The derivatives of the point of the plane seen at g, along X and along Y, in camera space; none where the plane is seen edge-on. -/
def planeSteps (c : List Nat) (A : BeamCand) (g : Pt) : Option (V3 × V3) :=
  let n := A.plane
  let S := camRat c 12
  let q := (n.getD 0 0 * g.x / S + n.getD 1 0 * g.y / S + n.getD 2 0) / n.getD 3 1
  if q = 0 then none
  else
    let z := 1 / q
    let step (nk : Rat) : Rat := -(z * z * nk) / (S * n.getD 3 1)
    let zx := step (n.getD 0 0)
    let zy := step (n.getD 1 0)
    some (⟨z / S + g.x / S * zx, g.y / S * zx, zx⟩, ⟨g.x / S * zy, z / S + g.y / S * zy, zy⟩)
/-- R307: word 7: footprint area and anisotropy. -/
def footWord (c : List Nat) (A : BeamCand) (g : Pt) : Nat := match planeSteps c A g with
  | none => fmtInf f16 * 2 ^ 16 + fmtInf f16
  | some (sx, sy) => match fromCamera c sx, fromCamera c sy with
    | some ex, some ey =>
      let x := v3cross ex ey
      let det := v3dot x x
      let tr := v3dot ex ex + v3dot ey ey
      let area := bounded16 200 (sqrtLo det) (sqrtHi det) det
      let aniso := if det = 0 then fmtInf f16 else
        let T := tr * tr / det - 2
        let lo := (T + sqrtLo (T * T - 4)) / 2
        let hi := (T + sqrtHi (T * T - 4)) / 2
        max 0x3C00 (bounded16 201 (sqrtLo lo) (sqrtHi hi) T)
      aniso * 2 ^ 16 + area
    | _, _ => Config.anyValue A.num 202 % 2 ^ 32
/-- R307: the depth field. -/
def depthWord (A : BeamCand) (g : Pt) : Nat :=
  let q := qAt A g
  if q ≤ 0 then fmtInf f32 else (roundRatio f32 0 (ratioFrom (1 / q)) false).bits
/-- R325: a record. -/
def fragWords (c : List Nat) (A : BeamCand) (px py : Nat) (cover : Rat) (g : Pt) (snap ray : Bool) : List Nat :=
  let nd := coverPair cover
  [px % 2 ^ 15 + py % 2 ^ 15 * 2 ^ 15 + (if snap then 2 ^ 30 else 0) + (if ray then 2 ^ 31 else 0), A.prim, A.word10, nd.1, nd.2, depthWord A g,
   centroid16 (g.y - (py : Int)) * 2 ^ 16 + centroid16 (g.x - (px : Int)), footWord c A g]
/-- R309. -/
def occWords (d : List Nat) (cover : Rat) : List Nat :=
  let nd := coverPair cover
  [dOX d % 2 ^ 15 + dOY d % 2 ^ 15 * 2 ^ 15, 0xFFFFFFFF, 0, nd.1, nd.2, fmtInf f32, 0, 0]

end Sys2Proof.Machine
end

