-- ==== Sys2Proof/Machine/Regs.lean ====
section
/-!
DEFINITION. Reading and writing the registers of one wave: masks, MODE fields (R86), the window's ring rows (R99, R100), vector, scalar
(R84), mask and threshold registers, the active set and the write mask (R90), and the choices of racy reads and writes (R96).
-/
namespace Sys2Proof.Machine

/-- The mask with bit i set for each i below n that satisfies p. -/
def maskUpTo (p : Nat → Bool) : Nat → Mask
  | 0 => 0
  | n + 1 => if p n then maskUpTo p n ||| (1#128 <<< n) else maskUpTo p n
def maskOf (p : Nat → Bool) : Mask := maskUpTo p 128
def mbit (m : Mask) (i : Nat) : Bool := m.getLsbD i
/-- The set bits of a mask, ascending. -/
def maskList (m : Mask) : List Nat := (List.range 128).filter fun i => mbit m i
def maskLow (w : Nat) : Mask := maskOf fun i => decide (i < w)

/-! MODE (R86, R87). -/
def modeField (m : Lane) (lo n : Nat) : Nat := m.toNat / 2 ^ lo % 2 ^ n
def modeGE (m : Lane) : Bool := m.getLsbD 0
def modeGM (m : Lane) : Nat := modeField m 1 3
def modeGI (m : Lane) : Bool := m.getLsbD 4
def modeET (m : Lane) : Nat := modeField m 5 4
def modeRM (m : Lane) : Nat := modeField m 9 3
def modeSAT (m : Lane) : Bool := m.getLsbD 12
def modeSC (m : Lane) : Nat := modeField m 13 3
def modeAO (m : Lane) : Nat := modeField m 16 4
def modeXD (m : Lane) : Int := signedOf 7 (modeField m 20 7)
def modeTL (m : Lane) : Nat := modeField m 27 3
/-- R87, R88: no reserved value, bits 31:30 zero. -/
def modeLegal (m : Lane) : Bool :=
  decide (modeET m ≤ 10) && decide (modeRM m ≤ 4) && decide (modeAO m ≤ 9) && decide (modeTL m ≤ 5) && modeField m 30 2 == 0

/-! The window (R99, R100). -/
/-- R100: the position of window register n. -/
def posOf (f : Frame) (n : Nat) : Nat := if n < f.nin then f.base + n else f.base + n + 1
/-- R100: the position of the link row. -/
def linkPos (f : Frame) : Nat := f.base + f.nin
/-- R100: one past the last position of the frame. -/
def frameEnd (f : Frame) : Nat := f.base + f.nin + 1 + f.nloc + f.nout
def frameSize (f : Frame) : Nat := f.nin + f.nloc + f.nout
/-- R99: the register row of ring position p. -/
def ringRow (w : Wave) (p : Nat) : Nat := 32 + p % w.win.rows
/-- The register row that a vector register names in a frame. -/
def rowOf (w : Wave) (f : Frame) (r : Nat) : Nat := if r < 32 then r else ringRow w (posOf f (r - 32))
def laneKey (row lane : Nat) : Nat := row * 128 + lane

def rowGet (w : Wave) (row lane : Nat) : Lane := spGet 0 w.regs.vec (laneKey row lane)
/-- R412: the write clears an error of the element. -/
def rowSet (w : Wave) (row lane : Nat) (v : Lane) : Wave :=
  { w with regs := { w.regs with vec := spSet 0 w.regs.vec (laneKey row lane) v, bad := w.regs.bad.filter (· != laneKey row lane) } }
/-- Vector register r of a lane, in frame f. -/
def vget (w : Wave) (f : Frame) (r lane : Nat) : Lane := rowGet w (rowOf w f r) lane

/-- R84: s0 reads zero. -/
def sget (w : Wave) (r : Nat) : Scalar := if r = 0 then 0 else spGet 0 w.regs.sca r
/-- R84: a write to s0 is discarded. -/
def sset (w : Wave) (r : Nat) (v : Scalar) : Wave :=
  if r = 0 then w else { w with regs := { w.regs with sca := spSet 0 w.regs.sca r v } }
def mget (w : Wave) (r : Nat) : Mask := spGet 0 w.regs.msk r
def mset (w : Wave) (r : Nat) (v : Mask) : Wave := { w with regs := { w.regs with msk := spSet 0 w.regs.msk r v } }
/-- R164: level k (1 to 5) of threshold register n. -/
def thGet (w : Wave) (n k : Nat) : Nat := spGet 0 w.regs.th (5 * n + k - 1)
def thSet (w : Wave) (n k v : Nat) : Wave := { w with regs := { w.regs with th := spSet 0 w.regs.th (5 * n + k - 1) v } }
/-- R69: raising sticky flags. -/
def raise (w : Wave) (f : Flags) : Wave := { w with regs := { w.regs with flags := w.regs.flags ||| f } }
/-- R93: the flags of a result that returns; a CWWR on the same clock leaves them set. -/
def landFlags (f : Flags) (w : Wave) : Wave :=
  let w1 := raise w f
  { w1 with tim := { w1.tim with fresh := w1.tim.fresh ||| f } }

/-- Writing one value per lane into a register row, in the lanes of `m` below the width. -/
def setLanes (row : Nat) (m : Mask) (f : Nat → Lane) : Nat → Wave → Wave
  | 0, w => w
  | n + 1, w => if mbit m n then rowSet (setLanes row m f n w) row n (f n) else setLanes row m f n w
def writeRow (w : Wave) (row : Nat) (m : Mask) (f : Nat → Lane) : Wave := setLanes row m f w.width w

/-! Splits and lanes. -/
def emptySplit : Split := {}
def getSplit (w : Wave) (sp : Nat) : Split := w.ctl.splits.getD sp emptySplit
def putSplit (w : Wave) (sp : Nat) (x : Split) : Wave :=
  { w with ctl := { w.ctl with splits := w.ctl.splits.set sp x } }
/-- R33: nesting counter of a lane. -/
def cntGet (w : Wave) (lane : Nat) : Nat := spGet 0 w.ctl.counters lane
def cntSet (w : Wave) (lane v : Nat) : Wave := { w with ctl := { w.ctl with counters := spSet 0 w.ctl.counters lane v } }
/-- `f` applied to the counters of the lanes of a mask. -/
def cntMap (m : Mask) (f : Nat → Nat → Nat) : Nat → Wave → Wave
  | 0, w => w
  | n + 1, w => let w' := cntMap m f n w
                if mbit m n then cntSet w' n (f n (cntGet w n)) else w'
/-- The non-exited lanes of a split. -/
def liveLanes (w : Wave) (sp : Nat) : Mask := (getSplit w sp).lanes &&& ~~~ w.ctl.exited
/-- R90: ACT. -/
def actOf (w : Wave) (sp : Nat) : Mask := maskUpTo (fun i => mbit (liveLanes w sp) i && cntGet w i == 0) w.width
/-- R90: the guard. -/
def guardMask (w : Wave) (mode : Lane) : Mask :=
  if modeGE mode then (if modeGI mode then ~~~ mget w (modeGM mode) else mget w (modeGM mode)) else BitVec.allOnes 128
/-- R90: the write mask. -/
def writeMask (w : Wave) (sp : Nat) : Mask := actOf w sp &&& guardMask w (getSplit w sp).mode

def splitIds : List Nat := [0, 1, 2, 3]
def liveSplits (w : Wave) : List Nat := splitIds.filter fun i => (getSplit w i).valid
/-- The lanes that live splits other than `sp` hold. -/
def otherLanes (w : Wave) (sp : Nat) : Mask := ((liveSplits w).filter (· != sp)).foldl (fun m i => m ||| liveLanes w i) 0
/-- R102: DET of the link at the end of frame f. -/
def frameDetached (w : Wave) (f : Frame) : Bool := (rowGet w (ringRow w (linkPos f)) 2).getLsbD 20

/-! The outstanding-write set (R94 to R97). -/
def outRow (w : Wave) (row : Nat) : Bool := w.out.any fun r => r.rows.contains row
def outSca (w : Wave) (s : Nat) : Bool := s != 0 && w.out.any fun r => r.scalars.contains s

/-- R96: one racy element of a read: the outstanding value or the held one. A value that its unit has not made cannot be read: the old one
is delivered (DESIGN CHOICE, log 13: the event that makes it may come before the read). -/
def raceLane (free : Nat) (r : Result) (vec : Sparse Lane) (key : Nat) : Sparse Lane :=
  if r.known && Config.race free key then spSet 0 vec key (spGet 0 r.vec key) else vec
def raceVec (free : Nat) (w : Wave) (r : Result) : Wave :=
  { w with regs := { w.regs with vec := r.keys.foldl (raceLane free r) w.regs.vec } }
def raceSca (free : Nat) (w : Wave) (r : Result) : Wave :=
  r.sca.foldl (fun w p => if r.known && Config.race free (2 ^ 20 + p.1) then sset w p.1 p.2 else w) w
/-- R96: what the instruction that issues now reads; the wave itself where nothing is outstanding. -/
def raceView (free : Nat) (w : Wave) : Wave :=
  w.out.foldl (fun v r => raceSca free (raceVec free v r) r) w

/-- R412: an element with an uncorrectable error reads as a free value. -/
def badView (free : Nat) (bad : List Nat) (v : Wave) : Wave :=
  { v with regs := { v.regs with vec := bad.foldl (fun m k => spSet 0 m k (BitVec.ofNat 32 (Config.anyValue free (2 ^ 21 + k)))) v.regs.vec } }

/-- R96: a write of the elements `hit` of the set ends in either value: a pending element that loses is dropped from its result. -/
def dropContested (free : Nat) (ids : List Nat) (hit : Nat → Bool) (scalars : List Nat) (r : Result) : Result :=
  let lose (k : Nat) : Bool := hit k && Config.race (free + 1) k
  if ids.contains r.id then
    { r with keys := r.keys.filter (fun k => !lose k),
             sca := r.sca.filter fun p => !(scalars.contains p.1 && Config.race (free + 1) (2 ^ 20 + p.1)) }
  else r
/-- R96: against the results `ids`. -/
def contest (free : Nat) (ids : List Nat) (hit : Nat → Bool) (scalars : List Nat) (w : Wave) : Wave :=
  { w with out := w.out.map (dropContested free ids hit scalars) }
/-- R96, R106, R107: a copy of the window writes rows, in the lanes `m`, that results may be outstanding for. -/
def contestRows (free : Nat) (rows : List Nat) (m : Mask) (w : Wave) : Wave :=
  contest free (w.out.map (·.id)) (fun k => rows.contains (k / 128) && mbit m (k % 128)) [] w

end Sys2Proof.Machine
end

