-- ==== Sys2Proof/Machine/Memory.lean ====
section
/-!
DEFINITION. Memory by physical address at the home agents, the tables of the hub die, event records (R402 to R404) and fault records
(R405, R441).
-/
namespace Sys2Proof.Machine

/-- What a byte of memory that nothing has written reads as (log 3). -/
def memDefault : Byte := 0
/-- The canonical form of memory. -/
abbrev Memory.wf (m : List Host.Cell) : Bool := spWf memDefault m

/-! Little-endian bytes (R10). -/
/-- The number held by a list of bytes. -/
def leNat : List Nat → Nat
  | [] => 0
  | b :: t => b % 256 + 256 * leNat t
/-- The low `n` bytes of a number. -/
def leBytes : Nat → Nat → List Nat
  | 0, _ => []
  | n + 1, x => x % 256 :: leBytes n (x / 256)
/-- The `n` bytes at offset `off` of a record, as a number. -/
def recGet (r : List Nat) (off n : Nat) : Nat := leNat ((r.drop off).take n)
/-- A record with `n` bytes at `off` replaced. -/
def recPut (r : List Nat) (off n x : Nat) : List Nat := r.take off ++ leBytes n x ++ r.drop (off + n)
/-- Bits hi:lo of a number. -/
def bitsOf (x lo n : Nat) : Nat := x / 2 ^ lo % 2 ^ n
def bitOf (x lo : Nat) : Bool := bitsOf x lo 1 == 1
def b2n (b : Bool) : Nat := if b then 1 else 0

/-! Home memory. -/
/-- R423: an address whose byte is read under another key than it was stored under. -/
def veilOn (pa : Nat) (v : Veil) : Bool := decide (v.base ≤ pa) && decide (pa < v.base + v.size) && !v.clear.contains (pa / 128)
/-- The 128 bytes stored for a line, the unit of a key (R423), as a number. -/
def rawLine (m : Sparse Byte) (line : Nat) : Nat := leNat ((List.range 128).map fun j => (spGet memDefault m (line * 128 + j)).toNat)
/-- The byte that an agent reads at home. -/
def homeByte (s : State) (pa : Nat) : Byte := match s.dev.veils.find? (veilOn pa) with
  | some v => Config.keyByte v.key pa (rawLine s.dev.mem (pa / 128))
  | none => spGet memDefault s.dev.mem pa
def homeBytes (s : State) (pa n : Nat) : List Nat := (List.range n).map fun j => (homeByte s (pa + j)).toNat
def homeNat (s : State) (pa n : Nat) : Nat := leNat (homeBytes s pa n)

/-- A line without the clean bytes of a mask (R202: a write at home leaves no stale clean copy in a cache way). -/
def dropClean (m : Mask) (l : Line) : Line :=
  { l with valid := l.valid &&& (~~~ m ||| l.dirty), bad := l.bad && (l.valid &&& (~~~ m ||| l.dirty)) != 0 }
def sliceForget (line : Nat) (m : Mask) (c : Cluster) : Cluster :=
  { c with lines := c.lines.map fun l => if l.line = line then dropClean m l else l }

def veilMeets (line : Nat) (v : Veil) : Bool :=
  decide (v.base < line * 128 + 128) && decide (line * 128 < v.base + v.size) && !v.clear.contains line
/-- `n` elements written from `base` on. -/
def fillFrom (g : Nat → Byte) (base n : Nat) (m : Sparse Byte) : Sparse Byte :=
  (List.range n).foldl (fun m j => spSet memDefault m (base + j) (g j)) m
/-- R423: a line of a region whose key has changed, before a write: its bytes as they read are what is stored from then on. -/
def openLine (s : State) (line : Nat) : State :=
  if s.dev.veils.any (veilMeets line) then
    { s with dev := { s.dev with
      mem := fillFrom (fun j => homeByte s (line * 128 + j)) (line * 128) 128 s.dev.mem
      veils := s.dev.veils.map fun v => if veilMeets line v then { v with clear := line :: v.clear } else v } }
  else s
/-- The byte of one line at home, in a line that no key hides, with the copies in cache ways forgotten. -/
def plainPut (s : State) (pa : Nat) (b : Nat) : State :=
  { s with
    dev := { s.dev with mem := spSet memDefault s.dev.mem pa (BitVec.ofNat 8 b) }
    clusters := tbMap (fun _ c => sliceForget (pa / 128) (1#128 <<< (pa % 128)) c) s.clusters }
def homePut (s : State) (pa : Nat) (b : Nat) : State := plainPut (openLine s (pa / 128)) pa b
/-- Bytes written one after another from `pa` on. -/
def putRun (put : State → Nat → Nat → State) (s : State) (pa : Nat) : List Nat → State
  | [] => s
  | b :: t => putRun put (put s pa b) (pa + 1) t
/-- Bytes written at home from `pa` on. Where no key has ever changed no line needs opening. -/
def homeWrite (s : State) (pa : Nat) (bytes : List Nat) : State :=
  if s.dev.veils.isEmpty then putRun plainPut s pa bytes else putRun homePut s pa bytes

/-- R211: a write of all 128 bytes of a line clears its poison. -/
def clearPoison (s : State) (line : Nat) : State :=
  { s with dev := { s.dev with poison := s.dev.poison.filter (· != line) } }
def addPoison (s : State) (line : Nat) : State :=
  if s.dev.poison.contains line then s else { s with dev := { s.dev with poison := line :: s.dev.poison } }
def isPoisoned (s : State) (line : Nat) : Bool := s.dev.poison.contains line

/-! Records by handle. -/
def waveAt (s : State) (k : Nat) : Wave := tbGet {} s.waves k
def groupAt (s : State) (k : Nat) : Group := tbGet {} s.groups k
def launchAt (s : State) (k : Nat) : Launch := tbGet {} s.launches k
def quarterAt (s : State) (k : Nat) : Quarter := tbGet {} s.quarters k
def coreAt (s : State) (k : Nat) : Core := tbGet {} s.cores k
def clusterAt (s : State) (k : Nat) : Cluster := tbGet {} s.clusters k
def islandAt (s : State) (k : Nat) : Island := tbGet {} s.islands k
def putWave (s : State) (k : Nat) (w : Wave) : State := { s with waves := tbPut s.waves k w }
def putGroup (s : State) (k : Nat) (g : Group) : State := { s with groups := tbPut s.groups k g }
def putLaunch (s : State) (k : Nat) (l : Launch) : State := { s with launches := tbPut s.launches k l }
def putQuarter (s : State) (k : Nat) (q : Quarter) : State := { s with quarters := tbPut s.quarters k q }
def putCore (s : State) (k : Nat) (c : Core) : State := { s with cores := tbPut s.cores k c }
def putCluster (s : State) (k : Nat) (c : Cluster) : State := { s with clusters := tbPut s.clusters k c }
def putIsland (s : State) (k : Nat) (i : Island) : State := { s with islands := tbPut s.islands k i }
def putDev (s : State) (d : Device) : State := { s with dev := d }

/-- R14: device-wide numbers. -/
def coreOf (w : Wave) : Nat := w.quarter / 4
def clusterOf (w : Wave) : Nat := w.quarter / 32
def launchOf (s : State) (w : Wave) : Launch := launchAt s (groupAt s w.group).launch
def islandOf (s : State) (w : Wave) : Nat := (launchOf s w).island

/-! The launch block (R355 to R357). -/
def lbCtl (l : Launch) : Nat := recGet l.block 0 4
def lbPriv (l : Launch) : Bool := bitOf (lbCtl l) 4
def lbWayCfg (l : Launch) : Bool := bitOf (lbCtl l) 5
def lbAcc (l : Launch) : Bool := bitOf (lbCtl l) 6
def lbPin (l : Launch) : Bool := bitOf (lbCtl l) 11
def lbX (l : Launch) : Nat := bitsOf (recGet l.block 8 8) 0 21
def lbY (l : Launch) : Nat := bitsOf (recGet l.block 8 8) 21 21
def lbZ (l : Launch) : Nat := bitsOf (recGet l.block 8 8) 42 21
/-- R52: a wave is privileged when its launch block has the flag. -/
def privileged (s : State) (w : Wave) : Bool := lbPriv (launchOf s w)

/-! The island table entry (R361). -/
def islClusters (i : Island) : Nat := recGet i.entry 0 4
def islClass (i : Island) : Nat := bitsOf (recGet i.entry 4 4) 0 2
def islSealed (i : Island) : Bool := bitOf (recGet i.entry 4 4) 2
def islPrivQ (i : Island) : Bool := bitOf (recGet i.entry 4 4) 3
def islValid (i : Island) : Bool := bitOf (recGet i.entry 4 4) 4
def islAsid (i : Island) : Nat := bitsOf (recGet i.entry 4 4) 16 16
def islRoot (i : Island) : Nat := recGet i.entry 8 8
def islCarve (i : Island) : Nat × Nat := (recGet i.entry 16 8, recGet i.entry 24 8)
def islFbase (i : Island) : Nat := recGet i.entry 32 8
def islQueueBase (i : Island) (c : Nat) : Nat := recGet i.entry (40 + 8 * c) 8 / 4096 * 4096
def islQueueLog (i : Island) (c : Nat) : Nat := recGet i.entry (40 + 8 * c) 8 % 32
def islFqBase (i : Island) : Nat := recGet i.entry 64 8 / 4096 * 4096
def islFqLog (i : Island) : Nat := recGet i.entry 64 8 % 16

/-! Event records (R402 to R404, R418). -/
/-- R404: kinds whose records wait for space. -/
def evWaits (kind : Nat) : Bool := kind == 1 || kind == 9 || kind == 11 || kind == 12

/-- R418: an MSI-X vector posted when q4 goes from empty to non-empty. -/
def evInterrupt (s : State) (isl : Nat) : State :=
  let i := islandAt s isl
  if bitOf i.evqint 15 then putDev s { s.dev with msix := s.dev.msix ++ [bitsOf i.evqint 0 11] } else s

/-- R404: a record is placed, waits, or is dropped and counted. -/
def placeEvent (s : State) (isl : Nat) (r : EvRec) : State :=
  let i := islandAt s isl
  let r := { r with clock := s.dev.cycle % 2 ^ 32 }
  if i.q4.length < 256 && i.q4wait.isEmpty then
    let s' := putIsland s isl { i with q4 := i.q4 ++ [r] }
    if i.q4.isEmpty then evInterrupt s' isl else s'
  else if evWaits r.kind then putIsland s isl { i with q4wait := i.q4wait ++ [r] }
  else putIsland s isl { i with lost := (i.lost + 1) % 2 ^ 64 }

/-- R404, R402, R211: records leave the head of q4, and records that wait are placed in the room, with the clock; a poisoned write is then
reported. -/
def popEvents (s : State) (isl n : Nat) : State :=
  let i := islandAt s isl
  let rest := i.q4.drop n
  let come := (i.q4wait.take (256 - rest.length)).map fun r => { r with clock := s.dev.cycle % 2 ^ 32 }
  let told := come.filterMap fun r => if r.kind = 9 then some (r.addr / 128) else none
  let s1 := putDev s { s.dev with unreported := s.dev.unreported.filter fun p => !(p.2 == isl && told.contains p.1) }
  putIsland s1 isl { i with q4 := rest ++ come, q4wait := i.q4wait.drop (256 - rest.length) }

/-- R402: the eight words of a record. -/
def evWords (isl : Nat) (r : EvRec) : List Nat :=
  [r.kind % 256 + r.cause % 256 * 2 ^ 8 + isl % 8 * 2 ^ 16, r.who, r.addr % 2 ^ 32, r.addr / 2 ^ 32 % 2 ^ 32,
   r.aux % 2 ^ 32, r.aux / 2 ^ 32 % 2 ^ 32, r.aux2 % 2 ^ 32, r.clock]

/-- R402, R405: split 16:15, wave 14:10, quarter 9:8, core 7:0. -/
def whoWord (w : Wave) (sp : Nat) : Nat :=
  w.quarter / 4 % 256 + w.quarter % 4 * 2 ^ 8 + w.num % 32 * 2 ^ 10 + sp % 4 * 2 ^ 15

/-! Fault records (R405, R441). -/
structure FaultInfo where
  code : Nat
  inner : Nat := 0
  who : Nat := 0
  addr : Nat := 0
  /-- cw.taddr of the faulting wave (R345). -/
  taddr : Nat := 0
  pc : Nat := 0
  trans : Nat := 0
  lanes : Mask := 0
  rows : Nat := 0
  block : Nat := 0
  deriving DecidableEq, Repr

def faultBytes (s : State) (isl : Nat) (seq : Nat) (f : FaultInfo) : List Nat :=
  leBytes 4 (f.code + f.inner * 2 ^ 8) ++ leBytes 4 (f.who + isl * 2 ^ 24) ++ leBytes 8 f.addr ++ leBytes 8 f.pc ++
  leBytes 4 1 ++ leBytes 4 seq ++ leBytes 8 f.trans ++ leBytes 16 f.lanes.toNat ++ leBytes 16 f.rows ++ leBytes 8 f.block ++
  leBytes 8 s.dev.cycle ++ List.replicate 936 0

/-- R362: slots of the fault queue in use, and its size. -/
def fqUsed (i : Island) : Nat := (i.fqTail + 2 ^ 32 - i.fqHead) % 2 ^ 32
def fqSize (i : Island) : Nat := 2 ^ islFqLog i

/-- R362: the slot of the record with this index. -/
def fqSlot (i : Island) (idx : Nat) : Nat := idx % fqSize i
/-- R211: the lines from an address on, that a write covers whole, are free of poison. -/
def clearLines (pa n : Nat) (s : State) : State := (List.range (n / 128)).foldl (fun s k => clearPoison s (pa / 128 + k)) s
/-- R362, R405: the record takes the next slot; a full queue delays its bytes until HEAD moves. Answers the record's index modulo 2^32. -/
def putFaultSlot (s : State) (isl : Nat) (bytes : List Nat) : State × Nat :=
  let i := islandAt s isl
  let idx := (i.fqTail + i.fqWait.length) % 2 ^ 32
  if i.fqWait.isEmpty && fqUsed i < fqSize i then
    (clearLines (islFqBase i + 1024 * fqSlot i idx) bytes.length
      (homeWrite (putIsland s isl { i with fqTail := (i.fqTail + 1) % 2 ^ 32 }) (islFqBase i + 1024 * fqSlot i idx) bytes), idx)
  else (putIsland s isl { i with fqWait := i.fqWait ++ [bytes] }, idx)

/-- R404: q4 takes the next record at once. -/
def q4Room (i : Island) : Bool := decide (i.q4.length < 256) && i.q4wait.isEmpty
/-- R404, R405: a fault record without its event, whose record is placed beside it: where q4 is full, both wait. -/
def placeFaultQuiet (s : State) (isl : Nat) (f : FaultInfo) : State × Nat :=
  let i := islandAt s isl
  let s1 := putIsland s isl { i with fqSeq := (i.fqSeq + 1) % 2 ^ 32 }
  let b := faultBytes s1 isl ((i.fqSeq + 1) % 2 ^ 32) f
  if q4Room i then putFaultSlot s1 isl b
  else
    let j := islandAt s1 isl
    (putIsland s1 isl { j with fqWait := j.fqWait ++ [b] }, (i.fqTail + i.fqWait.length) % 2 ^ 32)
/-- R404: the fault records whose events wait; they are the last of fqWait. -/
def heldFaults (i : Island) : Nat := (i.q4wait.filter fun r => r.kind == 1 || r.kind == 12).length
/-- R362, R404: the oldest fault record that waits may be placed. -/
def fillDue (i : Island) : Bool := decide (heldFaults i < i.fqWait.length) && decide (fqUsed i < fqSize i)
/-- R362, R404, R405: records that wait take the slots that are free; byte 80 holds the clock of their placement. -/
def fillFaultQueue (isl : Nat) : Nat → State → State
  | 0, s => s
  | fuel + 1, s =>
    let i := islandAt s isl
    match i.fqWait with
    | [] => s
    | b :: rest =>
      if fillDue i then
        let s1 := (putFaultSlot (putIsland s isl { i with fqWait := [] }) isl (recPut b 80 8 s.dev.cycle)).1
        fillFaultQueue isl fuel (putIsland s1 isl { islandAt s1 isl with fqWait := rest })
      else s

/-- R403, R405: a fault record and its event of kind 1. -/
def placeFault (s : State) (isl : Nat) (f : FaultInfo) : State × Nat :=
  let (s1, slot) := placeFaultQuiet s isl f
  (placeEvent s1 isl { kind := 1, cause := f.code, who := f.who, addr := f.addr, aux := fqSlot (islandAt s isl) slot }, slot)

/-- R406: a fault record that waits for a verdict. -/
def placeWaiting (s : State) (isl : Nat) (f : FaultInfo) : State × Nat :=
  let (s1, slot) := placeFault s isl f
  let i := islandAt s1 isl
  (putIsland s1 isl { i with pending := { slot := slot, addr := f.addr, trans := f.trans } :: i.pending.filter (fun p => p.slot != slot) }, slot)

/-- R354: the translation word. -/
def transWord (agent access reason level : Nat) : Nat := agent * 2 ^ 12 + access * 2 ^ 8 + reason * 2 ^ 4 + level

end Sys2Proof.Machine
end

