-- ==== Sys2Proof/Machine/Splits.lean ====
section
/-!
DEFINITION. Splits of a wave (R31, R363): new splits, fusion (R374), release at MERGE (R373), respawn of leftover lanes (R375), the gather
of a collective instruction (R376), ending a split (R377), and the liveness of frame records (R101, R119).
-/
namespace Sys2Proof.Machine

/-- R44: addresses of instructions are 57 bits. -/
def pcWrap (x : Int) : Nat := wrapTo 57 x
def pcNext (pc : Nat) : Nat := (pc + 4) % 2 ^ 57

/-- R101: the link positions from `link` up the caller chain. -/
def chainFrom (recs : List FrameRec) : Nat → Nat → List Nat
  | 0, _ => []
  | fuel + 1, link =>
    match recs.find? fun r => r.link = link with
    | none => [link]
    | some r => match r.caller with
      | none => [link]
      | some c => link :: chainFrom recs fuel c

/-- R101, R119: which records are live. -/
def refreshLive (w : Wave) : Wave :=
  let chains := (liveSplits w).flatMap fun i => chainFrom w.win.records (w.win.records.length + 1) (linkPos (getSplit w i).frame)
  { w with win := { w.win with records := w.win.records.map fun r => { r with live := chains.contains r.link } } }

/-- The lowest free split entry (R371). -/
def freeEntry (w : Wave) : Option Nat := splitIds.find? fun i => !(getSplit w i).valid
def freeEntries (w : Wave) : Nat := (splitIds.filter fun i => !(getSplit w i).valid).length

/-- R399: an open region closes; cw.regcnt is kept. -/
def closeRegion (x : Split) : Split := { x with region := { x.region with isOpen := false, filter := [] } }

/-- R371: a new split copies MODE and frame; no record, no region, retry 0. -/
def newSplitOf (x : Split) (lanes : Mask) (pc : Nat) : Split :=
  { valid := true, pc := pc, lanes := lanes, mode := x.mode, frame := x.frame }

/-- R370: `lanes` leave split `sp` for a new split at `pc`. -/
def splitOff (w : Wave) (sp : Nat) (lanes : Mask) (pc : Nat) : Wave :=
  match freeEntry w with
  | none => w
  | some e =>
    let x := getSplit w sp
    putSplit (putSplit w sp { x with lanes := x.lanes &&& ~~~ lanes }) e (newSplitOf x lanes pc)

/-- R374: whether two released splits may fuse. -/
def sameClass (a b : Split) : Bool := a.pc == b.pc && a.frame.base == b.frame.base && a.mode == b.mode

/-- R374, R118: split b joins split a. The frame that they share may then end above the ring top, or within the rows of a later record: the top
stays, and the split waits for no room, as the spec asks for neither (DESIGN CHOICE, log 31). -/
def fuseTwo (a b : Split) : Split :=
  { closeRegion a with
    lanes := a.lanes ||| b.lanes,
    frame := { a.frame with nloc := max a.frame.nloc b.frame.nloc, nout := max a.frame.nout b.frame.nout },
    leftover := if a.leftover.held then a.leftover else b.leftover,
    retry := false }

/-- R374: the released splits `ids` after `i` that may fuse into `i`, one at a time; a second holder of a record stays apart. -/
def fuseInto (w : Wave) (i : Nat) : List Nat → Wave
  | [] => w
  | j :: rest =>
    let a := getSplit w i
    let b := getSplit w j
    if a.valid && b.valid && sameClass a b && !(a.leftover.held && b.leftover.held) then
      fuseInto (putSplit (putSplit w i (fuseTwo a b)) j emptySplit) i rest
    else fuseInto w i rest

/-- R374: the lowest-numbered holder of a class joins first; the others follow in order. -/
def fuseAll : List Nat → Wave → Wave
  | [], w => w
  | i :: rest, w =>
    let holders := rest.filter fun j => (getSplit w j).leftover.held
    let others := rest.filter fun j => !(getSplit w j).leftover.held
    fuseAll rest (if (getSplit w i).valid then fuseInto w i (holders ++ others) else w)

/-- R374: the split that holds, in `w1`, the lanes that split i held in `w`. -/
def fusedInto (w w1 : Wave) (ids : List Nat) (i : Nat) : Nat :=
  (ids.find? fun j => (getSplit w1 j).valid && (getSplit w1 j).lanes &&& (getSplit w i).lanes != 0).getD i
/-- R374: the splits of `ids` that share their PC with another of them that they did not fuse with, from `w` to `w1`; a split that stays parked
(`stay`) is not released. -/
def apartCount (w w1 : Wave) (stay : Split → Bool) (ids : List Nat) : Nat :=
  let out := ids.filter fun i => !stay (getSplit w1 (fusedInto w w1 ids i))
  (out.filter fun i => out.any fun j => (getSplit w j).pc == (getSplit w i).pc && fusedInto w w1 ids j != fusedInto w w1 ids i).length

/-- R375: a JMPX leftover keeps its holder parked. -/
def jmpxHolder (x : Split) : Bool := x.leftover.held && x.leftover.kind == 0

def unparked (x : Split) : Split := { x with park := {} }
def restartPark (x : Split) : Split := { x with park := { x.park with clocks := 0, due := true } }
/-- The instruction at the split's PC is over. -/
def stepPast (x : Split) : Split := { unparked x with pc := pcNext x.pc }

/-- A function on each split of a list. -/
def mapSplits (f : Split → Split) (ids : List Nat) (w : Wave) : Wave := ids.foldl (fun w i => putSplit w i (f (getSplit w i))) w

/-- R373 to R375: every MERGE-parked split is released, fuses, and goes on unless it holds a JMPX leftover. Also the splits left apart. -/
def releaseMerge (w : Wave) : Wave × Nat :=
  let ids := (liveSplits w).filter fun i => (getSplit w i).park.kind == .merge
  let w1 := fuseAll ids w
  let live := ids.filter fun i => (getSplit w1 i).valid
  (refreshLive (mapSplits (fun x => if jmpxHolder x then restartPark x else stepPast x) live w1), apartCount w w1 jmpxHolder ids)

/-- R373: every live split is parked at a MERGE. -/
def allMerged (w : Wave) : Bool := (liveSplits w).all fun i => (getSplit w i).park.kind == .merge
/-- R373, R375: some split has been parked for WAIT resident clocks; a parked time that has restarted counts one clock at least. -/
def mergeExpired (w : Wave) : Bool :=
  (liveSplits w).any fun i =>
    let p := (getSplit w i).park
    p.kind == .merge && decide ((if p.due then max w.ctl.mergewait 1 else w.ctl.mergewait) ≤ p.clocks)

/-- R375: the leftover lanes of `sp` leave it as a new split at LADDR, their counters lowered to 0. -/
def respawn (w : Wave) (sp : Nat) : Wave :=
  let x := getSplit w sp
  let w1 := splitOff w sp (x.leftover.lanes &&& x.lanes) x.leftover.addr
  let y := getSplit w1 sp
  cntMap (x.leftover.lanes &&& x.lanes) (fun _ _ => 0) 128 (putSplit w1 sp { closeRegion y with leftover := {} })

/-- R363: split `sp` parks; `since` orders the parks of the wave, and stays for a split that comes back to its collective instruction. -/
def parkSplit (w : Wave) (sp : Nat) (k : ParkKind) : Wave :=
  let x := getSplit w sp
  let w1 := putSplit w sp { x with park := { kind := k, since := if x.park.back then x.park.since else w.ctl.parks, clocks := 0 } }
  { w1 with ctl := { w1.ctl with parks := w1.ctl.parks + 1 } }

/-- R376: every live split is parked at the collective instruction at `pc`. -/
def gathered (w : Wave) (pc : Nat) : Bool :=
  (liveSplits w).all fun i => (getSplit w i).park.kind == .collective && (getSplit w i).pc == pc

/-- R376: the outcome of reaching a collective instruction. -/
inductive Gather where
  /-- The instruction does not execute yet. -/
  | waits (w : Wave)
  /-- The lowest split executes it once for the wave; the others stay parked until it is done. -/
  | runs (w : Wave) (sp : Nat)
  deriving DecidableEq, Repr

/-- R376: split `sp` reaches a collective instruction. Also the splits left apart, where the instruction executes. Where splits of different MODE or
frame stay apart, the instruction uses those of the lowest live split for every lane: R215, R252 and R277 do not say which (DESIGN CHOICE, log 16). -/
def gather (w : Wave) (sp : Nat) : Gather × Nat :=
  let pc := (getSplit w sp).pc
  let w1 := parkSplit w sp .collective
  if gathered w1 pc then
    let ids := liveSplits w1
    let w2 := fuseAll ids w1
    let live := liveSplits w2
    if live.any fun i => jmpxHolder (getSplit w2 i) then
      (.waits (mapSplits (fun x => if jmpxHolder x then restartPark x else x) live w2), 0)
    else
      let lead := live.headD sp
      (.runs (putSplit w2 lead (unparked (getSplit w2 lead))) lead, apartCount w1 w2 (fun _ => false) ids)
  else (.waits w1, 0)

/-- R376: the splits of the wave that take part in the collective instruction of `sp` go on. -/
def stepCollective (w : Wave) (sp : Nat) : Wave :=
  let pc := (getSplit w sp).pc
  mapSplits stepPast ((liveSplits w).filter fun i => i == sp || ((getSplit w i).park.kind == .collective && (getSplit w i).pc == pc)) w

/-- R373, R375: a release can occur: a split at a MERGE that holds no JMPX leftover is released in time, unless a handler holds it, when its time
stands (R395); and the leftover lanes of a holder leave it where an entry is free, from a MERGE or from a collective that every live split has
reached. -/
def mayRelease (w : Wave) : Bool :=
  (liveSplits w).any fun i =>
    let x := getSplit w i
    if x.park.kind = .merge then (!jmpxHolder x && !x.held) || (jmpxHolder x && (freeEntry w).isSome)
    else jmpxHolder x && gathered w x.pc && (freeEntry w).isSome
/-- R376: every live split is parked, one of them at a collective instruction, and none can be released. -/
def collectiveStuck (w : Wave) : Option Nat :=
  let live := liveSplits w
  if (live.all fun i => (getSplit w i).park.kind == .collective || (getSplit w i).park.kind == .merge) && !mayRelease w then
    minBy (fun i => (getSplit w i).park.since) (live.filter fun i => (getSplit w i).park.kind == .collective)
  else none

/-- R107, R110, R119: dead records at the ring top are popped; the list is ascending by start. -/
def popDeadFrom : List FrameRec → Nat → List FrameRec × Nat
  | [], top => ([], top)
  | r :: rest, top => if r.live then (r :: rest, top) else popDeadFrom rest r.start
def popDead (w : Wave) : Wave :=
  let (rs, top) := popDeadFrom w.win.records.reverse w.win.top
  { w with win := { w.win with records := rs.reverse, top := top } }

/-- R377: lanes exit; a split left with none ends. While its record stays live the ring top stays, though no other split's frame may reach so far:
the spec lowers the top at FRAME only (R105; DESIGN CHOICE, log 31). The last split of a wave leaves the window and its control words as they are,
as the final state of R432 shows. -/
def exitLanes (w : Wave) (sp : Nat) (m : Mask) : Wave :=
  let x := getSplit w sp
  let w1 : Wave := { w with ctl := { w.ctl with exited := w.ctl.exited ||| m } }
  let rest := x.lanes &&& ~~~ m
  if rest ≠ 0 then putSplit w1 sp { x with lanes := rest }
  else if (liveSplits w).any (· != sp) then popDead (refreshLive (putSplit w1 sp emptySplit))
  else putSplit w1 sp { closeRegion x with valid := false, lanes := 0 }

end Sys2Proof.Machine
end

