-- ==== Sys2Proof/Machine/Ops.lean ====
section
/-!
DEFINITION. The operations that every instruction shares: leaving slots (R27, R244), ending waves and groups, barriers completing (R382),
ending a launch with a fault (R395, R345), taking a trap (R395) and returning from one (R396), the checks at issue (R53, R97, R112, R367),
and what follows an instruction's own effect (R95).
-/
namespace Sys2Proof.Machine

/-! Slots. -/
/-- R27: the slots of a wave fall vacant. -/
def vacate (wv : Nat) (q : Quarter) : Quarter :=
  { q with slots := q.slots.map fun h => match h with
      | none => none
      | some x => if x.wave = wv then none else some x }
def holdOf (q : Quarter) (wv : Nat) : Option SlotHold := q.slots.findSome? fun h => match h with
  | none => none
  | some x => if x.wave = wv then some x else none
/-- R27, R28, R244: a wave leaves its slots for the pending set after the last pass of its instruction, and that clock is its age; the slots of the
passes that are still to issue are not granted before (Quarter.passEnd). A pinned wave keeps them. -/
def leaveSlots (s : State) (wv : Nat) : State :=
  let w := waveAt s wv
  let q := quarterAt s w.quarter
  match holdOf q wv with
  | none => s
  | some h =>
    if h.pin then s
    else putWave (putQuarter s w.quarter (vacate wv q)) wv { w with tim := { w.tim with age := max s.dev.cycle (w.tim.passEnd - 1) } }

/-! Ends of waves. -/
/-- Handles of the waves of a group that still live. -/
def liveWaves (s : State) (g : Nat) : List Nat := (groupAt s g).waves.filter fun k => (tbGet? s.waves k).isSome

/-- R382: clearing arrival b of a wave; a wave that waited at b goes on. -/
def clearArrival (b : Nat) (w : Wave) : Wave :=
  let w1 : Wave := { w with tim := { w.tim with pending := w.tim.pending.filter (· != b) } }
  if w.ctl.wait == .barrier b then
    let w2 := stepCollective w1 w.ctl.waitSplit
    { w2 with ctl := { w2.ctl with wait := if w.ctl.markAfter && !w.out.isEmpty then .marker else .no, markAfter := false } }
  else w1

/-- R382: barrier b of a group completes when every live wave has arrived. -/
def barrierCheck (s : State) (g b : Nat) : State :=
  let live := liveWaves s g
  if !live.isEmpty && live.all (fun k => (waveAt s k).tim.pending.contains b) then
    let s1 := live.foldl (fun s k => putWave s k (clearArrival b (waveAt s k))) s
    let gr := groupAt s1 g
    putGroup s1 g { gr with phases := gr.phases.set b (!(gr.phases.getD b false)) }
  else s

def barrierIds : List Nat := List.range 16

/-- R83, R377: a wave leaves its slots and the machine; what its registers and control words hold stays, until their rows are granted again. -/
def retire (s : State) (wv : Nat) : State := match tbGet? s.waves wv with
  | none => s
  | some w =>
    let s1 := putQuarter s w.quarter (vacate wv (quarterAt s w.quarter))
    { s1 with waves := tbErase s1.waves wv, ended := tbPut s1.ended wv w }
/-- R403: a poisoned read also leaves an event of kind 10, and a register error one of kind 13. -/
def tellPoison (s : State) (isl who : Nat) (e : Imprecise) : State :=
  if e.kind = 0 then s else placeEvent s isl { kind := e.kind, cause := e.code, who := who, addr := e.addr, aux := e.pc, aux2 := e.aux2 }
/-- R401: the imprecise events that a wave still owes. -/
def owedEvents (w : Wave) : List Imprecise := w.evt.imprecise ++ w.out.flatMap (·.imprecise)
/-- R395, R345, R403: every wave of a group stops at once; what its reads have met is told. -/
def stopWave (s : State) (wv : Nat) : State :=
  let w := waveAt s wv
  retire ((owedEvents w).foldl (fun s e => tellPoison s (islandOf s w) (whoWord w e.split) e) s) wv
def stopWaves (s : State) (g : Nat) : State := (liveWaves s g).foldl stopWave s

/-- R30: rows that a wave takes. -/
def waveRows (w : Wave) : Nat := w.width / 32 * (32 + w.win.rows)
/-- Groups of a launch. -/
def groupsOf (s : State) (l : Nat) : List Nat := (s.groups.filter fun e => e.2.launch == l).map (·.1)

/-- The number of groups of an ordinary launch. -/
def launchTotal (l : Launch) : Nat := lbX l * lbY l * lbZ l

/-- R395, R345, R402, R405: the event that ends a launch (or parks a task) with a fault of this code; a launch ends once. -/
def faultEnd (s : State) (g : Nat) (f : FaultInfo) : State :=
  let gr := groupAt s g
  let l := launchAt s gr.launch
  match gr.node with
  | some n =>
    if n.parked then s else
    let s1 := stopWaves s g
    let i := islandAt s1 l.island
    let held := (liveWaves s g).map fun k => ((waveAt s k).quarter, waveRows (waveAt s k))
    let s2 := putGroup s1 g { gr with node := some { n with blocks := [], parked := true, stopped := held } }
    putIsland s2 l.island { i with parkQ := i.parkQ ++
      [{ group := some g, who := f.who, graph := n.graph, node := n.node, code := f.code, taddr := f.taddr, pc := f.pc, blocks := n.blocks }] }
  | none =>
    if l.fault then (groupsOf s gr.launch).foldl stopWaves s else
    let (s1, slot) := placeFaultQuiet s l.island { f with block := l.addr }
    let s2 := placeEvent s1 l.island { kind := 12, cause := f.code, who := f.who, addr := l.addr, aux := fqSlot (islandAt s l.island) slot }
    let s3 := putLaunch s2 gr.launch { launchAt s2 gr.launch with fault := true, next := launchTotal l }
    (groupsOf s3 gr.launch).foldl stopWaves s3

/-- R377, R382, R401: a wave whose splits have all ended ends, and may complete barriers; an imprecise event that it still owes has no
region left to roll back. -/
def endWave (s : State) (wv : Nat) : State :=
  let w := waveAt s wv
  let s3 := barrierIds.foldl (fun s b => barrierCheck s w.group b) (retire s wv)
  let owed := owedEvents w
  match owed with
  | [] => s3
  | e :: _ =>
    faultEnd (owed.foldl (fun s e => tellPoison s (islandOf s w) (whoWord w e.split) e) s3) w.group
      { code := e.code, who := whoWord w e.split, addr := e.addr, taddr := w.evt.taddr, pc := e.pc, lanes := w.evt.replay }

/-- R209, R211: nothing that a release waits for is outstanding: the wave's commits, and the poisoned writes of its island that wait to be
reported, whichever of its waves made them (log 10). -/
def releaseClear (s : State) (wv : Nat) : Bool :=
  (waveAt s wv).commits == 0 && !(s.dev.unreported.any fun p => p.2 == islandOf s (waveAt s wv))

/-! Traps. -/
/-- R393: cw.cause. -/
def causeWord (mode : Lane) (t : Trap) : Scalar :=
  BitVec.ofNat 64 (mode.toNat * 2 ^ 32 + t.timm * 2 ^ 16 + 2 ^ 15 + t.split * 2 ^ 12 + t.code)
/-- R393: HND. -/
def handlerRuns (w : Wave) : Bool := w.evt.cause.getLsbD 15
def causeSplit (w : Wave) : Nat := bitsOf w.evt.cause.toNat 12 2
def causeMode (w : Wave) : Lane := BitVec.ofNat 32 (w.evt.cause.toNat / 2 ^ 32)

/-- R395: the entry itself, with nothing outstanding. -/
def enterTrap (w : Wave) (t : Trap) : Wave :=
  let x := getSplit w t.split
  let lanes := liveLanes w t.split
  let copy : Sparse Nat := (maskList x.lanes).foldl (fun m i => spSet 0 m i (cntGet w i)) []
  let w1 := cntMap lanes (fun _ _ => 0) 128 w
  let w2 := mapSplits (fun y => if y.valid then { y with held := true } else y) splitIds w1
  let w3 := putSplit w2 t.split { unparked (closeRegion x) with mode := 0, pc := w.evt.trapvec, held := false }
  { w3 with
    ctl := { w3.ctl with wait := .no, markAfter := false, walked := false, srcfg := none }
    evt := { w3.evt with
      cause := causeWord x.mode t, tpc := t.tpc, taddr := t.taddr, handler := copy, handlerLanes := x.lanes,
      replaying := false, refetch := none, pend := none } }

/-- R395: who faulted, for a fault record. -/
def trapFault (w : Wave) (t : Trap) (code : Nat) : FaultInfo :=
  { code := code, inner := t.code, who := whoWord w t.split, addr := t.taddr, taddr := w.evt.taddr, pc := t.tpc, trans := t.trans,
    lanes := w.evt.replay }

/-- R395: a trap taken by split t.split of a wave. Where the outstanding-write set holds entries, the wave waits for it to empty as at a switch
marker; whether it keeps its slots meanwhile the spec does not say, and it leaves them (DESIGN CHOICE, log 16). -/
def takeTrap (s : State) (wv : Nat) (t : Trap) : State :=
  let w := waveAt s wv
  if handlerRuns w then faultEnd s w.group (trapFault w t 0x21)
  else if w.evt.trapvec = 0 then faultEnd s w.group (trapFault w t 0x22)
  else if !w.out.isEmpty then
    leaveSlots (putWave s wv { w with evt := { w.evt with pend := some t }, ctl := { w.ctl with wait := .marker, markAfter := false } }) wv
  else putWave s wv (enterTrap w t)

/-- R396: TRET restores what the entry saved and releases the held splits; what S was parked at in the handler is over. -/
def returnTrap (w : Wave) (sp : Nat) : Wave :=
  let t := causeSplit w
  let lanes := w.evt.handlerLanes &&& liveLanes w t
  let w1 := cntMap lanes (fun i _ => spGet 0 w.evt.handler i) 128 w
  let w2 := mapSplits (fun y => { y with held := false }) splitIds w1
  let w3 := if sp = t then w2 else putSplit w2 sp { getSplit w2 sp with pc := pcNext (getSplit w2 sp).pc }
  let x := getSplit w3 t
  let w4 := if x.valid then putSplit w3 t { unparked x with mode := causeMode w, pc := w.evt.tpc } else w3
  let keep := match w.tim.owed with
    | some (_, pc) => pc == w.evt.tpc
    | none => false
  { w4 with evt := { w4.evt with cause := w4.evt.cause &&& ~~~ (0x8000 : Scalar) },
            tim := { w4.tim with owed := if keep then w4.tim.owed else none } }

/-! Issue. -/
/-- What an instruction reads and writes, and how it issues. -/
structure Usage where
  /-- Vector runs read and written: first register and length. -/
  vr : List (Nat × Nat) := []
  vw : List (Nat × Nat) := []
  /-- Vector runs read in any lane (R155). -/
  far : List (Nat × Nat) := []
  /-- R214, R249: how many registers of a 16-register and of an 8-register block the element type uses; the checks of R53 and R112 take the
  whole block. -/
  blk16 : Nat := 16
  blk8 : Nat := 8
  sr : List Nat := []
  sw : List Nat := []
  /-- R53 orders 2 and 3, as far as MODE decides them. -/
  legal : Bool := true
  /-- R53 order 4. -/
  priv : Bool := false
  /-- R367: executed in skip mode. -/
  skipExec : Bool := false
  /-- R376. -/
  collective : Bool := false
  /-- R399: closes the open region at issue. -/
  closes : Bool := false
  /-- Every lane of the wave writes, whatever the write mask (R215). -/
  allLanes : Bool := false
  /-- ACT writes, whatever the guard (R131). -/
  actLanes : Bool := false
  /-- R183: helper lanes write nothing. -/
  realLanes : Bool := false
  /-- Register rows that CALL, CALLX and RET copy (R106, R107), read or written, beside the named registers. -/
  copied : List Nat := []
  /-- R261: an operation on q2, whose protection trap comes before every check but those of R53. -/
  feed : Bool := false
  deriving DecidableEq, Repr

/-- What the issuing instruction sees. -/
structure Ctx where
  wv : Nat
  sp : Nat
  /-- The registers as the instruction reads them (R96). -/
  view : Wave
  split : Split
  act : Mask
  wm : Mask
  free : Nat
  deriving DecidableEq, Repr

/-- How an instruction's own effect ends. -/
inductive Eff where
  /-- The split goes on at PC + 4. -/
  | done
  /-- The split goes on at an address. -/
  | goto (pc : Nat)
  /-- The effect has set every PC itself. -/
  | moved
  /-- A precise trap at this instruction. -/
  | trap (code timm taddr : Nat)
  /-- A precise trap for a translation that failed, with its translation word (R351, R354). -/
  | denied (code trans taddr : Nat)
  /-- A trap that resumes after this instruction (R394, TRAP). -/
  | trapAfter (code timm : Nat)
  /-- The wave parks; the instruction issues again when the wait ends. -/
  | wait (w : Wait)
  /-- The instruction is over, and the wave then parks. -/
  | doneWait (w : Wait)
  /-- The split parks; its instruction issues again. -/
  | park (k : ParkKind)
  deriving DecidableEq, Repr

/-- The window register numbers of a list of runs. -/
def winRegs (runs : List (Nat × Nat)) : List Nat :=
  runs.flatMap fun p => if p.1 < 32 then [] else (List.range p.2).map fun k => p.1 - 32 + k
def runRows (w : Wave) (f : Frame) (runs : List (Nat × Nat)) : List Nat :=
  runs.flatMap fun p => (List.range p.2).map fun k => rowOf w f (p.1 + k)
/-- R53 order 5. -/
def rangeBad (f : Frame) (u : Usage) : Bool := (winRegs (u.vr ++ u.vw)).any fun n => frameSize f ≤ n
/-- R97, R112: the rows of the named registers; a position below the ring bottom is in no row. -/
def heldRows (w : Wave) (f : Frame) (runs : List (Nat × Nat)) : List Nat :=
  runs.flatMap fun p => ((List.range p.2).filter fun k => decide (p.1 + k < 32) || decide (w.win.bottom ≤ posOf f (p.1 + k - 32))).map fun k =>
    rowOf w f (p.1 + k)
/-- R214, R249: the runs without the registers that the element type leaves alone. -/
def usedRuns (u : Usage) (runs : List (Nat × Nat)) : List (Nat × Nat) :=
  runs.map fun p => (p.1, if p.2 = 16 then min 16 u.blk16 else if p.2 = 8 then min 8 u.blk8 else p.2)
/-- R97; a replay (R195) finds its own result outstanding, and it has passed this check. -/
def strictBad (w : Wave) (f : Frame) (u : Usage) : Bool :=
  w.regs.strict && !w.evt.replaying && ((heldRows w f (usedRuns u (u.vr ++ u.vw)) ++ u.copied).any (outRow w) || (u.sr ++ u.sw).any (outSca w))
/-- R112: the lowest named position below the ring bottom. -/
def refillNeed (w : Wave) (f : Frame) (u : Usage) : Option Nat :=
  minBy id (((winRegs (u.vr ++ u.vw)).map (posOf f)).filter fun p => p < w.win.bottom)

/-- R25, R27: whether every live split of the wave is parked or held. -/
def allParked (w : Wave) : Bool := (liveSplits w).all fun i => (getSplit w i).held || (getSplit w i).park.kind != .no

/-- R27: a wave with a wait, or with every split parked, leaves its slots. -/
def settleSlots (s : State) (wv : Nat) : State :=
  match tbGet? s.waves wv with
  | none => s
  | some w => if w.ctl.wait != .no || allParked w then leaveSlots s wv else s

/-- R95: the switch marker, when the instruction is over. -/
def marker (s : State) (wv : Nat) (y : Bool) : State :=
  match tbGet? s.waves wv with
  | none => s
  | some w => if y && !w.out.isEmpty && w.ctl.wait == .no then putWave s wv { w with ctl := { w.ctl with wait := .marker } } else s

/-- R376: a mismatch takes the collective-mismatch trap. -/
def checkStuck (s : State) (wv : Nat) : State :=
  match tbGet? s.waves wv with
  | none => s
  | some w => match collectiveStuck w with
    | none => s
    | some f => takeTrap s wv { split := f, code := 0x0C, tpc := (getSplit w f).pc }

/-- R105, R111, R116: the live splits that are parked on the window. -/
def roomParks (w : Wave) : List Nat := (liveSplits w).filter fun i => match (getSplit w i).park.kind with
  | .room _ => true
  | .refill _ => true
  | .highest => true
  | .service => true
  | _ => false

/-- Replacing the split's wave record. -/
def onWave (s : State) (wv : Nat) (f : Wave → Wave) : State :=
  match tbGet? s.waves wv with
  | none => s
  | some w => putWave s wv (f w)

/-- What follows the effect of an instruction of split `sp`; `coll` says that it is collective. -/
def finish (s : State) (wv sp : Nat) (y coll : Bool) (e : Eff) : State :=
  match e with
  | .done => settleSlots (marker (onWave s wv fun w => if coll then stepCollective w sp else putSplit w sp (stepPast (getSplit w sp))) wv y) wv
  | .goto pc => settleSlots (marker (onWave s wv fun w => putSplit w sp { unparked (getSplit w sp) with pc := pc }) wv y) wv
  | .moved => settleSlots (marker s wv y) wv
  | .trap code timm taddr => settleSlots (takeTrap s wv { split := sp, code := code, timm := timm, tpc := (getSplit (waveAt s wv) sp).pc, taddr := taddr }) wv
  | .denied code tw taddr => settleSlots (takeTrap s wv { split := sp, code := code, tpc := (getSplit (waveAt s wv) sp).pc, taddr := taddr, trans := tw }) wv
  | .trapAfter code timm => settleSlots (takeTrap s wv { split := sp, code := code, timm := timm, tpc := pcNext (getSplit (waveAt s wv) sp).pc }) wv
  | .wait wt => settleSlots (onWave s wv fun w => { w with ctl := { w.ctl with wait := wt, waitSplit := sp, markAfter := y, again := coll } }) wv
  | .doneWait wt => settleSlots (onWave s wv fun w =>
      let w1 := if coll then stepCollective w sp else putSplit w sp (stepPast (getSplit w sp))
      { w1 with ctl := { w1.ctl with wait := wt, waitSplit := sp, markAfter := y } }) wv
  | .park k => settleSlots (onWave s wv fun w => parkSplit w sp k) wv

/-- Whether an effect completes the instruction. -/
def completes : Eff → Bool
  | .done => true
  | .goto _ => true
  | .moved => true
  | .doneWait _ => true
  | _ => false

/-- The wave as its instruction issues: R399 closes the open region of the split. -/
def openIssue (w : Wave) (sp : Nat) (closes : Bool) : Wave :=
  let w1 := if closes then putSplit w sp (closeRegion (getSplit w sp)) else w
  { w1 with ctl := { w1.ctl with again := false } }

/-- R90: the lanes whose registers an instruction reads; the guard holds back its writes. -/
def readLanes (w : Wave) (sp : Nat) (u : Usage) : Mask :=
  if u.collective || u.allLanes then maskLow w.width &&& ~~~ w.ctl.exited else actOf w sp
/-- R403, R412: the events of the elements with an error that an instruction reads, one for each register row. -/
def badEvents (w : Wave) (sp : Nat) (u : Usage) : List Imprecise :=
  let x := getSplit w sp
  let m := readLanes w sp u
  let hit := w.regs.bad.filter fun k => (runRows w x.frame (usedRuns u u.vr)).contains (k / 128) && mbit m (k % 128) ||
    (runRows w x.frame u.far).contains (k / 128) && decide (k % 128 < w.width)
  (hit.map (· / 128)).eraseDups.map fun r =>
    { split := sp, code := 0x12, kind := 13, pc := x.pc, lanes := m, opened := w.evt.openings, aux2 := w.quarter % 4 * 2 ^ 13 + r }
def tellBad (wv : Nat) (es : List Imprecise) (s : State) : State :=
  onWave s wv fun w => { w with evt := { w.evt with imprecise := w.evt.imprecise ++ es } }

/-- The effect of an instruction that has passed every check. Against the results outstanding before it (R96) stand the elements of the
results that it adds, where it adds any, else the registers that it writes. -/
def runBody (s : State) (wv sp : Nat) (y : Bool) (u : Usage) (body : Ctx → State → State × Eff) : State :=
  let w := waveAt s wv
  let x := getSplit w sp
  let wm := writeMask w sp
  let c : Ctx := { wv := wv, sp := sp, view := badView s.free w.regs.bad (raceView s.free w), split := x, act := actOf w sp, wm := wm, free := s.free }
  let r := body c (putWave { s with free := s.free + 2 } wv (openIssue w sp u.closes))
  let old := w.out.map (·.id)
  let made := ((tbGet? r.1.waves wv).elim [] (·.out)).filter fun q => !old.contains q.id
  let s3 := if w.out.isEmpty then r.1
    else if !made.isEmpty then
      onWave r.1 wv (contest s.free old (fun k => made.any fun q => q.keys.contains k) (made.flatMap fun q => q.sca.map (·.1)))
    else if completes r.2 then
      let m : Mask := if u.allLanes then BitVec.allOnes 128 else if u.actLanes then actOf w sp else if u.realLanes then wm &&& ~~~ w.ctl.helpers else wm
      onWave r.1 wv (contest s.free old (fun k => (runRows w x.frame u.vw).contains (k / 128) && mbit m (k % 128)) u.sw)
    else r.1
  let s4 := if completes r.2 && !w.regs.bad.isEmpty then tellBad wv (badEvents w sp u) s3 else s3
  finish s4 wv sp y u.collective r.2

/-- Whether a split is parked on a transfer of this kind: room needs a spill. -/
def parkedOn (op : Transfer) (x : Split) : Bool := match x.park.kind, op with
  | .room _, .spill => true
  | .refill _, .refill => true
  | _, _ => false
/-- R116: the live splits that are parked on the transfer. -/
def opParks (w : Wave) (op : Transfer) : List Nat := (liveSplits w).filter fun i => parkedOn op (getSplit w i)
/-- R116: no split has been parked on the transfer longer than split x, which issues; one that comes back from its park counts from it. -/
def firstOn (w : Wave) (x : Split) (op : Transfer) : Bool :=
  (opParks w op).all fun i => x.park.back && decide (x.park.since ≤ (getSplit w i).park.since)
/-- R116: the trap of a failed service clears it. -/
def clearFailed (w : Wave) : Wave := match w.win.service with
  | .failed _ _ _ => { w with win := { w.win with service := .clear } }
  | _ => w

/-- R85: the wave's group holds the slots of its quarter. -/
def holdsSlots (s : State) (w : Wave) : Bool := (quarterAt s w.quarter).accHolder == some w.group
/-- R261: the operation on q2 takes the protection trap; its effect does so. -/
def feedDenied (s : State) (w : Wave) (u : Usage) : Bool := u.feed && !holdsSlots s w
/-- R53 orders 4 and 5, R367, R261, R97, R112, then the effect. Where an instruction names both a register of the outstanding-write set and an ins
register below the ring bottom, the trap of R97 comes before the park of R112: the spec gives no order (DESIGN CHOICE, log 13). -/
def issueAt (s : State) (wv sp : Nat) (y : Bool) (u : Usage) (body : Ctx → State → State × Eff) : State :=
  let w := waveAt s wv
  let x := getSplit w sp
  if !u.legal then finish s wv sp y false (.trap 0x01 0 0)
  else if u.priv && !privileged s w then finish s wv sp y false (.trap 0x02 0 0)
  else if rangeBad x.frame u then finish s wv sp y false (.trap 0x05 0 0)
  else if actOf w sp = 0 && !u.skipExec then finish s wv sp false false .done
  else if !feedDenied s w u && strictBad w x.frame u then finish s wv sp y false (.trap 0x0B 0 0)
  else match (if feedDenied s w u then none else refillNeed w x.frame u) with
    | some p => match w.win.service with
      | .failed .refill a t =>
        if firstOn w x .refill then finish (onWave s wv clearFailed) wv sp y false (.denied 0x08 t a)
        else finish s wv sp y false (.park (.refill p))
      | _ => finish s wv sp y false (.park (.refill p))
    | none =>
      if u.collective then
        let (g, apart) := gather w sp
        let c := coreAt s (coreOf w)
        let s := putCore s (coreOf w) { c with apart := (c.apart + (if w.ctl.again then 0 else apart)) % 2 ^ 64 }
        let shut (w : Wave) : Wave := if u.closes then putSplit w sp (closeRegion (getSplit w sp)) else w
        match g with
        | .waits w1 => checkStuck (settleSlots (putWave s wv (shut w1)) wv) wv
        | .runs w1 lead => runBody (putWave s wv (if lead = sp then w1 else shut w1)) wv lead y u body
      else runBody s wv sp y u body

/-- An instruction row: the issuing split is `cur`. -/
def issue (s : State) (y : Bool) (u : Usage) (body : Ctx → State → State × Eff) : Host.Outcome State Fault Refusal :=
  match s.cur with
  | none => .fault .noIssuer
  | some (wv, sp) => .next (issueAt s wv sp y u body)

/-- A body that changes nothing but its own wave. -/
def onRegs (f : Ctx → Wave → Wave) (c : Ctx) (s : State) : State × Eff := (putWave s c.wv (f c (waveAt s c.wv)), .done)

/-- An event row: it always leaves a next state. -/
def event (s : State) : Host.Outcome State Fault Refusal := .next s

end Sys2Proof.Machine
end

