-- ==== Sys2Proof/Machine/Operands.lean ====
section
/-!
DEFINITION. Operand forms: source lanes of cross-lane operands (R46, R155), element types and packed elements (R70, R124, R139),
and the usage of each field shape of R50.
-/
namespace Sys2Proof.Machine

/-! Element types (R70, R87). -/
def etIsFloat (et : Nat) : Bool := et == 4 || et == 5 || et == 6
/-- R124: the integer type of an integer-class instruction. -/
def intType (mode : Lane) : Nat := if etIsFloat (modeET mode) then 0 else modeET mode
def etWidth (et : Nat) : Nat :=
  if et = 2 ∨ et = 3 ∨ et = 5 ∨ et = 6 then 16 else if et = 7 ∨ et = 8 then 8 else if et = 9 ∨ et = 10 then 4 else 32
def etSigned (et : Nat) : Bool := et == 0 || et == 2 || et == 7 || et == 9
/-- R139: the float type of a float-class instruction. -/
def floatType (mode : Lane) : Nat := if etIsFloat (modeET mode) then modeET mode else 4
def etFmt (et : Nat) : Fmt := if et = 5 then f16 else if et = 6 then bf16 else f32
def etCount (et : Nat) : Nat := 32 / etWidth et

/-- Element e of width w (R70). -/
def elemAt (w x e : Nat) : Nat := x / 2 ^ (w * e) % 2 ^ w
/-- The value of an integer element. -/
def elemVal (et x e : Nat) : Int := if etSigned et then signedOf (etWidth et) (elemAt (etWidth et) x e) else elemAt (etWidth et) x e
/-- A 32-bit value with element e of width w replaced. -/
def elemPut (w x e v : Nat) : Nat := x - elemAt w x e * 2 ^ (w * e) + v % 2 ^ w * 2 ^ (w * e)
/-- A value made of n elements. -/
def elemsJoin (w : Nat) (f : Nat → Nat) : Nat → Nat
  | 0 => 0
  | n + 1 => elemsJoin w f n + f n % 2 ^ w * 2 ^ (w * n)
/-- The range of an integer type. -/
def etLo (et : Nat) : Int := if etSigned et then -(2 ^ (etWidth et - 1) : Nat) else 0
def etHi (et : Nat) : Int := if etSigned et then (2 ^ (etWidth et - 1) : Nat) - 1 else (2 ^ etWidth et : Nat) - 1

/-! Links (R102). -/
/-- R102: what a link record holds. -/
structure Link where
  ret : Nat
  frame : Frame
  kind : Nat
  det : Bool
  leftover : Leftover
  deriving DecidableEq, Repr
def linkWord (w : Wave) (pos k : Nat) : Nat := (rowGet w (ringRow w pos) k).toNat
/-- R102: the link row at a position. -/
def readLink (w : Wave) (pos : Nat) : Link :=
  let g (k : Nat) : Nat := linkWord w pos k
  { ret := (g 0 + g 1 * 2 ^ 32) % 2 ^ 57,
    frame := { base := (g 10 + g 11 * 2 ^ 32) % 2 ^ 40, nin := bitsOf (g 2) 0 5, nloc := bitsOf (g 2) 5 6, nout := bitsOf (g 2) 11 5 },
    kind := bitsOf (g 2) 16 2, det := bitOf (g 2) 20,
    leftover := { held := bitOf (g 2) 18, kind := bitsOf (g 2) 19 1,
                  lanes := BitVec.ofNat 128 (g 4 + g 5 * 2 ^ 32 + g 6 * 2 ^ 64 + g 7 * 2 ^ 96), addr := (g 8 + g 9 * 2 ^ 32) % 2 ^ 57 } }

/-! Source lanes. -/
/-- R119: a window register of a detached frame, in a lane of another split: which of the lane's values is read is open. -/
def apartLane (c : Ctx) (r j : Nat) : Bool := decide (32 ≤ r) && mbit (otherLanes c.view c.sp) j && frameDetached c.view c.split.frame
/-- R107: a frame and those that it returns to, innermost first, as far as their link rows are resident. -/
def frameChain (w : Wave) : Nat → Frame → List Frame
  | 0, _ => []
  | n + 1, f =>
    if linkPos f < w.win.bottom then []
    else f :: (if (readLink w (linkPos f)).kind = 0 then [] else frameChain w n (readLink w (linkPos f)).frame)
/-- The frames of a split. -/
def splitChain (w : Wave) (i : Nat) : List Frame := frameChain w w.win.records.length (getSplit w i).frame
/-- R119: the row where lane j holds now what it has as register r, an in, of the detached frame f: in the callee frame that its own split has
of the same caller or, once it has returned, in the caller's outs. -/
def heldRow (w : Wave) (f : Frame) (r j : Nat) : Option Nat :=
  let l := readLink w (linkPos f)
  let own := ((liveSplits w).find? fun i => mbit (liveLanes w i) j).elim [] (splitChain w)
  let sibling (g : Frame) : Bool :=
    let k := readLink w (linkPos g)
    k.det && k.frame.base == l.frame.base && decide (r - 32 < g.nin)
  match own.find? sibling with
  | some g => some (rowOf w g r)
  | none =>
    let out := posOf l.frame (l.frame.nin + l.frame.nloc + (r - 32))
    if w.win.bottom ≤ out then some (ringRow w out) else none
/-- R119: the values that lane j has held as register r of a detached frame f: the copy that the call made in f, which is its value at the
call; what it holds now; and what it has held in between. -/
def apartValues (w : Wave) (f : Frame) (r j : Nat) : List Lane :=
  if r - 32 < f.nin then
    vget w f r j :: ((heldRow w f r j).elim [] fun row => [rowGet w row j]) ++
      ((w.win.held.filter fun e => e.1 == linkPos f && e.2.1 == r && e.2.2.1 == j).map (·.2.2.2))
  else [vget w f r j]
/-- R119: the detached frames of a wave's splits. -/
def detachedFrames (w : Wave) : List Frame := (((liveSplits w).flatMap (splitChain w)).filter (frameDetached w)).eraseDups
/-- R119: the values of wave `old` that its change to `new` has overwritten in the lanes of detached frames. -/
def lostValues (old new : Wave) : List (Nat × Nat × Nat × Lane) :=
  let lanes := maskList ((liveSplits old).foldl (fun m i => m ||| liveLanes old i) 0)
  (detachedFrames old).flatMap fun f => lanes.flatMap fun j => (List.range f.nin).filterMap fun n =>
    (heldRow old f (32 + n) j).bind fun row =>
      if rowGet new row j = rowGet old row j then none else some (linkPos f, 32 + n, j, rowGet old row j)
/-- R119: a wave of several splits keeps what a change of its registers overwrites in detached frames. -/
def noteHeld (old new : Wave) : Wave :=
  if decide ((liveSplits old).length < 2) || old.regs.vec == new.regs.vec then new
  else { new with win := { new.win with held := new.win.held ++ lostValues old new } }
/-- R155, R119: vector register r of source lane j. -/
def laneVal (c : Ctx) (r : Nat) (j : Int) : Lane :=
  if j < 0 ∨ (c.view.width : Int) ≤ j then 0
  else if apartLane c r j.toNat then
    let vs := apartValues c.view c.split.frame r j.toNat
    vs.getD (Config.anyValue c.free (2 ^ 23 + laneKey r j.toNat) % vs.length) 0
  else vget c.view c.split.frame r j.toNat
/-- Vector register r of lane i itself. -/
def vec (c : Ctx) (r : VReg) (i : Nat) : Lane := vget c.view c.split.frame r.val i
def sca (c : Ctx) (r : SReg) : Scalar := sget c.view r.val
/-- R46: the b,k operand of lane i. -/
def bval (c : Ctx) (b : BOp) (i : Nat) : Lane :=
  match b with
  | .vec r => vec c r i
  | .sca r => (sca c r).truncate 32
  | .xlane r => laneVal c r.val ((i : Int) + modeXD c.split.mode)
  | .quad r => laneVal c r.val ((4 * (i / 4) + bitsOf (modeField c.split.mode 20 7) 0 2 : Nat) : Int)

/-! Results. -/
/-- Writing vector register d in the lanes of `m`. -/
def writeVec (c : Ctx) (d : VReg) (m : Mask) (f : Nat → Lane) (w : Wave) : Wave :=
  writeRow w (rowOf w c.split.frame d.val) m f
/-- A lane result with its flags, in the lanes of the write mask (R69, R125, R140). -/
def writeFlagged (c : Ctx) (d : VReg) (f : Nat → Nat × Flags) (w : Wave) : Wave :=
  let lanes := (maskList c.wm).filter (· < w.width)
  raise (writeVec c d c.wm (fun i => BitVec.ofNat 32 (f i).1) w) (lanes.foldl (fun a i => a ||| (f i).2) 0)
/-- R132, R143: mask bits of the write mask. -/
def writeMaskBits (c : Ctx) (d : MReg) (p : Nat → Bool) (w : Wave) : Wave :=
  mset w d.val (maskOf fun i => if mbit c.wm i && decide (i < w.width) then p i else mbit (mget w d.val) i)

/-! Usage of the field shapes (R50). -/
def useB (b : BOp) : Usage :=
  match b with
  | .vec r => { vr := [(r.val, 1)] }
  | .sca r => { sr := [r.val] }
  | .xlane r => { vr := [(r.val, 1)], far := [(r.val, 1)] }
  | .quad r => { vr := [(r.val, 1)], far := [(r.val, 1)] }
/-- d written; a and b read. -/
def useVVB (d a : VReg) (b : BOp) : Usage := { useB b with vr := (a.val, 1) :: (useB b).vr, vw := [(d.val, 1)] }
/-- As useVVB, with d read too. -/
def useAcc (d a : VReg) (b : BOp) : Usage := { useVVB d a b with vr := (d.val, 1) :: (useVVB d a b).vr }
def useVV (d a : VReg) : Usage := { vr := [(a.val, 1)], vw := [(d.val, 1)] }
def useDVV (d a : VReg) : Usage := { vr := [(d.val, 1), (a.val, 1)], vw := [(d.val, 1)] }
/-- A mask is written; a and b read. -/
def useMVB (a : VReg) (b : BOp) : Usage := { useB b with vr := (a.val, 1) :: (useB b).vr }
def useSSS (d a b : SReg) : Usage := { sr := [a.val, b.val], sw := [d.val] }
def useSS (d a : SReg) : Usage := { sr := [a.val], sw := [d.val] }
def useV (d : VReg) : Usage := { vw := [(d.val, 1)] }
def useSw (d : SReg) : Usage := { sw := [d.val] }
def useSr (a : SReg) : Usage := { sr := [a.val] }
def useSV (d : SReg) (a : VReg) : Usage := { vr := [(a.val, 1)], sw := [d.val] }

end Sys2Proof.Machine
end

