-- ==== Sys2Proof/Machine/Flags.lean ====
section
/-!
DEFINITION. Flag computations of integer results (R69, R71): wrapping or clamping an exact element result, with SA.
-/
namespace Sys2Proof.Machine

/-- R71: clamping to lo .. hi; whether it changed the value. -/
def clampTo (lo hi t : Int) : Int × Bool :=
  if t < lo then (lo, true) else if hi < t then (hi, true) else (t, false)

/-- R71: the clamped element, with SA. -/
def satElem (et : Nat) (t : Int) : Nat × Flags :=
  let (v, ch) := clampTo (etLo et) (etHi et) t
  (wrapTo (etWidth et) v, flagIf ch flSA)

/-- R71: the element delivered for an exact result, under MODE.SAT. -/
def intElem (et : Nat) (sat : Bool) (t : Int) : Nat × Flags :=
  if sat then satElem et t else (wrapTo (etWidth et) t, 0)

/-- A packed result: element e from `f e`, with the union of the flags. -/
def packElems (w n : Nat) (f : Nat → Nat × Flags) : Nat × Flags :=
  (elemsJoin w (fun e => (f e).1) n, (List.range n).foldl (fun a e => a ||| (f e).2) 0)

end Sys2Proof.Machine
end

