-- ==== Sys2Proof/Machine/Integer.lean ====
section
/-!
DEFINITION. The vector integer instructions, opcodes 0x01 to 0x22 (06: R124 to R133).
-/
namespace Sys2Proof.Machine

abbrev Result' := Host.Outcome State Fault Refusal

/-- R126: an element-wise operation that wraps or clamps. -/
def arith (c : Ctx) (sat : Bool) (f : Nat → Int → Int → Int → Int) (x y z : Nat) : Nat × Flags :=
  let et := intType c.split.mode
  packElems (etWidth et) (etCount et) fun e => intElem et sat (f et (elemVal et x e) (elemVal et y e) (elemVal et z e))

/-- R126: d := f a b d per element under MODE.SAT. -/
def arithBody (d a : VReg) (b : BOp) (clamps : Bool) (f : Nat → Int → Int → Int → Int) : Ctx → State → State × Eff :=
  onRegs fun c w => writeFlagged c d (fun i =>
    arith c (clamps && modeSAT c.split.mode) f (vec c a i).toNat (bval c b i).toNat (vec c d i).toNat) w

/-- R127: bit by bit over the whole value. -/
def bitBody (d a : VReg) (b : BOp) (f : Lane → Lane → Lane) : Ctx → State → State × Eff :=
  onRegs fun c w => writeVec c d c.wm (fun i => f (vec c a i) (bval c b i)) w
/-- R127: with a sign-extended 9-bit immediate. -/
def bitImmBody (d a : VReg) (m : BitVec 9) (f : Lane → Lane → Lane) : Ctx → State → State × Eff :=
  onRegs fun c w => writeVec c d c.wm (fun i => f (vec c a i) (m.signExtend 32)) w

/-- R128: shift kinds. -/
inductive ShiftOp where
  | left
  | right
  | arith
  deriving DecidableEq, Repr

/-- R128: element x (bits) shifted by n under type et. A count beyond the width clears, clamps or fills; x * 2^n is clamped by its sign. -/
def shiftElem (op : ShiftOp) (et : Nat) (sat : Bool) (x n : Nat) : Nat × Flags :=
  let w := etWidth et
  match op with
  | .left =>
    let v : Int := if etSigned et then signedOf w x else x
    if n < w then intElem et sat (v * (2 ^ n : Nat))
    else if x = 0 then (0, 0)
    else intElem et sat (v * (2 ^ w : Nat))
  | .right => (if n < w then x / 2 ^ n else 0, 0)
  | .arith => (wrapTo w (signedOf w x / (2 ^ (min n (w - 1)) : Nat)), 0)

def shiftBody (op : ShiftOp) (d a : VReg) (cnt : Ctx → Nat → Nat → Nat) : Ctx → State → State × Eff :=
  onRegs fun c w =>
    let et := intType c.split.mode
    writeFlagged c d (fun i => packElems (etWidth et) (etCount et) fun e =>
      shiftElem op et (modeSAT c.split.mode) (elemAt (etWidth et) (vec c a i).toNat e) (cnt c i e)) w
/-- R128: the amount of element e comes from the same element of b, unsigned. -/
def shiftCount (b : BOp) (c : Ctx) (i e : Nat) : Nat := elemAt (etWidth (intType c.split.mode)) (bval c b i).toNat e

/-- R129: position and length of a bit field. -/
def bfPos (b : Lane) : Nat := bitsOf b.toNat 0 5
def bfLen (b : Lane) : Nat := min (bitsOf b.toNat 8 5) (32 - bfPos b)
def bfx (sgn : Bool) (a b : Lane) : Lane :=
  let l := bfLen b
  if l = 0 then 0
  else
    let f := bitsOf a.toNat (bfPos b) l
    if sgn then BitVec.ofInt 32 (signedOf l f) else BitVec.ofNat 32 f
def bfi (d a b : Lane) : Lane :=
  let m := (2 ^ bfLen b - 1) * 2 ^ bfPos b
  (d &&& ~~~ (BitVec.ofNat 32 m)) ||| ((a <<< bfPos b) &&& BitVec.ofNat 32 m)

/-- R130: number of one bits among the low n. -/
def popcount (x : Nat) : Nat → Nat
  | 0 => 0
  | n + 1 => popcount x n + bitsOf x n 1
/-- R130: zero bits above the highest one bit of w bits. -/
def clz (w x : Nat) : Nat := if x = 0 then w else w - 1 - Nat.log2 x
/-- R130: bit k goes to bit w - 1 - k. -/
def brev (w x : Nat) : Nat → Nat
  | 0 => 0
  | n + 1 => brev w x n + bitsOf x n 1 * 2 ^ (w - 1 - n)

/-- An operation on each element's bits, with no flag. -/
def elemBody (d a : VReg) (f : Nat → Nat → Nat) : Ctx → State → State × Eff :=
  onRegs fun c w =>
    let n := etWidth (intType c.split.mode)
    writeVec c d c.wm (fun i => BitVec.ofNat 32 (elemsJoin n (fun e => f n (elemAt n (vec c a i).toNat e)) (32 / n))) w

/-- R132: a comparison of every (or some) element. -/
def icmpBody (d : MReg) (a : VReg) (b : BOp) (all : Bool) (p : Int → Int → Bool) : Ctx → State → State × Eff :=
  onRegs fun c w =>
    let et := intType c.split.mode
    let test (i e : Nat) : Bool := p (elemVal et (vec c a i).toNat e) (elemVal et (bval c b i).toNat e)
    writeMaskBits c d (fun i => if all then (List.range (etCount et)).all (test i) else (List.range (etCount et)).any (test i)) w

def execIadd (y : Bool) (d a : VReg) (b : BOp) (s : State) : Result' :=
  issue s y (useVVB d a b) (arithBody d a b true fun _ x v _ => x + v)
def execIsub (y : Bool) (d a : VReg) (b : BOp) (s : State) : Result' :=
  issue s y (useVVB d a b) (arithBody d a b true fun _ x v _ => x - v)
def execImul (y : Bool) (d a : VReg) (b : BOp) (s : State) : Result' :=
  issue s y (useVVB d a b) (arithBody d a b true fun _ x v _ => x * v)
/-- R126: the high w bits, never clamped. -/
def execImulh (y : Bool) (d a : VReg) (b : BOp) (s : State) : Result' :=
  issue s y (useVVB d a b) (arithBody d a b false fun et x v _ => x * v / (2 ^ etWidth et : Nat))
def execImad (y : Bool) (d a : VReg) (b : BOp) (s : State) : Result' :=
  issue s y (useAcc d a b) (arithBody d a b true fun _ x v z => z + x * v)
def execImin (y : Bool) (d a : VReg) (b : BOp) (s : State) : Result' :=
  issue s y (useVVB d a b) (arithBody d a b false fun _ x v _ => min x v)
def execImax (y : Bool) (d a : VReg) (b : BOp) (s : State) : Result' :=
  issue s y (useVVB d a b) (arithBody d a b false fun _ x v _ => max x v)
/-- R126: the magnitude for the i types, x for the n types. -/
def execIabs (y : Bool) (d a : VReg) (s : State) : Result' :=
  issue s y (useVV d a) (arithBody d a (.vec a) true fun _ x _ _ => x.natAbs)
def execAnd (y : Bool) (d a : VReg) (b : BOp) (s : State) : Result' := issue s y (useVVB d a b) (bitBody d a b fun p q => p &&& q)
def execOr (y : Bool) (d a : VReg) (b : BOp) (s : State) : Result' := issue s y (useVVB d a b) (bitBody d a b fun p q => p ||| q)
def execXor (y : Bool) (d a : VReg) (b : BOp) (s : State) : Result' := issue s y (useVVB d a b) (bitBody d a b fun p q => p ^^^ q)
def execShl (y : Bool) (d a : VReg) (b : BOp) (s : State) : Result' := issue s y (useVVB d a b) (shiftBody .left d a (shiftCount b))
def execShr (y : Bool) (d a : VReg) (b : BOp) (s : State) : Result' := issue s y (useVVB d a b) (shiftBody .right d a (shiftCount b))
def execSra (y : Bool) (d a : VReg) (b : BOp) (s : State) : Result' := issue s y (useVVB d a b) (shiftBody .arith d a (shiftCount b))
def execBfx (y : Bool) (d a : VReg) (b : BOp) (s : State) : Result' :=
  issue s y (useVVB d a b) (onRegs fun c w =>
    writeVec c d c.wm (fun i => bfx (etSigned (intType c.split.mode)) (vec c a i) (bval c b i)) w)
def execBfi (y : Bool) (d a : VReg) (b : BOp) (s : State) : Result' :=
  issue s y (useAcc d a b) (onRegs fun c w => writeVec c d c.wm (fun i => bfi (vec c d i) (vec c a i) (bval c b i)) w)
def execPopc (y : Bool) (d a : VReg) (s : State) : Result' := issue s y (useVV d a) (elemBody d a fun n x => popcount x n)
def execClz (y : Bool) (d a : VReg) (s : State) : Result' := issue s y (useVV d a) (elemBody d a fun n x => clz n x)
def execBrev (y : Bool) (d a : VReg) (s : State) : Result' := issue s y (useVV d a) (elemBody d a fun n x => brev n x n)
/-- R131: the write mask is ACT alone. -/
def execSel (y : Bool) (d a : VReg) (b : BOp) (s : State) : Result' :=
  issue s y { useVVB d a b with actLanes := true } (onRegs fun c w =>
    writeVec c d c.act (fun i => if mbit (mget c.view (modeGM c.split.mode)) i then vec c a i else bval c b i) w)
def execIcmpeq (y : Bool) (d : MReg) (a : VReg) (b : BOp) (s : State) : Result' :=
  issue s y (useMVB a b) (icmpBody d a b true fun p q => decide (p = q))
def execIcmpne (y : Bool) (d : MReg) (a : VReg) (b : BOp) (s : State) : Result' :=
  issue s y (useMVB a b) (icmpBody d a b false fun p q => decide (p ≠ q))
def execIcmplt (y : Bool) (d : MReg) (a : VReg) (b : BOp) (s : State) : Result' :=
  issue s y (useMVB a b) (icmpBody d a b true fun p q => decide (p < q))
def execIcmple (y : Bool) (d : MReg) (a : VReg) (b : BOp) (s : State) : Result' :=
  issue s y (useMVB a b) (icmpBody d a b true fun p q => decide (p ≤ q))
def execMov (y : Bool) (d a : VReg) (s : State) : Result' :=
  issue s y (useVV d a) (onRegs fun c w => writeVec c d c.wm (fun i => vec c a i) w)
def execMovi (y : Bool) (d : VReg) (i : BitVec 16) (s : State) : Result' :=
  issue s y (useV d) (onRegs fun c w => writeVec c d c.wm (fun _ => i.signExtend 32) w)
def execMovih (y : Bool) (d : VReg) (i : BitVec 16) (s : State) : Result' :=
  issue s y (useDVV d d) (onRegs fun c w =>
    writeVec c d c.wm (fun j => (i.zeroExtend 32 <<< (16 : Nat)) ||| (vec c d j &&& 0xFFFF)) w)
def execIaddi (y : Bool) (d a : VReg) (i : BitVec 9) (s : State) : Result' :=
  issue s y (useVV d a) (arithBody d a (.vec a) true fun _ x _ _ => x + i.toInt)
def execShli (y : Bool) (d a : VReg) (n : Fin 32) (s : State) : Result' := issue s y (useVV d a) (shiftBody .left d a fun _ _ _ => n.val)
def execShri (y : Bool) (d a : VReg) (n : Fin 32) (s : State) : Result' := issue s y (useVV d a) (shiftBody .right d a fun _ _ _ => n.val)
def execSrai (y : Bool) (d a : VReg) (n : Fin 32) (s : State) : Result' := issue s y (useVV d a) (shiftBody .arith d a fun _ _ _ => n.val)
def execAndi (y : Bool) (d a : VReg) (i : BitVec 9) (s : State) : Result' := issue s y (useVV d a) (bitImmBody d a i fun p q => p &&& q)
def execOri (y : Bool) (d a : VReg) (i : BitVec 9) (s : State) : Result' := issue s y (useVV d a) (bitImmBody d a i fun p q => p ||| q)
def execXori (y : Bool) (d a : VReg) (i : BitVec 9) (s : State) : Result' := issue s y (useVV d a) (bitImmBody d a i fun p q => p ^^^ q)

end Sys2Proof.Machine
end

