-- ==== Sys2Proof/Machine/FloatInstr.lean ====
section
/-!
DEFINITION. The floating-point and narrow packed instructions, opcodes 0x40 to 0x5E (07: R139 to R152).
-/
namespace Sys2Proof.Machine

/-- R139: an operation on each element of F, under MODE.RM. -/
def floatBody (d a : VReg) (b : BOp) (f : Fmt → Nat → Nat → Nat → Nat → FRes) : Ctx → State → State × Eff :=
  onRegs fun c w =>
    let et := floatType c.split.mode
    let n := etWidth et
    writeFlagged c d (fun i => packElems n (etCount et) fun e =>
      let r := f (etFmt et) (modeRM c.split.mode) (elemAt n (vec c a i).toNat e) (elemAt n (bval c b i).toNat e) (elemAt n (vec c d i).toNat e)
      (r.bits, r.flags)) w

/-- R143: every element (or, for FCMPUN, some element) passes. -/
def fcmpBody (d : MReg) (a : VReg) (b : BOp) (all : Bool) (p : Fmt → Nat → Nat → Bool) : Ctx → State → State × Eff :=
  onRegs fun c w =>
    let et := floatType c.split.mode
    let n := etWidth et
    let test (i e : Nat) : Bool := p (etFmt et) (elemAt n (vec c a i).toNat e) (elemAt n (bval c b i).toNat e)
    writeMaskBits c d (fun i => if all then (List.range (etCount et)).all (test i) else (List.range (etCount et)).any (test i)) w

def quiet (x : Nat) : FRes := ⟨x, 0⟩

def execFadd (y : Bool) (d a : VReg) (b : BOp) (s : State) : Result' :=
  issue s y (useVVB d a b) (floatBody d a b fun f rm x v _ => fAdd f rm x v)
def execFsub (y : Bool) (d a : VReg) (b : BOp) (s : State) : Result' :=
  issue s y (useVVB d a b) (floatBody d a b fun f rm x v _ => fSub f rm x v)
def execFmul (y : Bool) (d a : VReg) (b : BOp) (s : State) : Result' :=
  issue s y (useVVB d a b) (floatBody d a b fun f rm x v _ => fMul f rm x v)
def execFfma (y : Bool) (d a : VReg) (b : BOp) (s : State) : Result' :=
  issue s y (useAcc d a b) (floatBody d a b fun f rm x v z => fFma f rm x v z)
def execFmin (y : Bool) (d a : VReg) (b : BOp) (s : State) : Result' :=
  issue s y (useVVB d a b) (floatBody d a b fun f _ x v _ => quiet (fMin f x v))
def execFmax (y : Bool) (d a : VReg) (b : BOp) (s : State) : Result' :=
  issue s y (useVVB d a b) (floatBody d a b fun f _ x v _ => quiet (fMax f x v))
def execFabs (y : Bool) (d a : VReg) (s : State) : Result' :=
  issue s y (useVV d a) (floatBody d a (.vec a) fun f _ x _ _ => quiet (fAbs f x))
def execFneg (y : Bool) (d a : VReg) (s : State) : Result' :=
  issue s y (useVV d a) (floatBody d a (.vec a) fun f _ x _ _ => quiet (fNeg f x))
def execFcmpeq (y : Bool) (d : MReg) (a : VReg) (b : BOp) (s : State) : Result' := issue s y (useMVB a b) (fcmpBody d a b true fEq)
def execFcmplt (y : Bool) (d : MReg) (a : VReg) (b : BOp) (s : State) : Result' := issue s y (useMVB a b) (fcmpBody d a b true fLt)
def execFcmple (y : Bool) (d : MReg) (a : VReg) (b : BOp) (s : State) : Result' := issue s y (useMVB a b) (fcmpBody d a b true fLe)
def execFcmpun (y : Bool) (d : MReg) (a : VReg) (b : BOp) (s : State) : Result' := issue s y (useMVB a b) (fcmpBody d a b false fUn)
def execFrcp (y : Bool) (d a : VReg) (s : State) : Result' :=
  issue s y (useVV d a) (floatBody d a (.vec a) fun f rm x _ _ => fRcp f rm x)
def execFrsq (y : Bool) (d a : VReg) (s : State) : Result' :=
  issue s y (useVV d a) (floatBody d a (.vec a) fun f _ x _ _ => boundedElem .rsq f x)
def execFsqrt (y : Bool) (d a : VReg) (s : State) : Result' :=
  issue s y (useVV d a) (floatBody d a (.vec a) fun f rm x _ _ => fSqrt f rm x)
def execFexp2 (y : Bool) (d a : VReg) (s : State) : Result' :=
  issue s y (useVV d a) (floatBody d a (.vec a) fun f _ x _ _ => boundedElem .exp2 f x)
def execFlog2 (y : Bool) (d a : VReg) (s : State) : Result' :=
  issue s y (useVV d a) (floatBody d a (.vec a) fun f _ x _ _ => boundedElem .log2 f x)
def execFsinpi (y : Bool) (d a : VReg) (s : State) : Result' :=
  issue s y (useVV d a) (floatBody d a (.vec a) fun f _ x _ _ => boundedElem .sinpi f x)
def execFcospi (y : Bool) (d a : VReg) (s : State) : Result' :=
  issue s y (useVV d a) (floatBody d a (.vec a) fun f _ x _ _ => boundedElem .cospi f x)

/-- R145: one element of type t converted to type e. -/
def fcvtElem (t e rm x : Nat) : Nat × Flags :=
  let src := etFmt t
  let dst := etFmt e
  if etIsFloat t then
    if etIsFloat e then
      if t = e then (if isNaNBits src x then fmtNaN src else x, 0)
      else let r := cvtFF src dst rm x
           (r.bits, r.flags)
    else
      let (v, f) := cvtFI src rm (etLo e) (etHi e) x
      (wrapTo (etWidth e) v, f)
  else
    let v : Int := if etSigned t then signedOf (etWidth t) x else x
    if etIsFloat e then
      let r := cvtIF dst rm v
      (r.bits, r.flags)
    else satElem e v

/-- R145: elements below both counts are converted; the rest of d is kept. -/
def fcvtLane (t e rm : Nat) (a d : Nat) : Nat × Flags :=
  packElems (etWidth e) (etCount e) fun k =>
    if k < etCount t then fcvtElem t e rm (elemAt (etWidth t) a k) else (elemAt (etWidth e) d k, 0)

/-- R138: d is read when the destination has more elements than the source; since MODE.ET decides that, the usage follows it. -/
def execFcvt (y : Bool) (d a : VReg) (ty : Fin 128) (s : State) : Result' :=
  let et := match s.cur with
    | some (wv, sp) => modeET (getSplit (waveAt s wv) sp).mode
    | none => 0
  issue s y (if etCount ty.val < etCount et then useDVV d a else useVV d a) (onRegs fun c w =>
    writeFlagged c d (fun i => fcvtLane ty.val (modeET c.split.mode) (modeRM c.split.mode) (vec c a i).toNat (vec c d i).toNat) w)

/-- R146: ICVTF reads i32, or i16x2 under a 16-bit F. -/
def execIcvtf (y : Bool) (d a : VReg) (s : State) : Result' :=
  issue s y (useVV d a) (floatBody d a (.vec a) fun f rm x _ _ => cvtIF f rm (signedOf (fmtWidth f) x))
def execFcvti (y : Bool) (d a : VReg) (s : State) : Result' :=
  issue s y (useVV d a) (floatBody d a (.vec a) fun f rm x _ _ =>
    let n := fmtWidth f
    let r := cvtFI f rm (-(2 ^ (n - 1) : Nat)) ((2 ^ (n - 1) : Nat) - 1) x
    ⟨wrapTo n r.1, r.2⟩)
def execFclass (y : Bool) (d a : VReg) (s : State) : Result' :=
  issue s y (useVV d a) (floatBody d a (.vec a) fun f _ x _ _ => quiet (fClass f x))
/-- R148: the scale is a signed integer of the element's width. -/
def execFscale (y : Bool) (d a : VReg) (b : BOp) (s : State) : Result' :=
  issue s y (useVVB d a b) (floatBody d a b fun f rm x v _ => fScale f rm x (signedOf (fmtWidth f) v))
def execFrnd (y : Bool) (d a : VReg) (s : State) : Result' :=
  issue s y (useVV d a) (floatBody d a (.vec a) fun f rm x _ _ => fRnd f rm x)

/-- R149: the exact dot product of k elements of type p. -/
def dotSum (p x v : Nat) : Nat → Int
  | 0 => 0
  | k + 1 => dotSum p x v k + elemVal p x k * elemVal p v k
def dotBody (d a : VReg) (b : BOp) (unsignedType signedType k : Nat) : Ctx → State → State × Eff :=
  onRegs fun c w =>
    let p := if modeET c.split.mode = unsignedType then unsignedType else signedType
    let acc := if p = unsignedType then 1 else 0
    writeFlagged c d (fun i =>
      intElem acc (modeSAT c.split.mode) (elemVal acc (vec c d i).toNat 0 + dotSum p (vec c a i).toNat (bval c b i).toNat k)) w
def execDot4 (y : Bool) (d a : VReg) (b : BOp) (s : State) : Result' := issue s y (useAcc d a b) (dotBody d a b 8 7 4)
def execDot8 (y : Bool) (d a : VReg) (b : BOp) (s : State) : Result' := issue s y (useAcc d a b) (dotBody d a b 10 9 8)
/-- R150. -/
def execDot2f (y : Bool) (d a : VReg) (b : BOp) (s : State) : Result' :=
  issue s y (useAcc d a b) (onRegs fun c w =>
    let p := if modeET c.split.mode = 6 then bf16 else f16
    writeFlagged c d (fun i =>
      let x := (vec c a i).toNat
      let v := (bval c b i).toNat
      let r := fDot2 p (modeRM c.split.mode) (elemAt 16 x 0) (elemAt 16 v 0) (elemAt 16 x 1) (elemAt 16 v 1) (vec c d i).toNat
      (r.bits, r.flags)) w)
/-- R151. -/
def execQscale (y : Bool) (d a : VReg) (b : BOp) (s : State) : Result' :=
  issue s y (useVVB d a b) (onRegs fun c w =>
    writeFlagged c d (fun i =>
      let r := fQscale (modeRM c.split.mode) (signedOf 32 (vec c a i).toNat) (bval c b i).toNat
      (r.bits, r.flags)) w)
/-- R152. -/
def execPack (y : Bool) (d a : VReg) (e : Fin 8) (s : State) : Result' :=
  issue s y (useDVV d a) (onRegs fun c w =>
    let et := intType c.split.mode
    writeFlagged c d (fun i =>
      let x := (vec c a i).toNat
      let r := satElem et (if etSigned et then signedOf 32 x else x)
      (elemPut (etWidth et) (vec c d i).toNat (e.val % etCount et) r.1, r.2)) w)
def execUnpk (y : Bool) (d a : VReg) (e : Fin 8) (s : State) : Result' :=
  issue s y (useVV d a) (onRegs fun c w =>
    let et := intType c.split.mode
    writeVec c d c.wm (fun i => BitVec.ofInt 32 (elemVal et (vec c a i).toNat (e.val % etCount et))) w)

end Sys2Proof.Machine
end

