-- ==== Sys2Proof/Machine/Scalar.lean ====
section
/-!
DEFINITION. The scalar instructions, opcodes 0x28 to 0x38 (R134 to R137).
-/
namespace Sys2Proof.Machine

/-- R135: d := f a b. -/
def scalarBody (d a b : SReg) (f : Scalar → Scalar → Scalar) : Ctx → State → State × Eff :=
  onRegs fun c w => sset w d.val (f (sca c a) (sca c b))
/-- R134: a 64-bit shift amount. -/
def shiftAmount (b : Scalar) : Nat := min b.toNat 64
def bool64 (b : Bool) : Scalar := if b then 1 else 0

def execSadd (y : Bool) (d a b : SReg) (s : State) : Result' := issue s y (useSSS d a b) (scalarBody d a b fun p q => p + q)
def execSsub (y : Bool) (d a b : SReg) (s : State) : Result' := issue s y (useSSS d a b) (scalarBody d a b fun p q => p - q)
def execSmul (y : Bool) (d a b : SReg) (s : State) : Result' := issue s y (useSSS d a b) (scalarBody d a b fun p q => p * q)
def execSand (y : Bool) (d a b : SReg) (s : State) : Result' := issue s y (useSSS d a b) (scalarBody d a b fun p q => p &&& q)
def execSor (y : Bool) (d a b : SReg) (s : State) : Result' := issue s y (useSSS d a b) (scalarBody d a b fun p q => p ||| q)
def execSxor (y : Bool) (d a b : SReg) (s : State) : Result' := issue s y (useSSS d a b) (scalarBody d a b fun p q => p ^^^ q)
def execSshl (y : Bool) (d a b : SReg) (s : State) : Result' :=
  issue s y (useSSS d a b) (scalarBody d a b fun p q => p <<< shiftAmount q)
def execSshr (y : Bool) (d a b : SReg) (s : State) : Result' :=
  issue s y (useSSS d a b) (scalarBody d a b fun p q => p >>> shiftAmount q)
def execSsra (y : Bool) (d a b : SReg) (s : State) : Result' :=
  issue s y (useSSS d a b) (scalarBody d a b fun p q => p.sshiftRight (shiftAmount q))
def execSmov (y : Bool) (d a : SReg) (s : State) : Result' := issue s y (useSS d a) (scalarBody d a a fun p _ => p)
def execSmovi (y : Bool) (d : SReg) (i : BitVec 16) (s : State) : Result' :=
  issue s y (useSw d) (onRegs fun _ w => sset w d.val (i.signExtend 64))
/-- R136. -/
def execSmovk (y : Bool) (d : SReg) (i : BitVec 16) (s : State) : Result' :=
  issue s y (useSS d d) (onRegs fun c w => sset w d.val ((sca c d <<< (16 : Nat)) + i.zeroExtend 64))
def execSaddi (y : Bool) (d a : SReg) (i : BitVec 9) (s : State) : Result' :=
  issue s y (useSS d a) (onRegs fun c w => sset w d.val (sca c a + i.signExtend 64))
def execSseq (y : Bool) (d a b : SReg) (s : State) : Result' :=
  issue s y (useSSS d a b) (scalarBody d a b fun p q => bool64 (decide (p = q)))
def execSslt (y : Bool) (d a b : SReg) (s : State) : Result' :=
  issue s y (useSSS d a b) (scalarBody d a b fun p q => bool64 (p.slt q))
def execSsltu (y : Bool) (d a b : SReg) (s : State) : Result' :=
  issue s y (useSSS d a b) (scalarBody d a b fun p q => bool64 (p.ult q))
/-- R137: the lowest lane of ACT over all lanes of the wave. -/
def lowestLane (m : Mask) : Nat := (maskList m).headD 0
def execVtos (y : Bool) (d : SReg) (a : VReg) (s : State) : Result' :=
  issue s y (useSV d a) (onRegs fun c w => sset w d.val ((vec c a (lowestLane c.act)).zeroExtend 64))

end Sys2Proof.Machine
end

