-- ==== Sys2Proof/Machine/Lanes.lean ====
section
/-!
DEFINITION. Masks, cross-lane, quad, reduction and scan instructions, opcodes 0x60 to 0x6F (08: R153 to R160).
-/
namespace Sys2Proof.Machine

/-- R157: over all 128 bits, whatever ACT and the guard hold. -/
def maskBody (d a b : MReg) (f : Mask → Mask → Mask) : Ctx → State → State × Eff :=
  onRegs fun c w => mset w d.val (f (mget c.view a.val) (mget c.view b.val))

def execMand (y : Bool) (d a b : MReg) (s : State) : Result' := issue s y {} (maskBody d a b fun p q => p &&& q)
def execMor (y : Bool) (d a b : MReg) (s : State) : Result' := issue s y {} (maskBody d a b fun p q => p ||| q)
def execMxor (y : Bool) (d a b : MReg) (s : State) : Result' := issue s y {} (maskBody d a b fun p q => p ^^^ q)
def execMandn (y : Bool) (d a b : MReg) (s : State) : Result' := issue s y {} (maskBody d a b fun p q => p &&& ~~~ q)

/-- R158: half of a mask. -/
def maskHalf (m : Mask) (hi : Bool) : Scalar := if hi then (m >>> (64 : Nat)).truncate 64 else m.truncate 64
def maskWithHalf (m : Mask) (hi : Bool) (v : Scalar) : Mask :=
  if hi then (v.zeroExtend 128 <<< (64 : Nat)) ||| (m &&& maskLow 64) else v.zeroExtend 128 ||| (m &&& ~~~ maskLow 64)
def execMtos (y : Bool) (d : SReg) (a : MReg) (hi : Bool) (s : State) : Result' :=
  issue s y (useSw d) (onRegs fun c w => sset w d.val (maskHalf (mget c.view a.val) hi))
def execStom (y : Bool) (d : MReg) (a : SReg) (hi : Bool) (s : State) : Result' :=
  issue s y (useSr a) (onRegs fun c w => mset w d.val (maskWithHalf (mget c.view d.val) hi (sca c a)))
/-- The set bits of a mask below the width. -/
def lanesBelow (m : Mask) (width : Nat) : List Nat := (maskList m).filter (· < width)
def execMpopc (y : Bool) (d : SReg) (a : MReg) (s : State) : Result' :=
  issue s y (useSw d) (onRegs fun c w => sset w d.val (BitVec.ofNat 64 (lanesBelow (mget c.view a.val) w.width).length))
def execMfirst (y : Bool) (d : SReg) (a : MReg) (s : State) : Result' :=
  issue s y (useSw d) (onRegs fun c w => sset w d.val (match lanesBelow (mget c.view a.val) w.width with
    | [] => BitVec.allOnes 64
    | i :: _ => BitVec.ofNat 64 i))

/-- R156: d[i] := a[j] for a source lane j. -/
def permBody (d a : VReg) (j : Ctx → Nat → Int) : Ctx → State → State × Eff :=
  onRegs fun c w => writeVec c d c.wm (fun i => laneVal c a.val (j c i)) w
def execShfl (y : Bool) (d a b : VReg) (s : State) : Result' :=
  issue s y { vr := [(a.val, 1), (b.val, 1)], vw := [(d.val, 1)], far := [(a.val, 1)] } (permBody d a fun c i => ((vec c b i).toNat : Int))
def execShflx (y : Bool) (d a : VReg) (b : SReg) (s : State) : Result' :=
  issue s y { useVV d a with sr := [b.val], far := [(a.val, 1)] } (permBody d a fun c i => ((i ^^^ (sca c b).toNat : Nat) : Int))
def execQswap (y : Bool) (d a : VReg) (k : Fin 4) (s : State) : Result' :=
  issue s y { useVV d a with far := [(a.val, 1)] } (permBody d a fun _ i => ((i ^^^ k.val : Nat) : Int))
def execQbcast (y : Bool) (d a : VReg) (l : Fin 4) (s : State) : Result' :=
  issue s y { useVV d a with far := [(a.val, 1)] } (permBody d a fun _ i => ((4 * (i / 4) + l.val : Nat) : Int))

/-! Reductions (R76, R159). -/
inductive RedOp where
  | add
  | min
  | max
  deriving DecidableEq, Repr

/-- R76: one level of the tree. -/
def pairLevel (op : Nat → Nat → FRes) : List Nat → List Nat × Flags
  | x :: v :: t =>
    let r := op x v
    let (rest, f) := pairLevel op t
    (r.bits :: rest, r.flags ||| f)
  | l => (l, 0)
/-- R76: the tree, from W leaves down to one node. -/
def treeFold (op : Nat → Nat → FRes) : Nat → List Nat → Nat × Flags
  | 0, l => (l.headD 0, 0)
  | fuel + 1, l =>
    if l.length ≤ 1 then (l.headD 0, 0)
    else
      let (l', f) := pairLevel op l
      let (r, g) := treeFold op fuel l'
      (r, f ||| g)

def redFloatOp (op : RedOp) (f : Fmt) (rm : Nat) (x v : Nat) : FRes :=
  match op with
  | .add => fAdd f rm x v
  | .min => quiet (fMin f x v)
  | .max => quiet (fMax f x v)
/-- R76: the identity leaf. -/
def redIdentity (op : RedOp) (f : Fmt) : Nat :=
  match op with
  | .add => fmtSign f
  | .min => fmtInf f
  | .max => fmtSign f + fmtInf f

/-- R76, R159: element e of type f, lanes of the write mask. -/
def redFloat (op : RedOp) (et rm : Nat) (wm : Mask) (width : Nat) (x : Nat → Nat) (e : Nat) : Nat × Flags :=
  let f := etFmt et
  if (lanesBelow wm width).isEmpty then (match op with
    | .add => (0, 0)
    | .min => (fmtInf f, 0)
    | .max => (fmtSign f + fmtInf f, 0))
  else treeFold (redFloatOp op f rm) 8
    ((List.range width).map fun i => if mbit wm i then elemAt (etWidth et) (x i) e else redIdentity op f)

/-- R159: an exact integer reduction of element e. -/
def redInt (op : RedOp) (et : Nat) (lanes : List Nat) (x : Nat → Nat) (e : Nat) : Int :=
  match op with
  | .add => lanes.foldl (fun a i => a + elemVal et (x i) e) 0
  | .min => lanes.foldl (fun a i => min a (elemVal et (x i) e)) (etHi et)
  | .max => lanes.foldl (fun a i => max a (elemVal et (x i) e)) (etLo et)

/-- R159: the scalar written, and the flags. -/
def reduce (op : RedOp) (mode : Lane) (wm : Mask) (width : Nat) (x : Nat → Nat) : Scalar × Flags :=
  let et := modeET mode
  if etIsFloat et then
    let r := packElems (etWidth et) (etCount et) (redFloat op et (modeRM mode) wm width x)
    (BitVec.ofNat 64 r.1, r.2)
  else
    let lanes := lanesBelow wm width
    if etCount et = 1 then (BitVec.ofInt 64 (redInt op et lanes x 0), 0)
    else
      let r := packElems (etWidth et) (etCount et) fun e => match op with
        | .add => intElem et (modeSAT mode) (redInt op et lanes x e)
        | .min => (wrapTo (etWidth et) (redInt op et lanes x e), 0)
        | .max => (wrapTo (etWidth et) (redInt op et lanes x e), 0)
      (BitVec.ofNat 64 r.1, r.2)

def redBody (op : RedOp) (d : SReg) (a : VReg) : Ctx → State → State × Eff :=
  onRegs fun c w =>
    let r := reduce op c.split.mode c.wm w.width fun i => (vec c a i).toNat
    raise (sset w d.val r.1) r.2
def execRedadd (y : Bool) (d : SReg) (a : VReg) (s : State) : Result' := issue s y (useSV d a) (redBody .add d a)
def execRedmin (y : Bool) (d : SReg) (a : VReg) (s : State) : Result' := issue s y (useSV d a) (redBody .min d a)
def execRedmax (y : Bool) (d : SReg) (a : VReg) (s : State) : Result' := issue s y (useSV d a) (redBody .max d a)

/-- R160: running sums of element e over the lanes, exact. -/
def scanInt (et : Nat) (sat : Bool) (x : Nat → Nat) (e : Nat) : Int → List Nat → List (Nat × Nat × Flags)
  | _, [] => []
  | acc, i :: t =>
    let a := acc + elemVal et (x i) e
    let r := intElem et sat a
    (i, r.1, r.2) :: scanInt et sat x e a t
/-- R76, R160: running sums rounded in sequence; the first element is delivered as it stands, a NaN as the canonical one. -/
def scanFloat (et rm : Nat) (x : Nat → Nat) (e : Nat) : Option Nat → List Nat → List (Nat × Nat × Flags)
  | _, [] => []
  | prev, i :: t =>
    let v := elemAt (etWidth et) (x i) e
    let r : FRes := match prev with
      | none => quiet (if isNaNBits (etFmt et) v then fmtNaN (etFmt et) else v)
      | some p => fAdd (etFmt et) rm p v
    (i, r.bits, r.flags) :: scanFloat et rm x e (some r.bits) t
def scanAt (l : List (Nat × Nat × Flags)) (i : Nat) : Nat × Flags := match l.find? fun p => p.1 = i with
  | some p => p.2
  | none => (0, 0)
def execScanadd (y : Bool) (d a : VReg) (s : State) : Result' :=
  issue s y (useVV d a) (onRegs fun c w =>
    let et := modeET c.split.mode
    let lanes := lanesBelow c.wm w.width
    let x (i : Nat) : Nat := (vec c a i).toNat
    let sums := (List.range (etCount et)).map fun e =>
      if etIsFloat et then scanFloat et (modeRM c.split.mode) x e none lanes else scanInt et (modeSAT c.split.mode) x e 0 lanes
    writeFlagged c d (fun i => packElems (etWidth et) (etCount et) fun e => scanAt (sums.getD e []) i) w)

end Sys2Proof.Machine
end

