-- ==== Sys2Proof/Machine/ModeCw.lean ====
section
/-!
DEFINITION. MODE, specials, control words and thresholds, opcodes 0x70 to 0x77 (04: R86 to R93; 08: R161 to R164; R104, R364, R388,
R407), and TMSET, 0x9E (R388).
-/
namespace Sys2Proof.Machine

/-- R88, R161: the value is written to the split's MODE, or the instruction traps with nothing changed. -/
def setMode (c : Ctx) (m : Lane) (s : State) : State × Eff :=
  if modeLegal m then (onWave s c.wv fun w => putSplit w c.sp { getSplit w c.sp with mode := m }, .done) else (s, .trap 0x01 0 0)
def execMset (y : Bool) (i : BitVec 16) (s : State) : Result' :=
  issue s y {} (fun c s => setMode c ((c.split.mode &&& 0xFFFF0000) ||| i.zeroExtend 32) s)
def execMseth (y : Bool) (i : BitVec 16) (s : State) : Result' :=
  issue s y {} (fun c s => setMode c ((i.zeroExtend 32 <<< (16 : Nat)) ||| (c.split.mode &&& 0xFFFF)) s)
def execMrd (y : Bool) (d : SReg) (s : State) : Result' :=
  issue s y (useSw d) (onRegs fun c w => sset w d.val (c.split.mode.zeroExtend 64))
def execMwr (y : Bool) (a : SReg) (s : State) : Result' :=
  issue s y (useSr a) (fun c s => setMode c ((sca c a).truncate 32) s)

/-- R162: the value of a selector in lane i. -/
def specValue (s : State) (c : Ctx) (sel i : Nat) : Nat :=
  let w := waveAt s c.wv
  match sel with
  | 0 => i
  | 1 => i / 4
  | 2 => w.num
  | 3 => w.role
  | 4 => (groupAt s w.group).index
  | 5 => w.width
  | 6 => c.sp
  | 7 => w.quarter / 4 % 256 + w.quarter % 4 * 256
  | 8 => clusterOf w
  | 9 => w.quarter / 256
  | 10 => islandOf s w
  | 11 => b2n (mbit w.ctl.helpers i)
  | _ => 0
def execRdspec (y : Bool) (d : VReg) (sel : Fin 16) (s : State) : Result' :=
  issue s y (useV d) (fun c s => onRegs (fun c w => writeVec c d c.wm (fun i => BitVec.ofNat 32 (specValue s c sel.val i)) w) c s)

/-- R100: cw.wbase. -/
def wbaseWord (f : Frame) : Nat := f.base % 2 ^ 40 + f.nin * 2 ^ 48 + f.nloc * 2 ^ 53 + f.nout * 2 ^ 59
/-- R93: cw.hazard. -/
def hazardWord (r : Regs) : Nat := r.flags.toNat * 2 ^ 16 + b2n r.strict

/-- R91, R392, R407, R213, R363: the value of control word n. -/
def cwRead (s : State) (c : Ctx) (n : Nat) : Nat :=
  let w := waveAt s c.wv
  let x := getSplit w c.sp
  let core := coreAt s (coreOf w)
  let isl := islandAt s (islandOf s w)
  match n with
  | 0x000 => s.dev.cycle
  | 0x001 => w.tim.wtime
  | 0x002 => w.tim.tmcmp.toNat
  | 0x010 => wbaseWord x.frame
  | 0x011 => w.win.rows - (w.win.top - w.win.bottom)
  | 0x012 => w.win.bstore
  | 0x013 => w.win.bsize
  | 0x014 => w.win.bused
  | 0x015 => w.win.spills
  | 0x016 => w.win.refills
  | 0x017 => w.win.low + w.win.rahi * 2 ^ 16
  | 0x020 => w.evt.trapvec
  | 0x021 => w.evt.cause.toNat
  | 0x022 => w.evt.tpc
  | 0x023 => w.evt.taddr
  | 0x024 => w.evt.replay.toNat % 2 ^ 64
  | 0x025 => w.evt.replay.toNat / 2 ^ 64
  | 0x026 => if x.region.isOpen then x.region.entry else 0
  | 0x027 => x.region.cnt
  | 0x030 => w.ctl.mergewait
  | 0x031 => hazardWord w.regs
  | 0x032 => w.tim.spinq
  | 0x033 => isl.repstall
  | 0x060 => core.conflicts
  | 0x070 => islandOf s w
  | 0x071 => islAsid isl
  | 0x100 => isl.t1
  | 0x101 => isl.t2
  | 0x103 => isl.lost
  | 0x104 => s.dev.corrected
  | 0x140 => core.recons
  | 0x141 => core.survivors
  | 0x142 => core.skipped
  | 0x143 => core.apart
  | n => if 0x040 ≤ n ∧ n ≤ 0x05C then spGet 0 core.stalls (n - 0x040) else 0

/-- R52: numbers 0x100 to 0x1FF are privileged. -/
def cwPriv (n : Nat) : Bool := decide (0x100 ≤ n)
def execCwrd (y : Bool) (d : SReg) (w : Fin 4096) (s : State) : Result' :=
  issue s y { useSw d with priv := cwPriv w.val } (fun c s =>
    onRegs (fun _ v => sset v d.val (BitVec.ofNat 64 (cwRead s c w.val))) c s)

/-- R104: the effect on the window words. -/
def winWrite (w : Window) (n v : Nat) : Window :=
  match n with
  | 0x012 => if w.bused = 0 then { w with bstore := v % 2 ^ 57 / 128 * 128 } else w
  | 0x013 => if w.bused ≤ v then { w with bsize := if 2 ^ 40 < v then 2 ^ 40 else v / 4 * 4 } else w
  | 0x015 => { w with spills := v }
  | 0x016 => { w with refills := v }
  | 0x017 => { w with low := bitsOf v 0 10, rahi := bitsOf v 16 10 }
  | _ => w

/-- R91 to R93, R104, R364, R388: the effect of CWWR on the wave. -/
def cwWriteWave (w : Wave) (n v : Nat) : Wave :=
  match n with
  | 0x002 => { w with tim := { w.tim with tmcmp := BitVec.ofNat 64 v } }
  | 0x020 => { w with evt := { w.evt with trapvec := v % 2 ^ 57 / 4 * 4 } }
  | 0x022 => { w with evt := { w.evt with tpc := v % 2 ^ 57 / 4 * 4 } }
  | 0x030 => { w with ctl := { w.ctl with mergewait := v % 2 ^ 32 } }
  | 0x031 => { w with regs := { w.regs with flags := (w.regs.flags &&& ~~~ (BitVec.ofNat 6 (bitsOf v 16 6))) ||| w.tim.fresh, strict := bitOf v 0 } }
  | 0x032 => { w with tim := { w.tim with spinq := v } }
  | n => { w with win := winWrite w.win n v }

/-- R91, R406, R407: the privileged and island words; the verdicts of FAULTRES are `verdict`. -/
def cwWriteIsland (s : State) (priv : Bool) (isl n v : Nat) : State :=
  let i := islandAt s isl
  match n with
  | 0x033 => if priv then putIsland s isl { i with repstall := v } else s
  | 0x100 => putIsland s isl { i with t1 := v % 2 ^ 32 }
  | 0x101 => putIsland s isl { i with t2 := v % 2 ^ 32 }
  | _ => s

/-- R388: TMSET. -/
def tmsetValue (w : Wave) (v : Scalar) : Scalar :=
  if v = 0 then w.tim.tmcmp &&& 0x7FFFFFFFFFFFFFFF
  else BitVec.ofNat 64 (2 ^ 63 + min (w.tim.wtime + v.toNat) (2 ^ 63 - 1))
def execTmset (y : Bool) (a : SReg) (s : State) : Result' :=
  issue s y (useSr a) (fun c s =>
    if (sca c a).getLsbD 63 then (s, .trap 0x01 0 0)
    else (onWave s c.wv fun w => { w with tim := { w.tim with tmcmp := tmsetValue w (sca c a) } }, .done))

/-- R164: levels 1 to 4 from a, level 5 from b. -/
def execThset (y : Bool) (d : ThReg) (a b : SReg) (s : State) : Result' :=
  issue s y { sr := [a.val, b.val] } (onRegs fun c w =>
    let x := (sca c a).toNat
    thSet (thSet (thSet (thSet (thSet w d.val 1 (bitsOf x 0 16)) d.val 2 (bitsOf x 16 16)) d.val 3 (bitsOf x 32 16)) d.val 4
      (bitsOf x 48 16)) d.val 5 (bitsOf (sca c b).toNat 0 16))

end Sys2Proof.Machine
end

