-- ==== Sys2Proof/Machine/ControlFlow.lean ====
section
/-!
DEFINITION. Control flow, opcodes 0x80 to 0x8F (20: R366 to R378), and the events of parked splits (R373, R375).
-/
namespace Sys2Proof.Machine

def skipUse : Usage := { skipExec := true }
/-- R44: the target of a word offset. -/
def target (pc : Nat) (o : Int) : Nat := pcWrap ((pc : Int) + 4 * o)
def anyActive (w : Wave) (sp : Nat) : Bool := actOf w sp != 0
/-- R368: the counters of the split's lanes under `f`, unless some lane overflows. -/
def nest (c : Ctx) (s : State) (bad : Nat → Bool) (f : Nat → Nat → Nat) (next : Wave → Nat) : State × Eff :=
  let w := waveAt s c.wv
  let lanes := liveLanes w c.sp
  if (maskList lanes).any fun i => bad (cntGet w i) then (s, .trap 0x09 0 0)
  else
    let w1 := cntMap lanes f 128 w
    (putWave s c.wv w1, .goto (next w1))
/-- The target when no lane is active, else PC + 4. -/
def whenIdle (c : Ctx) (o : Int) (w : Wave) : Nat := if anyActive w c.sp then pcNext c.split.pc else target c.split.pc o

def execIfM (y : Bool) (m : MReg) (o : BitVec 16) (s : State) : Result' :=
  issue s y skipUse (fun c s => nest c s (fun k => k == 63)
    (fun i k => if 0 < k then k + 1 else if mbit (mget c.view m.val) i then 0 else 1) (whenIdle c o.toInt))
def execElseM (y : Bool) (o : BitVec 16) (s : State) : Result' :=
  issue s y skipUse (fun c s => nest c s (fun _ => false)
    (fun _ k => if k = 0 then 1 else if k = 1 then 0 else k) (whenIdle c o.toInt))
def execEndif (y : Bool) (s : State) : Result' :=
  issue s y skipUse (fun c s => nest c s (fun _ => false) (fun _ k => k - 1) (fun _ => pcNext c.split.pc))
def execLoop (y : Bool) (o : BitVec 16) (s : State) : Result' :=
  issue s y skipUse (fun c s =>
    if c.act = 0 then (s, .goto (target c.split.pc o.toInt))
    else nest c s (fun k => decide (61 < k)) (fun _ k => if 0 < k then k + 2 else k) (fun _ => pcNext c.split.pc))
/-- R368: the active lanes with m[i] = 1 are raised to a level. -/
def leaveBody (m : MReg) (level : Nat) (c : Ctx) (s : State) : State × Eff :=
  let w := waveAt s c.wv
  (putWave s c.wv (cntMap (c.act &&& mget c.view m.val) (fun _ _ => level) 128 w), .done)
def execBrk (y : Bool) (m : MReg) (n : Fin 64) (s : State) : Result' :=
  issue s y skipUse (fun c s => if 61 < n.val then (s, .trap 0x09 0 0) else leaveBody m (n.val + 2) c s)
def execCont (y : Bool) (m : MReg) (n : Fin 64) (s : State) : Result' :=
  issue s y skipUse (fun c s => if n.val = 63 then (s, .trap 0x09 0 0) else leaveBody m (n.val + 1) c s)
def execEndloop (y : Bool) (o : BitVec 16) (s : State) : Result' :=
  issue s y skipUse (fun c s =>
    let w := waveAt s c.wv
    let lanes := liveLanes w c.sp
    let w1 := cntMap lanes (fun _ k => if k = 1 then 0 else k) 128 w
    if anyActive w1 c.sp then (putWave s c.wv w1, .goto (target c.split.pc o.toInt))
    else (putWave s c.wv (cntMap lanes (fun _ k => if 2 ≤ k then k - 2 else k) 128 w1), .done))

def execJmp (y : Bool) (o : BitVec 23) (s : State) : Result' := issue s y {} (fun c s => (s, .goto (target c.split.pc o.toInt)))
/-- R369. -/
def branch (taken : Bool) (o : BitVec 16) (c : Ctx) (s : State) : State × Eff :=
  (s, if taken then .goto (target c.split.pc o.toInt) else .done)
def execBrs (y : Bool) (x : SReg) (o : BitVec 16) (s : State) : Result' :=
  issue s y (useSr x) (fun c s => branch (decide (sca c x ≠ 0)) o c s)
def execBrany (y : Bool) (m : MReg) (o : BitVec 16) (s : State) : Result' :=
  issue s y {} (fun c s => branch (decide (c.act &&& mget c.view m.val ≠ 0)) o c s)
def execBrall (y : Bool) (m : MReg) (o : BitVec 16) (s : State) : Result' :=
  issue s y {} (fun c s => branch (decide (c.act &&& ~~~ mget c.view m.val = 0)) o c s)

/-! Splitting (R370, R371). -/
/-- R370: lanes with equal targets form a group; groups in order of their lowest lane. -/
def addToGroups (t i : Nat) : List (Nat × Mask) → List (Nat × Mask)
  | [] => [(t, 1#128 <<< i)]
  | (t', m) :: rest => if t' = t then (t', m ||| 1#128 <<< i) :: rest else (t', m) :: addToGroups t i rest
def targetGroups (tgt : Nat → Nat) (act : Mask) : List (Nat × Mask) :=
  (maskList act).foldl (fun gs i => addToGroups (tgt i) i gs) []
/-- R370: the target of each active lane. -/
def laneTarget (c : Ctx) (a : VReg) (i : Nat) : Nat := target c.split.pc (signedOf 32 (vec c a i).toNat)
def unionMasks (gs : List (Nat × Mask)) : Mask := gs.foldl (fun m g => m ||| g.2) 0

def execJmpx (y : Bool) (a : VReg) (s : State) : Result' :=
  issue s y { vr := [(a.val, 1)] } (fun c s =>
    let w := waveAt s c.wv
    match targetGroups (laneTarget c a) c.act with
    | [] => (s, .done)
    | g0 :: rest =>
      let free := freeEntries w
      let left := unionMasks (rest.drop free)
      if free < rest.length ∧ c.split.leftover.held then (s, .trap 0x0A 0 0)
      else
        let w0 := if rest.isEmpty then w else putSplit w c.sp (closeRegion (getSplit w c.sp))
        let w1 := (rest.take free).foldl (fun w g => splitOff w c.sp g.2 g.1) w0
        let w2 := cntMap left (fun _ _ => 1) 128 w1
        let w3 := if left = 0 then w2
          else putSplit w2 c.sp { getSplit w2 c.sp with leftover := { held := true, kind := 0, lanes := left, addr := c.split.pc } }
        (putWave s c.wv w3, .goto g0.1))

/-! Parked splits. -/
/-- R374: splits left apart are counted on the core. -/
def addApart (s : State) (w : Wave) (n : Nat) : State :=
  let c := coreAt s (coreOf w)
  putCore s (coreOf w) { c with apart := (c.apart + n) % 2 ^ 64 }
/-- R373: release of every MERGE-parked split. -/
def doRelease (s : State) (wv : Nat) : State :=
  let r := releaseMerge (waveAt s wv)
  addApart (putWave s wv r.1) r.1 r.2
/-- R373, R376: what the parked splits may do once another split has parked or ended. -/
def recheck (s : State) (wv : Nat) : State :=
  match tbGet? s.waves wv with
  | none => s
  | some w =>
    if (liveSplits w).isEmpty then endWave s wv
    else if allMerged w then doRelease s wv
    else match (liveSplits w).find? fun i => gathered w (getSplit w i).pc with
      | some i => putWave s wv (putSplit w i { getSplit w i with park := { since := (getSplit w i).park.since, back := true } })
      | none => checkStuck s wv

def execMerge (y : Bool) (s : State) : Result' :=
  issue s y skipUse (fun c s => (recheck (onWave s c.wv fun w => parkSplit w c.sp .merge) c.wv, .moved))
/-- R377: an EXIT in the handler ends every split of the wave. -/
def execExit (y : Bool) (s : State) : Result' :=
  issue s y { closes := true } (fun c s =>
    let w := waveAt s c.wv
    if handlerRuns w then (endWave s c.wv, .moved)
    else
      let w1 := exitLanes w c.sp c.act
      let w2 := if (getSplit w1 c.sp).valid then putSplit w1 c.sp (stepPast (getSplit w1 c.sp)) else w1
      (recheck (putWave s c.wv w2) c.wv, .moved))
def execNop (y : Bool) (s : State) : Result' := issue s y {} (fun _ s => (s, .done))
/-- R378: the wave leaves its slots, ready. -/
def execYield (y : Bool) (s : State) : Result' := issue s y {} (fun c s => (leaveSlots s c.wv, .done))

/-- MERGE_WAIT_EXPIRY (R373, R379): some split has been parked at a MERGE for WAIT resident clocks. -/
def execMergeWaitExpiry (wv : Nat) (s : State) : Result' :=
  match tbGet? s.waves wv with
  | none => event s
  | some w => event (if mergeExpired w then settleSlots (doRelease s wv) wv else s)

/-- R375: split `sp` stayed parked for its JMPX leftover, and an entry is free. -/
def mayRespawn (w : Wave) (sp : Nat) : Bool :=
  let x := getSplit w sp
  x.valid && jmpxHolder x && x.park.due && (freeEntry w).isSome
/-- LEFTOVER_RESPAWN (R375). -/
def execLeftoverRespawn (wv sp : Nat) (s : State) : Result' :=
  match tbGet? s.waves wv with
  | none => event s
  | some w => event (if mayRespawn w sp then putWave s wv (respawn w sp) else s)

end Sys2Proof.Machine
end

