-- ==== Sys2Proof/Machine/WindowInstr.lean ====
section
/-!
DEFINITION. The sliding window, opcodes 0x90 to 0x96 (05: R99 to R112, R116 to R119; R372).
-/
namespace Sys2Proof.Machine

/-- R99: cw.wfree. -/
def wfree (w : Wave) : Nat := w.win.rows - (w.win.top - w.win.bottom)
/-- R113: bytes of a record of `e` rows in the backing store. -/
def recordBytes (w : Wave) (e : Nat) : Nat := e * 4 * w.width + 4

/-- R101: each resident record with the end of its extent; the list is ascending by start. -/
def extents (top : Nat) : List FrameRec → List (FrameRec × Nat)
  | [] => []
  | [r] => [(r, top)]
  | r :: r' :: t => (r, r'.start) :: extents top (r' :: t)
/-- The resident records, lowest first. -/
def residentRecs (w : Wave) : List (FrameRec × Nat) := extents w.win.top (w.win.records.filter fun r => w.win.bottom ≤ r.start)
/-- The record above which nothing lies. -/
def highestRec (w : Wave) : FrameRec := w.win.records.getLastD {}
def recOfLink (w : Wave) (link : Nat) : FrameRec := (w.win.records.find? fun r => r.link = link).getD {}

/-- R110: whether the extent from a to b may be spilled. -/
def maySpill (w : Wave) (a b : Nat) : Bool :=
  !((liveSplits w).any fun i => let f := (getSplit w i).frame
                                decide (f.base < b) && decide (a < frameEnd f)) &&
  !((List.range (b - a)).any fun k => outRow w (ringRow w (a + k)))

/-- R105, R106, R358: bytes that the spills needed to make `need` rows free would add, from the lowest record up; a record counts
whether or not it may be spilled now. -/
def spillBytes (w : Wave) (need : Nat) : List (FrameRec × Nat) → Nat → Nat → Nat
  | [], _, acc => acc
  | (r, e) :: t, free, acc =>
    if need ≤ free then acc
    else spillBytes w need t (free + (e - r.start)) (if r.live then acc + recordBytes w (e - r.start) else acc)
/-- R105, R106: the spills needed would carry cw.bused past cw.bsize. -/
def overflows (w : Wave) (need : Nat) : Bool :=
  let b := spillBytes w need (residentRecs w) (wfree w) 0
  decide (b ≠ 0) && decide (w.win.bsize < w.win.bused + b)

/-- R116: what the pending service makes of a CALL, CALLX, FRAME or RET of split x that needs this transfer, or none: one that needs the blocked
transfer parks on it or, where none has been parked on it longer, takes its failure; and once one is parked on it, every later one parks. -/
def serviceEff (w : Wave) (x : Split) (needs : Option Transfer) : Option Eff :=
  match w.win.service with
  | .clear => none
  | .waiting op _ _ => if needs ≠ some op ∧ opParks w op ≠ [] then some (.park .service) else none
  | .failed op a t => if needs = some op ∧ firstOn w x op then some (.denied 0x08 t a) else none

/-- An instruction that needs a transfer, or none, under R116; `go` when nothing hinders it. -/
def served (c : Ctx) (s : State) (needs : Option Transfer) (k : ParkKind) (go : State × Eff) : State × Eff :=
  match serviceEff (waveAt s c.wv) c.split needs with
  | some (.denied a b d) => (onWave s c.wv clearFailed, .denied a b d)
  | some e => (s, e)
  | none => if needs.isSome then (s, .park k) else go
/-- R105, R106: rows that are not free are made so by a spill. -/
def roomNeed (w : Wave) (need : Nat) : Option Transfer := if wfree w < need then some .spill else none

/-- R105: the top after FRAME has set the sizes: the largest end over the live splits of the record, when it is the highest. -/
def frameTop (w : Wave) (sp : Nat) : Wave :=
  let r := recOfLink w (linkPos (getSplit w sp).frame)
  if (highestRec w).start = r.start then
    let ends := ((liveSplits w).filter fun i => linkPos (getSplit w i).frame = r.link).map fun i => frameEnd (getSplit w i).frame
    { w with win := { w.win with top := ends.foldl max (r.link + 1) } }
  else w

/-- R105: a position that joins a frame holds what its ring row last held, or zero, in each lane that no other split holds. -/
def joinRows (free sp : Nat) (f f' : Frame) (w : Wave) : Wave :=
  (List.range (frameEnd f' - frameEnd f)).foldl (fun w k =>
    let row := ringRow w (frameEnd f + k)
    writeRow w row (~~~ otherLanes w sp &&& maskOf fun i => Config.race free (2 ^ 21 + laneKey row i)) fun _ => 0) w

/-- R105. -/
def execFrame (y : Bool) (nin : Fin 32) (nloc : Fin 64) (nout : Fin 32) (s : State) : Result' :=
  issue s y { closes := true } (fun c s =>
    let w := waveAt s c.wv
    let f := c.split.frame
    let r := recOfLink w (linkPos f)
    let f' : Frame := { f with nloc := nloc.val, nout := nout.val }
    let newend := frameEnd f'
    let need := newend - w.win.top
    if nin.val ≠ f.nin ∨ 96 < nin.val + nloc.val + nout.val ∨ w.win.rows < newend - r.start then (s, .trap 0x06 0 0)
    else if overflows w need then (s, .trap 0x07 0 0)
    else if (highestRec w).start ≠ r.start ∧ (w.win.records.any fun q => decide (r.start < q.start) && decide (q.start < newend)) then
      (s, .park .highest)
    else served c s (roomNeed w need) (.room need)
      (onWave s c.wv fun w => joinRows c.free c.sp f f' (frameTop (putSplit w c.sp { getSplit w c.sp with frame := f' }) c.sp), .done))

/-! Links (R102). -/
/-- R102: the twelve words of a link record. -/
def linkWords (ret : Nat) (f : Frame) (kind : Nat) (det : Bool) (l : Leftover) : List Nat :=
  let w2 := f.nin + f.nloc * 2 ^ 5 + f.nout * 2 ^ 11 + kind * 2 ^ 16 + b2n l.held * 2 ^ 18 + l.kind * 2 ^ 19 + b2n det * 2 ^ 20
  let m := l.lanes.toNat
  [ret % 2 ^ 32, ret / 2 ^ 32, w2, 0, bitsOf m 0 32, bitsOf m 32 32, bitsOf m 64 32, bitsOf m 96 32,
   l.addr % 2 ^ 32, l.addr / 2 ^ 32, f.base % 2 ^ 32, f.base / 2 ^ 32]
/-- R102: words 0 to 11 of a row, every other lane zero. -/
def writeLink (w : Wave) (pos : Nat) (words : List Nat) : Wave :=
  writeRow w (ringRow w pos) (BitVec.allOnes 128) fun i => BitVec.ofNat 32 (words.getD i 0)

/-- R106: rows a callee takes above the top. -/
def callRows (w : Wave) (f : Frame) : Nat := if f.base + f.nin + 1 + f.nloc + f.nout = w.win.top then 1 else f.nout + 1

/-- R106: split sp calls; `view` is what the copied ins read. -/
def doCall (view : Wave) (sp kind tgt ret : Nat) (left : Leftover) (w : Wave) : Wave :=
  let x := getSplit w sp
  let f := x.frame
  let obase := f.base + f.nin + 1 + f.nloc
  let det := obase + f.nout != w.win.top
  let nb := if det then w.win.top else obase
  let w1 := if det then (List.range f.nout).foldl (fun w j =>
      writeRow w (ringRow w (nb + j)) (BitVec.allOnes 128) fun i => rowGet view (ringRow view (obase + j)) i) w else w
  let w2 := writeLink w1 (nb + f.nout) (linkWords ret f kind det left)
  let r : FrameRec := { start := if det then nb else nb + f.nout, base := nb, link := nb + f.nout, overlaid := !det,
                        caller := some (linkPos f) }
  let w3 : Wave := { w2 with win := { w2.win with top := nb + f.nout + 1, records := w2.win.records ++ [r],
                                                  held := w2.win.held.filter fun e => e.1 != nb + f.nout } }
  putSplit w3 sp { unparked x with frame := { base := nb, nin := f.nout, nloc := 0, nout := 0 }, leftover := {}, pc := tgt }

/-- R106: the checks and waits of a call that takes `need` rows; then `go`. -/
def callGate (c : Ctx) (s : State) (need : Nat) (go : State × Eff) : State × Eff :=
  let w := waveAt s c.wv
  if 2 ^ 40 ≤ w.win.top + need ∨ overflows w need then (s, .trap 0x07 0 0)
  else served c s (roomNeed w need) (.room need) go

/-- R106: the first callee of frame f is detached. -/
def callDetached (w : Wave) (f : Frame) : Bool := frameEnd f != w.win.top
/-- R106: the rows that n callees of frame f write: their copied ins and their link rows, or the ins alone. -/
def calleeRows (w : Wave) (f : Frame) (n : Nat) (links : Bool) : List Nat :=
  let first := if callDetached w f then w.win.top else w.win.top - f.nout
  (List.range n).flatMap fun k =>
    let nb := first + k * (f.nout + 1)
    (if k = 0 ∧ !callDetached w f then [] else (List.range f.nout).map fun j => ringRow w (nb + j)) ++
      (if links then [ringRow w (nb + f.nout)] else [])
/-- R97, R106: the rows that the calls of n callees copy: the caller's outs and, where there is room, the callees' ins. -/
def copiedRows (w : Wave) (f : Frame) (n : Nat) : List Nat :=
  let outs := (List.range f.nout).map fun j => ringRow w (f.base + f.nin + 1 + f.nloc + j)
  if callDetached w f ∨ 1 < n then
    outs ++ (if callRows w f + (n - 1) * (f.nout + 1) ≤ wfree w then calleeRows w f n false else [])
  else []
/-- The usage that an instruction has for the split that issues. -/
def usageOf (s : State) (f : Wave → Nat → Usage) : Usage := match s.cur with
  | none => { closes := true }
  | some (wv, sp) => f (waveAt s wv) sp

def execCall (y : Bool) (o : BitVec 23) (s : State) : Result' :=
  issue s y (usageOf s fun w sp => { closes := true, copied := copiedRows w (getSplit w sp).frame 1 }) (fun c s =>
    callGate c s (callRows (waveAt s c.wv) c.split.frame)
      (onWave s c.wv fun w => contestRows c.free (calleeRows w c.split.frame 1 true) (BitVec.allOnes 128)
        (doCall c.view c.sp 1 (target c.split.pc o.toInt) (pcNext c.split.pc) c.split.leftover w), .moved))

/-- R106: rows for n callees of frame f: at most the first is overlaid. -/
def callxRows (w : Wave) (f : Frame) (n : Nat) : Nat := callRows w f + (n - 1) * (f.nout + 1)

/-- R106, R372: the new splits of a CALLX call in lowest-lane order, each from the caller's frame. -/
def callOthers (view : Wave) (x : Split) (ret : Nat) : List (Nat × Mask) → Wave → Wave
  | [], w => w
  | g :: t, w => match freeEntry w with
    | none => w
    | some e => callOthers view x ret t (doCall view e 2 g.1 ret {} (putSplit w e (newSplitOf x g.2 g.1)))

/-- R106: the callees that a CALLX makes of its target groups: one for the lowest target, one for each other that finds a free entry. -/
def callees (w : Wave) (groups : Nat) : Nat := min groups (1 + freeEntries w)

def execCallx (y : Bool) (a : VReg) (s : State) : Result' :=
  issue s y (usageOf s fun w sp =>
      let c : Ctx := { wv := 0, sp := sp, view := w, split := getSplit w sp, act := actOf w sp, wm := 0, free := 0 }
      { vr := [(a.val, 1)], closes := true,
        copied := copiedRows w c.split.frame (callees w (targetGroups (laneTarget c a) c.act).length) }) (fun c s =>
    let w := waveAt s c.wv
    match targetGroups (laneTarget c a) c.act with
    | [] => (s, .done)
    | g0 :: rest =>
      let free := freeEntries w
      let made := rest.take free
      let left := unionMasks (rest.drop free)
      let lanes := liveLanes w c.sp
      if left ≠ 0 ∧ c.split.leftover.held then (s, .trap 0x0A 0 0)
      else if !c.split.retry && (maskList lanes).any (fun i => cntGet w i == 63) then (s, .trap 0x09 0 0)
      else callGate c s (callxRows w c.split.frame (1 + made.length))
        (onWave s c.wv fun w =>
          contestRows c.free (calleeRows w c.split.frame (1 + made.length) true) (BitVec.allOnes 128) <|
          let w1 := if c.split.retry then w else cntMap lanes (fun _ k => if 0 < k then k + 1 else k) 128 w
          let w2 := cntMap left (fun _ _ => 1) 128 w1
          let rec' : Leftover := if left = 0 then c.split.leftover
            else { held := true, kind := 1, lanes := left, addr := c.split.pc }
          let x := getSplit w2 c.sp
          let w3 := putSplit w2 c.sp { x with retry := false, lanes := x.lanes &&& ~~~ unionMasks made }
          let w4 := doCall c.view c.sp 2 g0.1 (pcNext c.split.pc) rec' w3
          callOthers c.view c.split (pcNext c.split.pc) made w4, .moved))

/-- R107: the copy-back of a detached frame, in the non-exited lanes of the split. -/
def copyBack (view : Wave) (sp : Nat) (l : Link) (f : Frame) (w : Wave) : Wave :=
  (List.range f.nin).foldl (fun w j =>
    writeRow w (ringRow w (l.frame.base + l.frame.nin + 1 + l.frame.nloc + j)) (liveLanes w sp)
      fun i => rowGet view (ringRow view (f.base + j)) i) w

/-- R372: RET from a CALLX frame: the leftover lanes call, or every raised lane drops by one. -/
def retCallx (sp : Nat) (w : Wave) : Wave :=
  let x := getSplit w sp
  let lanes := liveLanes w sp
  if x.leftover.held && x.leftover.kind == 1 then
    let w1 := cntMap lanes (fun i k => if mbit x.leftover.lanes i then 0 else if k = 0 then 1 else k) 128 w
    putSplit w1 sp { x with leftover := {}, retry := true, pc := x.leftover.addr }
  else cntMap lanes (fun _ k => k - 1) 128 w

/-- R107. -/
def doRet (view : Wave) (sp : Nat) (l : Link) (w : Wave) : Wave :=
  let x := getSplit w sp
  let w1 := if l.det then copyBack view sp l x.frame w else w
  let w2 := putSplit w1 sp { unparked x with frame := l.frame, leftover := l.leftover, pc := l.ret }
  popDead (refreshLive (if l.kind = 2 then retCallx sp w2 else w2))

/-- R107: the rows of the caller that the copy-back of a detached frame writes. -/
def retRows (w : Wave) (f : Frame) (l : Link) : List Nat :=
  if l.det then (List.range f.nin).map fun j => ringRow w (l.frame.base + l.frame.nin + 1 + l.frame.nloc + j) else []
/-- R97, R107: the rows that a RET copies: its ins and, once the caller's record is resident, the caller's outs. -/
def retCopied (w : Wave) (sp : Nat) : List Nat :=
  let f := (getSplit w sp).frame
  let l := readLink w (linkPos f)
  if l.kind = 0 ∨ !l.det then []
  else ((List.range f.nin).map fun j => ringRow w (f.base + j)) ++ (if w.win.bottom ≤ linkPos l.frame then retRows w f l else [])

def execRet (y : Bool) (s : State) : Result' :=
  issue s y (usageOf s fun w sp => { closes := true, copied := retCopied w sp }) (fun c s =>
    let w := waveAt s c.wv
    let l := readLink w (linkPos c.split.frame)
    if l.kind = 0 then (recheck (putWave s c.wv (exitLanes w c.sp (liveLanes w c.sp))) c.wv, .moved)
    else
      let pos := linkPos l.frame
      served c s (if pos < w.win.bottom then some .refill else none) (.refill pos) (onWave s c.wv fun w =>
        contestRows c.free (retRows w c.split.frame l) (liveLanes w c.sp) (doRet c.view c.sp l w), .moved))

/-- R109: no spill write of the wave is under way. A spill write is complete at device scope when it is made, but for one to a replicated
page, which is complete with its commit (R209). -/
def spillsDone (s : State) (wv : Nat) : Bool :=
  (waveAt s wv).commits == 0 || !(s.dev.commits.any fun k => k.spill && k.wave == wv)
/-- R109. -/
def execWflush (y : Bool) (s : State) : Result' :=
  issue s y {} (fun c s => if spillsDone s c.wv then (s, .done) else (s, .wait .spillWrites))
/-- R108. -/
def execRdlink (y : Bool) (d : SReg) (s : State) : Result' :=
  issue s y (useSw d) (onRegs fun c w =>
    let l := readLink w (linkPos c.split.frame)
    sset w d.val (BitVec.ofNat 64 ((l.frame.nin + l.frame.nloc) % 2 ^ 7 * 2 ^ 57 + l.ret / 4 * 4 + b2n (l.kind == 0) * 2 + b2n l.leftover.held)))
def execWrlink (y : Bool) (a : SReg) (s : State) : Result' :=
  issue s y (useSr a) (onRegs fun c w =>
    let p := linkPos c.split.frame
    let v := (sca c a).toNat % 2 ^ 57 / 4 * 4
    if (readLink w p).kind = 0 then w
    else rowSet (rowSet w (ringRow w p) 0 (BitVec.ofNat 32 v)) (ringRow w p) 1 (BitVec.ofNat 32 (v / 2 ^ 32)))

/-- R116: the transfer that the split is parked on has failed for good, and no split has been parked on it longer. -/
def failedFirst (w : Wave) (x : Split) : Bool :=
  match w.win.service with
  | .failed op _ _ => parkedOn op x && (opParks w op).all fun i => decide (x.park.since ≤ (getSplit w i).park.since)
  | _ => false
/-- R111: a park on room or refill is over. -/
def parkOver (w : Wave) (x : Split) : Bool :=
  match x.park.kind with
  | .no => true
  | .room n => decide (n ≤ wfree w) || failedFirst w x
  | .highest => decide ((highestRec w).start = (recOfLink w (linkPos x.frame)).start)
  | .refill p => decide (w.win.bottom ≤ p) || failedFirst w x
  | .service => match w.win.service with
    | .waiting _ _ _ => false
    | _ => true
  | .merge => false
  | .collective => false

/-- R110: the engine can spill the bottom record now, or release it. -/
def canSpill (w : Wave) : Bool :=
  match residentRecs w with
  | [] => false
  | (r, e) :: _ => !r.live || (maySpill w r.start e && decide (w.win.bused + recordBytes w (e - r.start) ≤ w.win.bsize))
/-- R110: the record spilled last, if any; it needs the positions from its start up to the ring bottom. -/
def lastSpilled (w : Wave) : Option FrameRec := (w.win.records.filter fun r => r.start < w.win.bottom).getLast?
def canRefill (w : Wave) : Bool := match lastSpilled w with
  | none => false
  | some r => !r.live || decide (w.win.bottom - r.start ≤ wfree w)

/-- R116: the engine may start a transfer of this kind: it is not the blocked one. -/
def mayStart (w : Wave) (op : Transfer) : Bool := match w.win.service with
  | .clear => true
  | .waiting b _ _ => b != op
  | .failed b _ _ => b != op
def serviceWaits (w : Wave) : Bool := match w.win.service with
  | .waiting _ _ _ => true
  | _ => false
/-- R111: every live split is parked on room or refill and no spill, refill or outstanding write can help: the split that parked first.
A spill makes room only for a CALL, CALLX or FRAME (R110). -/
def windowStuck (w : Wave) : Option Nat :=
  let parks := roomParks w
  if w.out.isEmpty ∧ parks.length = (liveSplits w).length ∧ !serviceWaits w ∧ !(parks.any fun i => parkOver w (getSplit w i)) ∧
      !(canSpill w && mayStart w .spill && opParks w .spill != []) ∧ !(canRefill w && mayStart w .refill && opParks w .refill != []) then
    minBy (fun i => (getSplit w i).park.since) parks
  else none
/-- R111: the frame-size trap of a stuck window. -/
def checkWindow (s : State) (wv : Nat) : State :=
  match tbGet? s.waves wv with
  | none => s
  | some w => match windowStuck w with
    | none => s
    | some i => takeTrap s wv { split := i, code := 0x06, tpc := (getSplit w i).pc }

end Sys2Proof.Machine
end

