-- ==== Sys2Proof/Machine/TrapInstr.lean ====
section
/-!
DEFINITION. TRAP, TRET, REGION, REGEND, opcodes 0x97 to 0x9A (22: R396, R397), the barriers 0x9B to 0x9D (21: R380 to R384), and the read
filter of a region (R399, R400).
-/
namespace Sys2Proof.Machine

def execTrap (y : Bool) (i : BitVec 16) (s : State) : Result' := issue s y {} (fun _ s => (s, .trapAfter 0x11 i.toNat))
/-- R396: with HND = 0, TRET is an illegal instruction. -/
def execTret (y : Bool) (s : State) : Result' :=
  issue s y {} (fun c s =>
    let w := waveAt s c.wv
    if handlerRuns w then (putWave s c.wv (returnTrap w c.sp), .moved) else (s, .trap 0x01 0 0))

/-- R397: the snapshot of a split. -/
def snapshot (w : Wave) (sp : Nat) : Snapshot :=
  let x := getSplit w sp
  { mode := x.mode, counters := spKeep (fun i => mbit x.lanes i) w.ctl.counters, frame := x.frame, leftover := x.leftover,
    retry := x.retry, batch := w.batch, lanes := x.lanes }
def execRegion (y : Bool) (s : State) : Result' :=
  issue s y { closes := true } (onRegs fun c w =>
    let x := getSplit w c.sp
    let r : Region := { isOpen := true, entry := pcNext x.pc, snap := snapshot w c.sp, rollbacks := 0, cnt := (x.region.cnt + 1) % 2 ^ 64,
                        filter := [], opened := w.evt.openings + 1 }
    let w1 := putSplit w c.sp { x with region := r }
    { w1 with evt := { w1.evt with openings := w1.evt.openings + 1 } })
def execRegend (y : Bool) (s : State) : Result' := issue s y { closes := true } (onRegs fun _ w => w)

/-! Barriers. An arrival is a release (R384), and waits as one. -/
def barUse (arrives : Bool) : Usage := { skipExec := true, collective := true, closes := arrives }
/-- R383: an arrival while one is pending adds nothing. -/
def arrive (s : State) (wv b : Nat) : State :=
  let w := waveAt s wv
  if w.tim.pending.contains b then s
  else
    let ph := (groupAt s w.group).phases.getD b false
    let w1 : Wave := { w with tim := { w.tim with pending := b :: w.tim.pending, seen := (b, ph) :: w.tim.seen.filter fun p => p.1 != b } }
    barrierCheck (putWave s wv w1) w.group b
/-- R383: the generation of the last arrival is not complete. -/
def mustWait (s : State) (wv b : Nat) : Bool := (waveAt s wv).tim.pending.contains b

def execBar (y : Bool) (n : Fin 16) (s : State) : Result' :=
  issue s y (barUse true) (fun c s =>
    let again := (waveAt s c.wv).tim.owed == some (n.val, c.split.pc)
    if !again && !releaseClear s c.wv then (s, .wait .arrival) else
    let s0 := onWave s c.wv fun w => { w with tim := { w.tim with owed := none } }
    let s1 := if again then s0 else arrive s0 c.wv n.val
    (s1, if mustWait s1 c.wv n.val then .wait (.barrier n.val) else .done))
def execBararv (y : Bool) (n : Fin 16) (s : State) : Result' :=
  issue s y (barUse true) (fun c s => if releaseClear s c.wv then (arrive s c.wv n.val, .done) else (s, .wait .release))
def execBarwt (y : Bool) (n : Fin 16) (s : State) : Result' :=
  issue s y (barUse false) (fun c s => (s, if mustWait s c.wv n.val then .wait (.barrier n.val) else .done))

/-! The read filter (R400). A key is the line of a physical global address, or 2^52 + block for scratchpad. -/
def spadKey (off : Nat) : Nat := 2 ^ 52 + off / 128
def lineKey (a : Nat) : Nat := a / 128
/-- R400: more than 64 lines are never kept; the 65th marks the filter as full. -/
def filterAdd (keys : List Nat) (f : List Nat) : List Nat :=
  keys.foldl (fun f k => if f.contains k || 64 < f.length then f else f ++ [k]) f
/-- R400: the lines that a split reads inside its open region. -/
def noteReads (w : Wave) (sp : Nat) (keys : List Nat) : Wave :=
  let x := getSplit w sp
  if x.region.isOpen then putSplit w sp { x with region := { x.region with filter := filterAdd keys x.region.filter } } else w
/-- R399, R400: a store to a recorded line, or any store once the filter is full, closes the region. -/
def noteWrites (w : Wave) (sp : Nat) (keys : List Nat) : Wave :=
  let x := getSplit w sp
  if x.region.isOpen && (64 < x.region.filter.length || keys.any fun k => x.region.filter.contains k) then putSplit w sp (closeRegion x) else w

end Sys2Proof.Machine
end

