-- ==== Sys2Proof/Machine/Translate.lean ====
section
/-!
DEFINITION. Translation of virtual addresses (19: R349 to R354), the carve-out and window checks (R361, R421), the far-scratchpad aperture
(R168), and the TLB of a core (R353). A walk is made where an access needs it.
-/
namespace Sys2Proof.Machine

/-- The outcome of a translation. -/
inductive XRes where
  | ok (pa pte : Nat)
  /-- Check 4 of R182: not present, at this level. -/
  | absent (level : Nat)
  /-- Check 2 of R182, with REASON and LEVEL of R354. -/
  | prot (reason level : Nat)
  /-- R210: the walk meets an entry in a line that a commit locks. -/
  | held (line : Nat)
  deriving DecidableEq, Repr

/-! Page-table entries (R350). -/
def pteV (e : Nat) : Bool := bitOf e 0
def ptePRIV (e : Nat) : Bool := bitOf e 2
def pteW (e : Nat) : Bool := bitOf e 3
def pteX (e : Nat) : Bool := bitOf e 4
def pteA (e : Nat) : Bool := bitOf e 5
def pteD (e : Nat) : Bool := bitOf e 6
def pteLeaf (e : Nat) : Bool := bitOf e 7
def pteG (e : Nat) : Bool := bitOf e 8
def pteC64 (e : Nat) : Bool := bitOf e 9
def pteClass (e : Nat) : Nat := bitsOf e 10 2
def pteBase (e : Nat) : Nat := bitsOf e 12 40 * 4096
def pteBS (e : Nat) : Bool := bitOf e 57
def pteRepl (e : Nat) : Bool := bitOf e 58
def pteSealed (e : Nat) : Bool := bitOf e 59
def pteReserved (e : Nat) : Bool := bitOf e 1 || bitsOf e 52 5 != 0 || bitsOf e 60 4 != 0
/-- Bits of a page at a level. -/
def pageBits (level : Nat) : Nat := 12 + 9 * (level - 1)
/-- R350: attributes that a non-leaf entry must hold as zero. -/
def pteAttrs (e : Nat) : Bool :=
  pteSealed e || pteRepl e || pteBS e || pteClass e != 0 || pteX e || pteW e || ptePRIV e
/-- R350, R351 order 2. -/
def pteMalformed (level : Nat) (leaf : Bool) (e : Nat) : Bool :=
  pteReserved e || (decide (4 ≤ level) && pteLeaf e) || pteClass e == 3 ||
  (if leaf then pteBase e % 2 ^ pageBits level != 0 else pteAttrs e)

/-- A walk: the entries read with their level, and whether the last is a leaf. -/
structure WalkStep where
  level : Nat
  addr : Nat
  pte : Nat
  leaf : Bool
  deriving DecidableEq, Repr

/-- R349, R351: the entries of a walk from the table at `base`, level `n` down. -/
def walkFrom (s : State) (va : Nat) : Nat → Nat → List WalkStep
  | 0, _ => []
  | n + 1, base =>
    let a := base + bitsOf va (12 + 9 * n) 9 * 8
    let e := homeNat s a 8
    let leaf := n == 0 || pteLeaf e
    let st : WalkStep := { level := n + 1, addr := a, pte := e, leaf := leaf }
    if !pteV e || leaf then [st] else st :: walkFrom s va n (pteBase e)

/-- R352: the sixteen entries of a 64 KiB range agree. -/
def c64Good (es : List Nat) : Bool :=
  let e0 := es.headD 0
  pteBase e0 % 2 ^ 16 == 0 &&
  ((List.range 16).all fun k =>
    let e := es.getD k 0
    pteV e && pteC64 e && pteBase e == pteBase e0 + 4096 * k &&
      bitsOf e 52 12 == bitsOf e0 52 12 && bitsOf e 8 4 == bitsOf e0 8 4 && bitsOf e 0 5 == bitsOf e0 0 5)
/-- R352: the entry that an access translates with; where C64 is set in entries of the range that break the conditions, one of the sixteen, a
free choice. -/
def c64Entry (s : State) (addr e va : Nat) : Nat :=
  let first := addr / 128 * 128
  let es := (List.range 16).map fun k => homeNat s (first + 8 * k) 8
  if es.any pteC64 && !c64Good es then es.getD (Config.anyValue s.free (va / 2 ^ 16) % 16) e else e

/-- R361, R421: the frame lies in the carve-out, or in a window that the island may use. -/
def frameAllowed (i : Island) (pa : Nat) : Bool :=
  if pa < 2 ^ 38 then decide ((islCarve i).1 ≤ pa) && decide (pa < (islCarve i).1 + (islCarve i).2)
  else if pa / 2 ^ 48 = 8 then bitOf i.windows 0
  else if pa / 2 ^ 48 = 9 then bitOf i.windows (16 + bitsOf pa 44 4)
  else false

/-- R351 order 3, R182 check 2, R361: the reason of a failure, 0 for none. Access 0 read, 1 write, 2 atomic, 3 fetch. -/
def permReason (i : Island) (access : Nat) (priv : Bool) (pte pa : Nat) : Nat :=
  if (access == 1 || access == 2) && !pteW pte then 2
  else if access == 3 && !pteX pte then 2
  else if (ptePRIV pte || pteBS pte) && !priv then 2
  else if pteSealed pte && !islSealed i then 3
  else if !frameAllowed i pa then 4
  else 0

/-- R351: A, and D for a write, in the leaf at the home agent. -/
def markLeaf (s : State) (addr pte access : Nat) : State :=
  let want := pte ||| 0x20 ||| (if access = 1 ∨ access = 2 then 0x40 else 0)
  if want = pte then s else homeWrite s addr (leBytes 8 want)

/-- R353: the cached translation of an address. -/
def tlbFind (s : State) (core isl va : Nat) : Option TlbEntry :=
  (coreAt s core).tlb.find? fun t =>
    t.island == isl && (t.asid == islAsid (islandAt s isl) || pteG t.attrs) && va / 2 ^ t.size == t.va / 2 ^ t.size
def tlbAdd (s : State) (core : Nat) (t : TlbEntry) : State :=
  let c := coreAt s core
  putCore s core { c with tlb := t :: c.tlb.filter fun u => !(u.island == t.island && u.va / 2 ^ u.size == t.va / 2 ^ u.size) }

/-- R353: the bits of the page that a cached translation belongs to. -/
def tlbPage (t : TlbEntry) : Nat := if t.size = 12 ∧ pteC64 t.attrs then 16 else t.size

/-- R210: the replicas of the line are locked. -/
def isLocked (s : State) (line : Nat) : Bool := s.dev.commits.any fun c => c.line == line
/-- R361: the address lies in the island's carve-out. -/
def inCarve (i : Island) (pa : Nat) : Bool := decide ((islCarve i).1 ≤ pa) && decide (pa < (islCarve i).1 + (islCarve i).2)
/-- R423: the address lies in the sealed carve-out of another island, which an agent of this one may not read. -/
def sealedFrom (s : State) (isl pa : Nat) : Bool := s.islands.any fun e => e.1 != isl && islSealed e.2 && inCarve e.2 pa
/-- What ends a walk at an entry before it is classified: an entry in another island's sealed carve-out (R423; REASON 3, DESIGN CHOICE, log 26),
in a line that a commit locks (R210), or with an uncorrectable error (R412). -/
def stepStop (s : State) (isl : Nat) (st : WalkStep) : Option XRes :=
  if sealedFrom s isl st.addr then some (.prot 3 st.level)
  else if isLocked s (st.addr / 128) then some (.held (st.addr / 128))
  else if isPoisoned s (st.addr / 128) then some (.prot 1 st.level)
  else none
/-- R351: a walk, its classification, the A and D bits, and the TLB entry of a success. -/
def walk (s : State) (core isl va access : Nat) (priv : Bool) : State × XRes :=
  let i := islandAt s isl
  let steps := walkFrom s va 5 (islRoot i)
  match steps.getLast?, steps.findSome? (stepStop s isl) with
  | none, _ => (s, .absent 5)
  | some _, some r => (s, r)
  | some l, none =>
    if !pteV l.pte then (s, .absent l.level)
    else match steps.find? fun st => pteMalformed st.level st.leaf st.pte with
      | some st => (s, .prot 1 st.level)
      | none =>
        let e := if l.level = 1 then c64Entry s l.addr l.pte va else l.pte
        let n := pageBits l.level
        let pa := pteBase e + va % 2 ^ n
        let r := permReason i access priv e pa
        if r ≠ 0 then (s, .prot r l.level)
        else
          let s1 := markLeaf s l.addr l.pte access
          let e' := e ||| (if access = 1 ∨ access = 2 then 0x60 else 0x20)
          (tlbAdd s1 core { island := isl, asid := islAsid i, va := va / 2 ^ n * 2 ^ n, size := n, pa := pteBase e, attrs := e' }, .ok pa e')

/-- R351, R353: the translation of an address by an agent of a core, from the TLB or by a walk. -/
def translate (s : State) (core isl va access : Nat) (priv : Bool) : State × XRes :=
  match tlbFind s core isl va with
  | some t =>
    let pa := t.pa + va % 2 ^ t.size
    let r := permReason (islandAt s isl) access priv t.attrs pa
    if r ≠ 0 then (s, .prot r (1 + (t.size - 12) / 9))
    else if (access = 1 ∨ access = 2) ∧ !pteD t.attrs then walk s core isl va access priv
    else (s, .ok pa t.attrs)
  | none => walk s core isl va access priv

/-! The aperture (R168). -/
/-- The offset of an address in the island's aperture. -/
def apertureOff (s : State) (isl va : Nat) : Option Nat :=
  let f := islFbase (islandAt s isl)
  if islValid (islandAt s isl) && decide (f ≤ va) && decide (va < f + 2 ^ 25) then some (va - f) else none
/-- R173: the mode of way k. -/
def wayMode (ways k : Nat) : Nat := if k < 4 then 0 else bitsOf ways (2 * k) 2
/-- R36, R176: the island holds the cluster itself, not by borrowing. -/
def ownsCluster (s : State) (isl cl : Nat) : Bool := bitOf (islClusters (islandAt s isl)) cl
/-- R168: an offset whose way is in far mode, seen from an island that owns the cluster. -/
def farLegal (s : State) (isl cl o : Nat) : Bool :=
  decide (o < 2 ^ 24) && wayMode (clusterAt s cl).ways (o / 2 ^ 20) == 1 && ownsCluster s isl cl
/-- R176: the values of the SRCFGs that have parked on a cluster. -/
def srcfgValues (s : State) (cl : Nat) : List Nat := s.waves.filterMap fun e =>
  if clusterOf e.2 = cl ∧ !(groupAt s e.2.group).away then e.2.ctl.srcfg.map (·.2) else none
/-- R176: the way of an offset enters far mode when a SRCFG that has parked completes. -/
def farSoon (s : State) (isl cl o : Nat) : Bool :=
  decide (o < 2 ^ 24) && ownsCluster s isl cl && (srcfgValues s cl).any fun v => wayMode v (o / 2 ^ 20) == 1
/-- R176: it leaves far mode then. -/
def farLeaves (s : State) (cl o : Nat) : Bool := (srcfgValues s cl).any fun v => wayMode v (o / 2 ^ 20) != 1

/-- TABLE_WALK (R351): the walker translates an address for an agent of a core. -/
def execTableWalk (core island asid va kind : Nat) (s : State) : Result' :=
  event (if asid = islAsid (islandAt s island) ∧ va < 2 ^ 57 ∧ kind < 4 then (walk s core island va kind true).1 else s)

end Sys2Proof.Machine
end

