-- ==== Sys2Proof/Machine/Cache.lean ====
section
/-!
DEFINITION. The L1 of a core, the cache ways of a cluster, the home agents, and what moves between them: fills, stores, evictions (R172 to
R174), release pushes and acquire invalidations (R188), release records and promotion (R204 to R206), recalls by owning engines (R207),
replicated commits (R209, R210) and cache control (R192, R193).
-/
namespace Sys2Proof.Machine

/-- The bytes of one line at home that are not 0, by offset in the line. -/
def homeLine (s : State) (line : Nat) : Sparse Byte :=
  if s.dev.veils.any (veilMeets line) then
    (List.range 128).filterMap fun k => let b := homeByte s (line * 128 + k)
                                        if b = 0 then none else some (k, b)
  else (s.dev.mem.filter fun e => e.1 / 128 == line).map fun e => (e.1 % 128, e.2)
/-- R172: the dirty bytes of a line over fetched ones. -/
def overlay (under : Sparse Byte) (l : Line) : Sparse Byte :=
  (spKeep (mbit l.dirty) l.data).foldl (fun m e => spSet 0 m e.1 e.2) (spKeep (fun k => !mbit l.dirty k) under)
/-- R421: peer memory is never cached. -/
def cacheable (pa : Nat) : Bool := pa / 2 ^ 48 != 9

def findLine (ls : List Line) (line isl : Nat) : Option Line := ls.find? fun l => l.line == line && l.island == isl
def putLine (ls : List Line) (x : Line) : List Line :=
  if ls.any fun l => l.line == x.line && l.island == x.island then
    ls.map fun l => if l.line == x.line && l.island == x.island then x else l
  else x :: ls
def dropLine (ls : List Line) (line isl : Nat) : List Line := ls.filter fun l => !(l.line == line && l.island == isl)

/-! Writing bytes through. -/
/-- Bytes given by offset, written home. -/
def homeWriteLine (s : State) (line : Nat) (bytes : Sparse Byte) : State :=
  bytes.foldl (fun s e => homePut s (line * 128 + e.1) e.2.toNat) s
/-- The dirty bytes of a line, by offset, zero bytes included. -/
def dirtyBytes (l : Line) : List (Nat × Byte) := (maskList l.dirty).map fun k => (k, spGet 0 l.data k)
/-- R172, R211: only dirty bytes are written back; a write of the whole line clears its poison. -/
def writeBackHome (s : State) (l : Line) : State :=
  let s1 := homeWriteLine s l.line (dirtyBytes l)
  if l.dirty = BitVec.allOnes 128 then clearPoison s1 l.line else s1

/-- How an access reaches a line (R174): a demand access to a page of a class, a PREF with a class, or bytes written back from a line of a class. -/
inductive Touch where
  | demand (cls : Nat)
  | pref (cls : Nat)
  | back (cls : Nat)
  deriving DecidableEq, Repr
def touchClass : Touch → Nat
  | .demand c => c
  | .pref c => c
  | .back c => c

/-- R174: order of victims: lines with nothing valid, then class, then use; the L1 takes pinned lines as reuse. -/
def victimKey (top : Nat) (l : Line) : Nat := if l.valid = 0 then 0 else (1 + min l.cls top) * 2 ^ 70 + l.stamp
/-- The cache ways of a cluster. -/
def cacheWays (c : Cluster) : List Nat := (List.range 16).filter fun k => wayMode c.ways k == 0
/-- R173: the effective PINW. -/
def pinWays (c : Cluster) : Nat := min (bitsOf c.ways 36 4) ((cacheWays c).length - 1)

/-- R173, R174: room for a line in its set: a free way, or the victim's, whose dirty bytes go home. -/
def sliceRoom (s : State) (cl line : Nat) : State × Nat :=
  let c := clusterAt s cl
  let set := c.lines.filter fun l => l.line % 8192 == line % 8192
  match (cacheWays c).find? fun k => !(set.any fun l => l.way == k) with
  | some k => (s, k)
  | none => match minBy (victimKey 2) set with
    | none => (s, 0)
    | some v =>
      let s1 := writeBackHome s v
      let c1 := clusterAt s1 cl
      (putCluster s1 cl { c1 with lines := dropLine c1.lines v.line v.island }, v.way)
/-- R173, R174: the set of a line holds the effective PINW pinned lines. -/
def pinFull (c : Cluster) (line : Nat) : Bool :=
  decide (pinWays c ≤ (c.lines.filter fun l => l.line % 8192 == line % 8192 && l.cls == 2).length)
/-- R174: the class of a new line; a pin beyond PINW allocates as reuse. -/
def allocClass (full : Bool) (t : Touch) : Nat := if touchClass t = 2 ∧ full then 1 else touchClass t
/-- R174: a demand access of class reuse raises a streaming line to reuse, and PREF.pin a line to pinned; beyond PINW it leaves the line as
reuse, as at allocation (DEDUCED, log 48). Nothing lowers a class, and nothing else raises one. -/
def raiseClass (full : Bool) (cls : Nat) : Touch → Nat
  | .demand c => if c = 1 then max cls 1 else cls
  | .pref c => if c = 2 then (if full then max cls 1 else 2) else cls
  | .back _ => cls

/-- The line of a cluster slice, allocated if need be, without fetching. -/
def sliceAlloc (s : State) (cl isl line : Nat) (t : Touch) : State × Line :=
  match findLine (clusterAt s cl).lines line isl with
  | some l => (s, { l with cls := raiseClass (pinFull (clusterAt s cl) line) l.cls t, stamp := (clusterAt s cl).stamp })
  | none =>
    let (s1, way) := sliceRoom s cl line
    let c := clusterAt s1 cl
    (s1, { line := line, island := isl, way := way, cls := allocClass (pinFull c line) t, stamp := c.stamp })
def sliceStore (s : State) (cl : Nat) (l : Line) : State :=
  let c := clusterAt s cl
  putCluster s cl { c with lines := putLine c.lines l, stamp := c.stamp + 1 }
/-- R173: a line of the slice with every byte valid; what comes from a poisoned line stays so in the copy (R212). -/
def sliceFill (s : State) (cl isl line : Nat) (t : Touch) : State × Line :=
  let (s1, l) := sliceAlloc s cl isl line t
  let l' := if l.valid = BitVec.allOnes 128 then l
    else { l with data := overlay (homeLine s1 line) l, valid := BitVec.allOnes 128, bad := l.bad || isPoisoned s1 line }
  (sliceStore s1 cl l', l')

/-- Dirty bytes arriving at the slice from an L1 of the cluster. -/
def sliceReceive (s : State) (cl : Nat) (x : Line) : State :=
  let (s1, l) := sliceAlloc s cl x.island x.line (.back x.cls)
  let data := (dirtyBytes x).foldl (fun m e => spSet 0 m e.1 e.2) (spKeep (mbit l.valid) l.data)
  sliceStore s1 cl { l with data := data, valid := l.valid ||| x.dirty, dirty := l.dirty ||| x.dirty,
                            bad := l.bad && l.dirty ||| x.dirty != BitVec.allOnes 128 }

/-- R172: room in the L1 set of a line; the victim's dirty bytes go to the slice. -/
def l1Room (s : State) (core line : Nat) : State :=
  let c := coreAt s core
  let set := c.l1.filter fun l => l.line % 256 == line % 256
  if set.length < 20 then s
  else match minBy (victimKey 1) set with
    | none => s
    | some v =>
      let s1 := if v.dirty = 0 then s else sliceReceive s (core / 8) v
      let c1 := coreAt s1 core
      putCore s1 core { c1 with l1 := dropLine c1.l1 v.line v.island }
def l1Alloc (s : State) (core isl line : Nat) (t : Touch) : State × Line :=
  match findLine (coreAt s core).l1 line isl with
  | some l => (s, { l with cls := raiseClass false l.cls t, stamp := (coreAt s core).stamp })
  | none => (l1Room s core line, { line := line, island := isl, cls := touchClass t, stamp := (coreAt s core).stamp })
def l1Store (s : State) (core : Nat) (l : Line) : State :=
  let c := coreAt s core
  putCore s core { c with l1 := putLine c.l1 l, stamp := c.stamp + 1 }
/-- R172: a load that meets invalid bytes fetches the line and keeps its dirty bytes over the fetched ones. -/
def l1Fill (s : State) (core isl line : Nat) (t : Touch) : State × Line :=
  let (s1, l) := l1Alloc s core isl line t
  if l.valid = BitVec.allOnes 128 then (l1Store s1 core l, l)
  else
    let (s2, sl) := sliceFill s1 (core / 8) isl line t
    let l' := { l with data := overlay sl.data l, valid := BitVec.allOnes 128, bad := l.bad || sl.bad }
    (l1Store s2 core l', l')

/-! Plain accesses of a wave at a physical address; an access never crosses a line. -/
/-- A read of n bytes through the L1. -/
def cacheRead (s : State) (core isl pa n cls : Nat) : State × Nat :=
  if !cacheable pa then (s, homeNat s pa n)
  else
    let (s1, l) := l1Fill s core isl (pa / 128) (.demand cls)
    (s1, leNat ((List.range n).map fun j => (spGet 0 l.data (pa % 128 + j)).toNat))
/-- Bytes put into a line at an offset; a line of which every byte has been stored to is sound again (R211). -/
def lineWith (l : Line) (off : Nat) (bytes : List Nat) (dirty : Bool) : Line :=
  let m := maskOf fun i => decide (off ≤ i) && decide (i < off + bytes.length)
  { l with
    data := spSetList 0 (spKeep (mbit l.valid) l.data) off (bytes.map (BitVec.ofNat 8)),
    valid := l.valid ||| m, dirty := if dirty then l.dirty ||| m else l.dirty &&& ~~~ m,
    bad := l.bad && l.dirty ||| m != BitVec.allOnes 128 }
/-- R172: a store allocates the line without fetching it and marks only its bytes dirty. -/
def cacheWrite (s : State) (core isl pa cls : Nat) (bytes : List Nat) : State :=
  if !cacheable pa then homeWrite s pa bytes
  else
    let (s1, l) := l1Alloc s core isl (pa / 128) (.demand cls)
    l1Store s1 core (lineWith l (pa % 128) bytes true)

/-! Levels (R188, R203). -/
/-- Where an access at a scope is performed: 0 the L1, 1 the slice, 2 the home agent, 3 the home agent by promotion (R205, R206). -/
def scopeLevel (sc : Nat) : Nat := if sc ≤ 2 then 0 else if sc = 3 then 1 else if sc = 7 then 3 else 2
/-- R189, R285: SC 7 acts as device scope for fences, ring words and scratchpad. -/
def fenceScope (sc : Nat) : Nat := if sc = 7 then 5 else sc

def cleanLine (l : Line) : Line := { l with dirty := 0 }
/-- The dirty bytes of the L1 line go to the slice, or home past the slice. -/
def pushLine (level core : Nat) (s : State) (l : Line) : State :=
  if l.dirty = 0 ∨ level = 0 then s
  else
    let c := coreAt s core
    let s1 := putCore s core { c with l1 := putLine c.l1 (cleanLine l) }
    if level = 1 then sliceReceive s1 (core / 8) l
    else
      let cl := clusterAt s1 (core / 8)
      let lines := cl.lines.map fun x => if x.line = l.line && x.island = l.island then
        { x with dirty := x.dirty &&& ~~~ l.dirty, valid := x.valid &&& ~~~ l.dirty } else x
      writeBackHome (putCluster s1 (core / 8) { cl with lines := lines }) l
/-- The dirty bytes of a slice line go home; the line stays, clean. -/
def pushSliceLine (cl : Nat) (s : State) (l : Line) : State :=
  if l.dirty = 0 then s
  else
    let s1 := writeBackHome s l
    let c := clusterAt s1 cl
    putCluster s1 cl { c with lines := putLine c.lines (cleanLine l) }
/-- The dirty bytes that the island holds in the slice of a core go home. -/
def pushSlice (s : State) (core isl : Nat) : State :=
  ((clusterAt s (core / 8)).lines.filter fun l => l.island == isl).foldl (pushSliceLine (core / 8)) s
/-- R188: a release at a level pushes every dirty byte of the core's L1; past the slice, those that the island's cores left in the slice
go along, so that what a releasing wave has read is ordered too (R199). -/
def releasePush (s : State) (core isl sc : Nat) : State :=
  let lv := if sc = 7 then 0 else scopeLevel sc
  let s1 := (coreAt s core).l1.foldl (pushLine lv core) s
  if lv = 2 then pushSlice s1 core isl else s1
/-- R188: an acquire invalidates every clean byte of the core's L1. -/
def invalidateClean (s : State) (core : Nat) : State :=
  let c := coreAt s core
  putCore s core { c with l1 := c.l1.map fun l => { l with valid := l.dirty, data := spKeep (mbit l.dirty) l.data, bad := l.bad && l.dirty != 0 } }
def acquireInvalidate (s : State) (core sc : Nat) : State :=
  if scopeLevel sc = 0 ∨ sc = 7 then s else invalidateClean s core

/-- The copies of one line that the core and its slice hold go to the level, so that it holds the wave's latest bytes. -/
def syncLine (s : State) (core isl line level : Nat) : State :=
  let s1 := match findLine (coreAt s core).l1 line isl with
    | some l => pushLine level core s l
    | none => s
  if level = 2 then match findLine (clusterAt s1 (core / 8)).lines line isl with
    | some l => pushSliceLine (core / 8) s1 l
    | none => s1
  else s1
/-- The bytes of a line that an access of n bytes at `pa` covers. -/
def byteMask (pa n : Nat) : Mask := maskOf fun i => decide (pa % 128 ≤ i) && decide (i < pa % 128 + n)
/-- A copy of a line without the bytes of a mask. -/
def dropBytes (m : Mask) (l : Line) : Line := { l with valid := l.valid &&& ~~~ m, dirty := l.dirty &&& ~~~ m, bad := l.bad && l.valid &&& ~~~ m != 0 }
/-- The L1's bytes of a range are stale after an update below it. -/
def forgetL1 (s : State) (core isl pa n : Nat) : State :=
  let c := coreAt s core
  putCore s core { c with l1 := c.l1.map fun l => if l.line = pa / 128 && l.island = isl then dropBytes (byteMask pa n) l else l }

/-- R199, R206: the bytes of one location that the core and its slice hold go home, and their copies are forgotten; other bytes of the line
stay as they are. -/
def pullBytes (s : State) (core isl pa n : Nat) : State :=
  let m := byteMask pa n
  let put (s : State) (o : Option Line) : State := match o with
    | some l => homeWriteLine s l.line (dirtyBytes { l with dirty := l.dirty &&& m })
    | none => s
  let k := clusterAt s (core / 8)
  let c := coreAt s core
  let mine (l : Line) : Bool := l.line == pa / 128 && l.island == isl
  let s1 := put (put s (findLine k.lines (pa / 128) isl)) (findLine c.l1 (pa / 128) isl)
  let s2 := putCluster s1 (core / 8) { k with lines := k.lines.map fun l => if mine l then dropBytes m l else l }
  putCore s2 core { c with l1 := c.l1.map fun l => if mine l then dropBytes m l else l }

/-- R203: a read of n bytes at a level. -/
def levelRead (s : State) (core isl pa n cls level : Nat) : State × Nat :=
  if level = 0 ∨ !cacheable pa then cacheRead s core isl pa n cls
  else if level = 3 then
    let s1 := pullBytes s core isl pa n
    (s1, homeNat s1 pa n)
  else
    let s1 := syncLine s core isl (pa / 128) level
    if level = 1 then
      let (s2, l) := sliceFill s1 (core / 8) isl (pa / 128) (.demand cls)
      (s2, leNat ((List.range n).map fun j => (spGet 0 l.data (pa % 128 + j)).toNat))
    else (s1, homeNat s1 pa n)
/-- R203: a write at a level. -/
def levelWrite (s : State) (core isl pa cls level : Nat) (bytes : List Nat) : State :=
  if level = 0 ∨ !cacheable pa then cacheWrite s core isl pa cls bytes
  else
    let s1 := forgetL1 (syncLine s core isl (pa / 128) level) core isl pa bytes.length
    if level = 1 then
      let (s2, l) := sliceAlloc s1 (core / 8) isl (pa / 128) (.demand cls)
      sliceStore s2 (core / 8) (lineWith l (pa % 128) bytes true)
    else homeWrite s1 pa bytes

/-! Release records and promotion (R204 to R206). -/
def setRecord (s : State) (line core kind : Nat) : State :=
  putDev s { s.dev with records := tbPut s.dev.records line (core, kind) }
/-- R204: the record after a release at a scope. -/
def recordRelease (s : State) (line core sc : Nat) : State :=
  if sc ≤ 2 then s else setRecord s line core (if sc = 7 then 1 else 0)
/-- R197, R204: a store or atomic that follows a FENCE with a release component at SC 3 to 7, which acts as a release at device scope. -/
def recordFenced (s : State) (line core : Nat) : State := setRecord s line core 0
/-- R204: the record of a line after a store or atomic: `rel` is the scope of its own release, `fenced` says that such a FENCE precedes it. -/
def recordStore (fenced : Bool) (rel : Option Nat) (core : Nat) (s : State) (line : Nat) : State := match rel with
  | some sc => if sc ≤ 2 && fenced then recordFenced s line core else recordRelease s line core sc
  | none => if fenced then recordFenced s line core else s
/-- R206: what a promoting acquire of core k does after its read. -/
def promote (s : State) (line k isl : Nat) : State :=
  match tbGet? s.dev.records line with
  | none => s
  | some (c, kind) =>
    if c = k then s
    else if kind = 0 then invalidateClean s k
    else
      let s1 := setRecord (releasePush s c isl 5) line c 0
      invalidateClean s1 k
/-- R205: a promoted release writes its bytes home; the slice keeps no copy of them, and an L1 line that is held takes them as clean. -/
def promotedWrite (s : State) (core isl pa : Nat) (bytes : List Nat) : State :=
  let k := clusterAt s (core / 8)
  let s1 := homeWrite (putCluster s (core / 8) { k with lines := k.lines.map fun l =>
    if l.line = pa / 128 && l.island = isl then dropBytes (byteMask pa bytes.length) l else l }) pa bytes
  let c := coreAt s1 core
  putCore s1 core { c with l1 := c.l1.map fun l =>
    if l.line = pa / 128 && l.island = isl then lineWith l (pa % 128) bytes false else l }

/-! Engines as owning agents (R207). -/
/-- R207: the dirty bytes of every copy of a line go home, slices first, and every copy is invalidated. -/
def recallLine (s : State) (line : Nat) : State :=
  let cls := s.clusters.map (·.1)
  let s1 := cls.foldl (fun s k => (((clusterAt s k).lines.filter fun l => l.line == line).foldl writeBackHome s)) s
  let s2 := (s.cores.map (·.1)).foldl (fun s k => (((coreAt s k).l1.filter fun l => l.line == line).foldl writeBackHome s)) s1
  { s2 with
    cores := tbMap (fun _ c => { c with l1 := c.l1.filter fun l => l.line != line }) s2.cores
    clusters := tbMap (fun _ c => { c with lines := c.lines.filter fun l => l.line != line }) s2.clusters }
def ownLine (id : Nat) (s : State) (line : Nat) : State :=
  let s1 := recallLine s line
  putDev s1 { s1.dev with owned := s1.dev.owned ++ [(line, id)] }
def releaseOwned (s : State) (id : Nat) (lines : List Nat) : State :=
  putDev s { s.dev with owned := s.dev.owned.filter fun p => !(p.2 == id && lines.contains p.1) }
/-- R279: the number under which 128 bytes of a cluster's far scratchpad are owned. -/
def farLine (cl o : Nat) : Nat := 2 ^ 60 + cl * 2 ^ 17 + o / 128
/-- R207: some engine owns the line. -/
def isOwned (s : State) (line : Nat) : Bool := s.dev.owned.any fun p => p.1 == line
/-- R207, R210: why an access to the line waits. -/
def lineWait (s : State) (line : Nat) : Option Wait :=
  if isOwned s line then some (.recall line) else if isLocked s line then some (.replica line) else none

/-- R209: the commit that a write of the same instruction has begun on a line. -/
def sameCommit (s : State) (wv line : Nat) (k : Commit) : Bool := k.line == line && k.wave == wv && k.start == s.dev.cycle && !k.spill
/-- R209: a write to a replicated line locks it; the update follows as REPLICATED_COMMIT. The bytes that one instruction writes to a line are
one commit. -/
def startCommit (s : State) (wv isl pa : Nat) (bytes : List Nat) : State :=
  let ws := (List.range bytes.length).map fun j => (pa + j, BitVec.ofNat 8 (bytes.getD j 0))
  if s.dev.commits.any (sameCommit s wv (pa / 128)) then
    putDev s { s.dev with commits := s.dev.commits.map fun k => if sameCommit s wv (pa / 128) k then { k with writes := k.writes ++ ws } else k }
  else
    let s1 := putDev s { s.dev with commits := s.dev.commits ++ [{ line := pa / 128, island := isl, wave := wv, writes := ws, start := s.dev.cycle }] }
    onWave s1 wv fun w => { w with commits := w.commits + 1 }

/-- R165: a core's L1 is drained: written back and invalidated. -/
def drainL1 (s : State) (core : Nat) : State :=
  let s1 := (coreAt s core).l1.foldl (pushLine 2 core) s
  putCore s1 core { coreAt s1 core with l1 := [] }

end Sys2Proof.Machine
end

