-- ==== Sys2Proof/WellFormed.lean ====
section
/-!
DEFINITION. Which instructions are legal words: the field values of R45, R48, R50 to R52 and R180 that the operand types do not already
bound, and the runs of R47. Event rows have no word; their arguments are free.
-/
namespace Sys2Proof

/-- R47: the `len` registers that begin at `r` lie wholly within g0 to g31 or wholly within w0 to w95. -/
def runOk (r : VReg) (len : Nat) : Bool :=
  if r.val < 32 then decide (r.val + len ≤ 32) else decide (r.val + len ≤ 128)

/-- R52: the assigned control-word numbers. -/
def cwAssigned (n : Nat) : Bool :=
  n ≤ 0x002 || (0x010 ≤ n && n ≤ 0x017) || (0x020 ≤ n && n ≤ 0x027) || (0x030 ≤ n && n ≤ 0x033) ||
  (0x040 ≤ n && n ≤ 0x060) || n == 0x070 || n == 0x071 || (0x100 ≤ n && n ≤ 0x1FF)

/-- R180: the run of a vector access of size code z. -/
def memRun (z : Nat) : Nat := if z = 5 then 2 else if z = 6 then 4 else 1

/-- R51: the run of a QPUSH, or none where the pairing is illegal. -/
def qpushRun (q : Nat) : Option Nat := if q = 0 ∨ q = 2 then some 16 else none
/-- R51: the run of a QPOP, or none where the pairing is illegal. -/
def qpopRun (q : Nat) : Option Nat := if q = 1 ∨ q = 4 then some 8 else if q = 3 then some 16 else none

/-- R45, R50 to R52, R180: the field values. -/
def fieldsOk : Instr → Bool
  | .fcvt _ _ _ ty => ty.val ≤ 10
  | .qswap _ _ _ k => k.val != 0
  | .rdspec _ _ sel => sel.val ≤ 11
  | .ld _ _ _ _ z | .st _ _ _ _ z | .lds _ _ _ _ z | .sts _ _ _ _ z | .lda _ _ _ _ z | .strel _ _ _ _ z => z.val ≤ 6
  | .ldu _ _ _ z _ | .stu _ _ _ z _ => z.val ≤ 5
  | .fence _ z => 1 ≤ z.val && z.val ≤ 3
  | .pref _ _ _ z => z.val ≤ 2
  | .tact _ _ _ _ fn => fn.val ≤ 4
  | .cpyg _ _ _ s _ | .cpys _ _ _ s _ => s.val ≤ 62
  | .qpush _ q _ => (qpushRun q.val).isSome
  | .qpop _ _ q => (qpopRun q.val).isSome
  | .qpeek _ _ q | .qcnt _ _ q => q.val ≤ 4
  | .cwrd _ _ w | .cwwr _ _ w => cwAssigned w.val
  | _ => true

/-- R47, R50: the vector runs of more than one register that a word names, with their lengths. -/
def vecRuns : Instr → List (VReg × Nat)
  | .thr _ d a _ => [(d, 16), (a, 16)]
  | .mma _ _ a b | .mmax _ _ a b => [(a, 16), (b, 8)]
  | .mmaq _ _ b => [(b, 8)]
  | .mrda _ d _ _ => [(d, 16)]
  | .mwra _ _ a _ => [(a, 16)]
  | .apnd _ a _ => [(a, 16)]
  | .haar _ d a _ | .ihaar _ d a _ | .trecon _ d a _ | .tact _ d a _ _ => [(d, 16), (a, 16)]
  | .tbias _ d _ _ | .tst _ d _ _ _ | .tld _ d _ _ => [(d, 16)]
  | .mldb _ d _ => [(d, 8)]
  | .ld _ d _ _ z | .st _ d _ _ z | .lds _ d _ _ z | .sts _ d _ _ z | .lda _ d _ _ z | .strel _ d _ _ z => [(d, memRun z.val)]
  | .atom _ d _ _ _ wide | .atoms _ d _ _ _ wide => [(d, if wide then 2 else 1)]
  | .qpush _ q a => [(a, (qpushRun q.val).getD 1)]
  | .qpop _ d q => [(d, (qpopRun q.val).getD 1)]
  | _ => []

/-- R47. -/
def runsOk (i : Instr) : Bool := (vecRuns i).all fun p => runOk p.1 p.2

/-- A legal instruction (R53 orders 1 to 3). -/
def wellFormed (i : Instr) : Bool := fieldsOk i && runsOk i

end Sys2Proof
end

