-- ==== Sys2Proof/Machine/MemAccess.lean ====
section
/-!
DEFINITION. What the memory instructions share: lane addresses (R181), the checks of R182 in their order, helper lanes (R183), the access
of one lane at its level (R184, R185, R203), page faults and replay (R195), bank rounds (R170), poison (R211, R212), pending results
(R94, R194) and repeated acquires (R39).
-/
namespace Sys2Proof.Machine

/-- MODE of the split that issues. -/
def curMode (s : State) : Lane := match s.cur with
  | none => 0
  | some (wv, sp) => (getSplit (waveAt s wv) sp).mode

/-- The wave that issues, and a scalar of it. -/
def curWave (s : State) : Wave := match s.cur with
  | none => {}
  | some (wv, _) => waveAt s wv
def curSca (s : State) (r : SReg) : Scalar := sget (curWave s) r.val

/-! Addresses and checks. -/
inductive Space where
  | global
  | scratch
  deriving DecidableEq, Repr

/-- Where the checks of R182 leave one lane's access. -/
inductive LaneRes where
  | misaligned
  /-- REASON and LEVEL of R354; LEVEL 0 where no walk stopped. -/
  | prot (reason level : Nat)
  /-- Scratchpad bytes of the beam engine (R314). -/
  | engine
  | range
  /-- Not present, at this level of the walk. -/
  | absent (level : Nat)
  /-- A far-scratchpad byte (R168). -/
  | far (off : Nat)
  /-- R176: one whose way enters far mode when a SRCFG that has parked completes; the access waits. -/
  | farSoon (off : Nat)
  /-- R210: the walk waits for this locked line. -/
  | held (line : Nat)
  | mem (pa pte : Nat)
  /-- A byte of the core's scratchpad. -/
  | spad (pos : Nat)
  deriving DecidableEq, Repr

/-- One lane's access. -/
structure Acc where
  lane : Nat
  addr : Nat
  helper : Bool := false
  res : LaneRes
  /-- R182: the translation took a walk. -/
  walked : Bool := false
  deriving DecidableEq, Repr

def resMis : LaneRes → Bool
  | .misaligned => true
  | _ => false
def resProt : LaneRes → Bool
  | .prot _ _ => true
  | .engine => true
  | _ => false
def resEngine : LaneRes → Bool
  | .engine => true
  | _ => false
def resMem : LaneRes → Bool
  | .mem _ _ => true
  | _ => false
def resRange : LaneRes → Bool
  | .range => true
  | _ => false
def resAbsent : LaneRes → Bool
  | .absent _ => true
  | _ => false

/-- R182 of a global address. -/
def resolveGlobal (s : State) (core isl access : Nat) (priv : Bool) (n va : Nat) : State × LaneRes :=
  if va % n ≠ 0 then (s, .misaligned)
  else if 2 ^ 57 ≤ va then (s, .prot 2 0)
  else match apertureOff s isl va with
    | some o => (s, if farLegal s isl (core / 8) o then .far o else if farSoon s isl (core / 8) o then .farSoon o else .range)
    | none => match translate s core isl va access priv with
      | (s1, .ok pa pte) => (s1, .mem pa pte)
      | (s1, .absent l) => (s1, .absent l)
      | (s1, .held l) => (s1, .held l)
      | (s1, .prot r l) => (s1, .prot r l)
/-! The beam configuration (R316). -/
def bcPoolBase (v : Nat) : Nat := bitsOf v 0 11 * 256
def bcEntries (v : Nat) : Nat := bitsOf v 11 11
def bcReserve (v : Nat) : Nat := bitsOf v 22 8
def bcWaits (v : Nat) : Bool := bitOf v 30
def bcFqBase (v : Nat) : Nat := bitsOf v 32 14 * 32
def bcFqCap (v : Nat) : Nat := bitsOf v 46 14
/-- Whether the n bytes from `off` on touch the range of `len` bytes from `lo` on. -/
def touches (off n lo len : Nat) : Bool := decide (off < lo + len) && decide (lo < off + n)
/-- R314: the bytes belong to the beam engine. -/
def engineRange (g : Group) (off n : Nat) : Bool :=
  g.bcfg != 0 && (touches off n (bcPoolBase g.bcfg) (bcEntries g.bcfg * 256) || touches off n (bcFqBase g.bcfg) (bcFqCap g.bcfg * 32))
/-- R167, R314, R273 order 2: the lowest offset of a range that is out of reach. -/
def lowestBad (g : Group) (off n : Nat) : Option Nat :=
  let top := if g.limit * 128 < off + n then [max off (g.limit * 128)] else []
  let part (lo len : Nat) : List Nat := if g.bcfg != 0 && touches off n lo len then [max off lo] else []
  minBy id (top ++ part (bcPoolBase g.bcfg) (bcEntries g.bcfg * 256) ++ part (bcFqBase g.bcfg) (bcFqCap g.bcfg * 32))
/-- R167, R182 of a scratchpad offset. -/
def resolveSpad (g : Group) (n off : Nat) : LaneRes :=
  if off % n ≠ 0 then .misaligned else if g.limit * 128 < off + n then .prot 2 0 else if engineRange g off n then .engine
  else .spad (g.base * 128 + off)
/-- R176: an access of a wave to a way that leaves far mode when a SRCFG that has parked completes: it is performed before, or takes the range trap,
a free choice. -/
def farArrives (s : State) (cl : Nat) : LaneRes → LaneRes
  | .far o => if farLeaves s cl o && Config.race s.free (2 ^ 25 + o) then .range else .far o
  | r => r
def resolve (s : State) (sp : Space) (w : Wave) (access n va : Nat) : State × LaneRes :=
  match sp with
  | .global =>
    let r := resolveGlobal s (coreOf w) (islandOf s w) access (privileged s w) n va
    (r.1, farArrives s (clusterOf w) r.2)
  | .scratch => (s, resolveSpad (groupAt s w.group) n va)

/-- R182, R353: the translation of an address takes a walk, whatever it finds. -/
def walks (s : State) (core isl access va : Nat) : Bool :=
  decide (va < 2 ^ 57) && (apertureOff s isl va).isNone && match tlbFind s core isl va with
    | some t => (access == 1 || access == 2) && !pteD t.attrs
    | none => true
/-- Every lane of a list of lanes and addresses, in order. -/
def resolveLanes (sp : Space) (w : Wave) (access n : Nat) : List (Nat × Nat) → State → State × List Acc
  | [], s => (s, [])
  | (l, a) :: t, s =>
    let r := resolve s sp w access n a
    let q := resolveLanes sp w access n t r.1
    (q.1, { lane := l, addr := a, helper := mbit w.ctl.helpers l, res := r.2,
            walked := sp == .global && walks s (coreOf w) (islandOf s w) access a } :: q.2)

/-- The address of the lowest lane that fails a check; a helper lane fails none (R183). -/
def firstAddr (p : LaneRes → Bool) (xs : List Acc) : Option Nat := (xs.find? fun x => !x.helper && p x.res).map (·.addr)
/-- R182 check 2, R314, R354: the protection trap of the lowest lane that fails it. -/
def protTrap (agent access : Nat) (xs : List Acc) (x : Acc) : Eff := match x.res with
  | .engine => .trap 0x02 0 ((xs.filter fun y => !y.helper && resEngine y.res).foldl (fun m y => min m y.addr) x.addr)
  | .prot r l => if l = 0 then .trap 0x02 0 x.addr else .denied 0x02 (transWord agent access r l) x.addr
  | _ => .trap 0x02 0 x.addr
/-- R182 checks 1 to 3. -/
def gateTrap (agent access : Nat) (xs : List Acc) : Option Eff :=
  match firstAddr resMis xs with
  | some a => some (.trap 0x03 0 a)
  | none => match xs.find? fun x => !x.helper && resProt x.res with
    | some x => some (protTrap agent access xs x)
    | none => match firstAddr resRange xs with
      | some a => some (.trap 0x04 0 a)
      | none => none

/-- R207, R210: some lane touches a line that an engine owns or a commit locks. -/
def accWait (s : State) (core : Nat) (x : Acc) : Option Wait := match x.res with
  | .mem pa _ => lineWait s (pa / 128)
  | .far o => lineWait s (farLine (core / 8) o)
  | .farSoon o => some (.farWay (core / 8) o)
  | .held l => some (.replica l)
  | _ => none
def blockedOn (s : State) (core : Nat) (xs : List Acc) : Option Wait := xs.findSome? (accWait s core)

/-- R195, R354: the lanes that wait for system software, with the AGENT that made the access, or the end of a replay. -/
def settleFault (agent : Nat) (c : Ctx) (access : Nat) (absent : List Acc) (s : State) : State × Eff :=
  match absent with
  | [] => (onWave s c.wv fun w => if w.evt.replaying then { w with evt := { w.evt with replay := 0, replaying := false } } else w, .done)
  | x :: _ =>
    let w := waveAt s c.wv
    let mask : Mask := absent.foldl (fun m a => m ||| 1#128 <<< a.lane) 0
    let level := match x.res with
      | .absent l => l
      | _ => 0
    let (s1, slot) := placeWaiting s (islandOf s w)
      { code := 0x0F, who := whoWord w c.sp, addr := x.addr, pc := c.split.pc, trans := transWord agent access 0 level, lanes := mask,
        block := (launchOf s w).addr }
    (onWave s1 c.wv fun w => { w with evt := { w.evt with replay := mask, taddr := x.addr, replaying := false } }, .wait (.fault slot))

/-- R195: the participating lanes: the write mask, or the lanes of cw.replay alone on a replay. -/
def memLanes (c : Ctx) : List Nat := maskList (if c.view.evt.replaying then c.wm &&& c.view.evt.replay else c.wm)
/-- R181. -/
def laneAddrs (c : Ctx) (a : VReg) (b : SReg) : List (Nat × Nat) :=
  (memLanes c).map fun i => (i, ((sca c b).toNat + (vec c a i).toNat) % 2 ^ 64)

/-- R182: some lane's translation takes a walk, for which the wave has not parked yet. -/
def walkDue (w : Wave) (xs : List Acc) : Bool := !w.ctl.walked && xs.any (·.walked)
/-- R182: the wave parks for its walks once; then the instruction issues again. -/
def setWalked (v : Bool) (w : Wave) : Wave := { w with ctl := { w.ctl with walked := v } }
/-- R182: the instruction of a wave that has parked for its walks goes on. -/
def walkOver (s : State) (wv : Nat) : State := if (waveAt s wv).ctl.walked then onWave s wv (setWalked false) else s
def walkPark (s : State) (wv : Nat) : State × Eff := (onWave s wv (setWalked true), .wait .walk)
/-- R182, R183, R195: the checks over lanes and addresses; `go` performs the accesses that pass, and a helper's load that does not. -/
def accessWith (c : Ctx) (s : State) (sp : Space) (access n : Nat) (addrs : List (Nat × Nat)) (go : State → List Acc → State) : State × Eff :=
  let w := waveAt s c.wv
  let who := if access = 0 then addrs else addrs.filter fun p => !mbit w.ctl.helpers p.1
  let r := resolveLanes sp w access n who s
  let xs := r.2
  if (firstAddr resMis xs).isNone && walkDue w xs then walkPark r.1 c.wv
  else
    let s1 := walkOver (if (firstAddr resMis xs).isSome then s else r.1) c.wv
    match gateTrap 0 access xs with
    | some e => (s1, e)
    | none => match blockedOn s1 (coreOf w) xs with
      | some wt => (s1, .wait wt)
      | none =>
        let out (x : Acc) : Bool := resAbsent x.res && !x.helper
        settleFault 0 c access (xs.filter out) (go s1 (xs.filter fun x => !out x))

/-! One lane's access. -/
def farKey (cl o : Nat) : Nat := cl * 2 ^ 24 + o
def farNat (s : State) (cl o n : Nat) : Nat := leNat ((spRange 0 (clusterAt s cl).far o n).map (·.toNat))
/-- R211, R412: a write of a whole line clears its poison. -/
def farPut (s : State) (cl o : Nat) (bytes : List Nat) : State :=
  let c := clusterAt s cl
  let s1 := putCluster s cl { c with far := spSetList 0 c.far o (bytes.map (BitVec.ofNat 8)) }
  if o % 128 = 0 ∧ bytes.length = 128 then clearPoison s1 (farLine cl o) else s1
def spadNat (s : State) (core pos n : Nat) : Nat := leNat ((spRange 0 (coreAt s core).spad pos n).map (·.toNat))
/-- R412: a full-word write clears the word's poison. -/
def spadPut (s : State) (core pos : Nat) (bytes : List Nat) : State :=
  let c := coreAt s core
  let full (wd : Nat) : Bool := decide (pos ≤ 4 * wd) && decide (4 * wd + 4 ≤ pos + bytes.length)
  putCore s core { c with spad := spSetList 0 c.spad pos (bytes.map (BitVec.ofNat 8)), spadPoison := c.spadPoison.filter fun wd => !full wd }

/-- R292: the command has ended: every piece is performed and every arrival counted, or it has failed. -/
def copyEnded (c : CopyCmd) : Bool := c.failed.isSome || (c.pieces.all (·.done) && c.owed.isEmpty)
/-- Every command of the device. -/
def allCopies (s : State) : List CopyCmd := s.cores.flatMap fun e => e.2.copies
def hopGroup (c : CopyCmd) (hop : Nat) : Nat := c.dests.getD hop 0
/-- R271. -/
def isScratch (A : Nat) : Bool := decide (2 ^ 63 ≤ A)
/-- R281: every command that its wave has issued into its batch has ended. -/
def batchEnded (s : State) (c : CopyCmd) : Bool := (allCopies s).all fun d => d.wave != c.wave || d.batch != c.batch || copyEnded d
/-- R208: the writes of a command to the scratchpad of a group are visible there: its slot has filled, or its batch is complete. -/
def copySeen (s : State) (c : CopyCmd) (g : Nat) : Bool := c.filled.contains g || batchEnded s c
/-- Where a piece that writes scratchpad lies in the scratchpad of its core. -/
def pieceAt (s : State) (c : CopyCmd) (p : CopyPiece) : Nat := (groupAt s (hopGroup c p.hop)).base * 128 + p.dst % 2 ^ 63
def pieceHolds (s : State) (core pos : Nat) (c : CopyCmd) (p : CopyPiece) : Bool :=
  isScratch p.dst && (groupAt s (hopGroup c p.hop)).core == core && decide (pieceAt s c p ≤ pos) && decide (pos < pieceAt s c p + p.len)
/-- R208: what else than its contents a byte of a core's scratchpad may read as until the writes of a command there are visible: the byte that the
command has replaced, or the one that it will write. -/
def earlyBytes (s : State) (core pos : Nat) : List Byte :=
  (allCopies s).flatMap fun c => c.pieces.filterMap fun p =>
    if pieceHolds s core pos c p && !copySeen s c (hopGroup c p.hop) then
      let j := pos - pieceAt s c p
      if j < p.pos then p.old[j]?.map (BitVec.ofNat 8) else p.data.bind fun d => d[j]?.map (BitVec.ofNat 8)
    else none
/-- R198, R208: a store to a byte that a command has written: what the command replaced there is gone. -/
def storedOver (s : State) (core pos n : Nat) : State :=
  let hit (c : CopyCmd) (p : CopyPiece) (j : Nat) : Bool := decide (pos ≤ pieceAt s c p + j) && decide (pieceAt s c p + j < pos + n)
  let fix (c : CopyCmd) (p : CopyPiece) : CopyPiece :=
    if isScratch p.dst && (groupAt s (hopGroup c p.hop)).core == core && !p.old.isEmpty then
      { p with old := (List.range p.old.length).map fun j => if hit c p j then (p.data.getD []).getD j 0 else p.old.getD j 0 }
    else p
  if (allCopies s).any fun c => c.pieces.any fun p => !p.old.isEmpty then
    { s with cores := tbMap (fun _ k => { k with copies := k.copies.map fun c => { c with pieces := c.pieces.map (fix c) } }) s.cores }
  else s

/-! Slot words of rings (R282, R283). -/
def slotPending (w : Nat) : Nat := bitsOf w 0 28
def slotArrive (w : Nat) : Nat := bitsOf w 28 8
def slotPhase (w : Nat) : Bool := bitOf w 36
def slotFaulted (w : Nat) : Bool := bitOf w 37
def mkSlot (pending arrive : Nat) (phase fault : Bool) : Nat :=
  pending % 2 ^ 28 + arrive % 256 * 2 ^ 28 + b2n phase * 2 ^ 36 + b2n fault * 2 ^ 37
/-- R283: a slot word that a program has stored to: each field is the stored one or the device's, a free choice. -/
def mixSlot (free stored kept : Nat) : Nat :=
  let pick (k : Nat) : Nat := if Config.race free (2 ^ 23 + k) then kept else stored
  mkSlot (slotPending (pick 0)) (slotArrive (pick 1)) (slotPhase (pick 2)) (slotFaulted (pick 3))
/-- R283: a slot word as it is read: `m` is what its memory holds, `e` what the device last wrote and what a program had stored before that. -/
def slotView (free m : Nat) (e : Nat × Option Nat) : Nat :=
  let w := match e.2 with
    | some x => mixSlot (free + 1) x e.1
    | none => e.1
  if m = e.1 then w else mixSlot free m w
/-- R283: the slot word of a ring that a byte of a core's scratchpad lies in: its offset there, and its entry. -/
def slotAt (s : State) (core pos : Nat) : Option (Nat × Nat × Option Nat) := s.groups.findSome? fun e =>
  if e.2.core = core then (e.2.rings.find? fun r => decide (e.2.base * 128 + r.1 ≤ pos) && decide (pos < e.2.base * 128 + r.1 + 8)).map fun r =>
    (e.2.base * 128 + r.1, r.2)
  else none
/-- R208, R283: a byte of a core's scratchpad as a program reads it. -/
def spadByte (s : State) (core pos : Nat) : Byte :=
  let now := match slotAt s core pos with
    | some (at', e) => BitVec.ofNat 8 (slotView s.free (spadNat s core at' 8) e / 2 ^ (8 * (pos - at')))
    | none => spGet 0 (coreAt s core).spad pos
  let early := earlyBytes s core pos
  (now :: early).getD (Config.anyValue s.free (2 ^ 24 + pos) % (early.length + 1)) now
/-- R412: the bytes of a run; those of a word with an uncorrectable error are free values. -/
def spadSeen (s : State) (core pos n : Nat) : List Nat := (List.range n).map fun j =>
  if (coreAt s core).spadPoison.contains ((pos + j) / 4) then Config.anyValue s.free (2 ^ 61 + pos + j) % 2 ^ 8 else (spadByte s core (pos + j)).toNat
def spadRead (s : State) (core pos n : Nat) : Nat := leNat ((List.range n).map fun j => (spadByte s core (pos + j)).toNat)

/-- R209: memory under the updates of commits that are in progress. -/
def commitNat (s : State) (pa n : Nat) : Nat :=
  leNat ((List.range n).map fun j => ((s.dev.commits.flatMap (·.writes)).reverse.find? fun e => e.1 == pa + j).elim (homeByte s (pa + j)).toNat (·.2.toNat))

/-- R184, R203: what one lane reads at a level; a helper's failing load reads 0 (R183). -/
def readAcc (core isl n level : Nat) (s : State) (x : Acc) : State × Nat :=
  match x.res with
  | .far o => (s, farNat s (core / 8) o n)
  | .spad p => (s, spadRead s core p n)
  | .mem pa pte => if isLocked s (pa / 128) then (s, commitNat s pa n) else levelRead s core isl pa n (pteClass pte) level
  | _ => (s, 0)

/-- R209: the write locks its line; the writer's own L1 keeps no copy of the bytes. -/
def replicatedWrite (s : State) (wv core isl pa : Nat) (bytes : List Nat) : State :=
  startCommit (forgetL1 (syncLine s core isl (pa / 128) 2) core isl pa bytes.length) wv isl pa bytes
/-! Stores to a bound pool (R332). -/
def gPool (g : Graph) : Nat := recGet g.desc 0 8
def gPooln (g : Graph) : Nat := bitsOf (recGet g.desc 8 4) 0 16
/-- Some number of records in some blocks: nothing constrains them. -/
def anyRecords (free key blocks : Nat) : List (Nat × List Nat) :=
  (List.range (Config.anyValue free key % (blocks + 1))).map fun k =>
    let pick (j : Nat) : Nat := Config.anyValue free (key + 2 ^ 40 * (65 * k + j + 1))
    (pick 64 % blocks, (List.range 64).map fun j => pick j % 2 ^ 8)
def spoilList (now free key blocks : Nat) (l : NodeList) : NodeList :=
  let recs := anyRecords free key blocks
  { l with recs := recs, timer := if recs.isEmpty then none else some (l.timer.getD now),
           formed := l.formed.map fun x => { x with blocks := anyRecords free (key + 2 ^ 34 * (x.num + 1)) blocks } }
/-- R332: after a store to the pool nothing constrains the graph's lists, the free list among them. -/
def spoilGraph (now free gid : Nat) (g : Graph) : Graph :=
  { g with lists := (List.range g.lists.length).map fun n => spoilList now free (2 ^ 27 + 64 * gid + n) (gPooln g) (g.lists.getD n {})
           used := (List.range (gPooln g)).filter fun b => Config.race free (2 ^ 27 + 2 ^ 10 * (b + 1) + gid) }
/-- R332: n bytes of the island have been stored at an address; 68 bytes of a pool belong to each block. -/
def spoilPools (isl va n : Nat) (s : State) : State :=
  let hit (g : Graph) : Bool := touches va n (gPool g) (68 * gPooln g)
  let i := islandAt s isl
  if i.graphs.any fun e => hit e.2 then
    putIsland { s with free := s.free + 1 } isl { i with graphs := tbMap (fun gid g => if hit g then spoilGraph s.dev.cycle s.free gid g else g) i.graphs }
  else s
/-- R185, R203, R205, R209: what one lane writes; `promoted` at SC 7. -/
def writeAcc (wv core isl level : Nat) (promoted : Bool) (bytes : List Nat) (s : State) (x : Acc) : State :=
  match x.res with
  | .far o => farPut s (core / 8) o bytes
  | .spad p => spadPut (storedOver s core p bytes.length) core p bytes
  | .mem pa pte => spoilPools isl x.addr bytes.length
    (if pteRepl pte then replicatedWrite s wv core isl pa bytes
    else if promoted then promotedWrite s core isl pa bytes
    else levelWrite s core isl pa (pteClass pte) level bytes)
  | _ => s

/-- R400: the key of an access in the read filter. -/
def accKey (x : Acc) : List Nat := match x.res with
  | .mem pa _ => [lineKey pa]
  | .far o => [2 ^ 53 + o / 128]
  | .spad _ => [spadKey x.addr]
  | _ => []
def accKeys (xs : List Acc) : List Nat := xs.flatMap accKey
/-- The physical lines of a list of accesses, each once. -/
def accLines (xs : List Acc) : List Nat := (xs.filterMap fun x => match x.res with
  | .mem pa _ => some (pa / 128)
  | _ => none).eraseDups

/-- The blocks of 128 bytes of far scratchpad of a list of accesses, each once. -/
def accFars (xs : List Acc) : List Nat := (xs.filterMap fun x => match x.res with
  | .far o => some (o / 128)
  | _ => none).eraseDups

/-! Poison. -/
/-- R211: a write of all 128 bytes of a poisoned line, performed at the home agent, clears its poison; bytes that a cache holds clear it when they
are written back. -/
def clearCovered (level core : Nat) (s : State) (n : Nat) (xs : List Acc) : State :=
  (accFars xs).foldl (fun s o =>
    let bytes := (xs.filterMap fun x => match x.res with
      | .far a => if a / 128 = o then some (a % 128 / n) else none
      | _ => none).eraseDups
    if bytes.length * n == 128 then clearPoison s (farLine (core / 8) (o * 128)) else s) <|
  (accLines xs).foldl (fun s l =>
    let bytes := (xs.filterMap fun x => match x.res with
      | .mem pa pte => if pa / 128 = l && !pteRepl pte then some (pa % 128 / n) else none
      | _ => none).eraseDups
    if (decide (2 ≤ level) || !cacheable (l * 128)) && isPoisoned s l && bytes.length * n == 128 then clearPoison s l else s) s
/-- R211, R212: the core's L1 or its slice holds every byte of a line written anew, so that its loads do not read the line at home. -/
def rewritten (s : State) (core line : Nat) : Bool :=
  ((coreAt s core).l1.any fun l => l.line == line && l.dirty == BitVec.allOnes 128) ||
  ((clusterAt s (core / 8)).lines.any fun l => l.line == line && l.dirty == BitVec.allOnes 128)
/-- R211, R212: a read of the line at home meets poison. -/
def linePoison (s : State) (line core : Nat) : Bool := isPoisoned s line && !rewritten s core line
/-- R212: the bytes lie in a copy, in the core's L1 or its slice, that was fetched from a poisoned line. -/
def badCopy (s : State) (core pa n : Nat) : Bool :=
  let hit (l : Line) : Bool := l.line == pa / 128 && byteMask pa n &&& ~~~ l.valid == 0
  match (coreAt s core).l1.find? hit with
  | some l => l.bad
  | none => match (clusterAt s (core / 8)).lines.find? hit with
    | some l => l.bad
    | none => false
/-- R212, R412: whether an access at a level reads poison. -/
def accPoisonAt (level : Nat) (s : State) (core n : Nat) (x : Acc) : Bool := match x.res with
  | .mem pa _ => linePoison s (pa / 128) core || (level == 0 && badCopy s core pa n)
  | .far o => isPoisoned s (farLine (core / 8) o)
  | .spad p => (coreAt s core).spadPoison.any fun wd => decide (p < 4 * wd + 4) && decide (4 * wd < p + n)
  | _ => false
/-- R212: the same for an access that the L1 may serve. -/
def accPoison (s : State) (core n : Nat) (x : Acc) : Bool := accPoisonAt 0 s core n x
def accLineAddr (x : Acc) : Nat := match x.res with
  | .mem pa _ => pa / 128 * 128
  | _ => x.addr / 4 * 4
/-- R212: an unpredictable value of n bytes. -/
def freeValue (free lane n : Nat) : Nat :=
  ((List.range 4).foldl (fun a k => a + Config.anyValue free (lane * 4 + k) % 2 ^ 32 * 2 ^ (32 * k)) 0) % 2 ^ (8 * n)
/-- R212, R401: the imprecise events of a list of reads at a level, one for each poisoned line. -/
def poisonEvents (level : Nat) (s : State) (c : Ctx) (core n : Nat) (xs : List Acc) : List Imprecise :=
  let bad := xs.filter (accPoisonAt level s core n)
  let lanes : Mask := xs.foldl (fun m x => m ||| 1#128 <<< x.lane) 0
  (bad.map accLineAddr).eraseDups.map fun a =>
    { split := c.sp, code := 0x12, kind := 10, addr := a, pc := c.split.pc, lanes := lanes, opened := (waveAt s c.wv).evt.openings }

/-- R401: an instruction of the scalar unit acts on no lane. -/
def noLanes (es : List Imprecise) : List Imprecise := es.map fun e => { e with lanes := 0 }

/-- R421: the events of the lines that a list of reads takes from peers, should their links go down. -/
def linkEvents (s : State) (c : Ctx) (xs : List Acc) : List Imprecise :=
  let far := xs.filter fun x => match x.res with
    | .mem pa _ => pa / 2 ^ 48 == 9
    | _ => false
  let lanes : Mask := xs.foldl (fun m x => m ||| 1#128 <<< x.lane) 0
  (far.map accLineAddr).eraseDups.map fun a =>
    { split := c.sp, code := 0x12, kind := 10, addr := a, pc := c.split.pc, lanes := lanes, opened := (waveAt s c.wv).evt.openings }

/-- R184: each access in order, and its value. -/
def readAll (c : Ctx) (core isl n level : Nat) : List Acc → State → State × List (Nat × Nat × Nat)
  | [], s => (s, [])
  | x :: t, s =>
    let r := readAcc core isl n level s x
    let v := if accPoisonAt level s core n x then freeValue c.free x.lane n else r.2
    let q := readAll c core isl n level t r.1
    (q.1, (x.lane, x.addr, v) :: q.2)

/-! Results. -/
/-- R94: a pending result joins the wave's outstanding-write set. -/
def pushResult (s : State) (wv : Nat) (r : Result) : State :=
  onWave { s with nextId := s.nextId + 1 } wv fun w => { w with out := w.out ++ [{ r with id := s.nextId }] }
/-- R184: the extension of a loaded value. -/
def extendTo (width z v : Nat) : Nat :=
  if z = 0 then wrapTo width (signedOf 8 v) else if z = 2 then wrapTo width (signedOf 16 v) else v
/-- R184: the value that a vector lane receives. -/
def extend (z v : Nat) : Nat := extendTo 32 z v
def accBytes (z : Nat) : Nat := if z ≤ 1 then 1 else if z ≤ 3 then 2 else if z = 4 then 4 else if z = 5 then 8 else 16
/-- The result of values by lane, in a run of `run` registers from d on. -/
def vecResult (w : Wave) (f : Frame) (d run : Nat) (vals : List (Nat × Nat)) : Result :=
  let rows := (List.range run).map fun k => rowOf w f (d + k)
  let elems := vals.flatMap fun p => (List.range run).map fun k => (laneKey (rowOf w f (d + k)) p.1, BitVec.ofNat 32 (p.2 / 2 ^ (32 * k)))
  { rows := rows, keys := elems.map (·.1), vec := elems.foldl (fun m e => spSet 0 m e.1 e.2) [] }

/-- R39: an address in the comparison of acquires; a scratchpad offset is no global address. -/
def acqAddr (sp : Space) (va : Nat) : Nat := match sp with
  | .global => va
  | .scratch => 2 ^ 64 + va
/-- R39: every lane repeats the address and value that it had in the previous acquire. -/
def repeatsPrev (w : Wave) (vals : List (Nat × Nat × Nat)) : Bool := !vals.isEmpty && vals.all fun v => w.tim.prevAcq.contains v
/-- R39, R195: the acquire's lanes are kept; an acquire that waits on a page fault is not yet whole. -/
def noteAcquire (vals : List (Nat × Nat × Nat)) (whole : Bool) (w : Wave) : Wave × Bool :=
  let all := w.tim.acqPart ++ vals
  if whole then ({ w with tim := { w.tim with prevAcq := all, acqPart := [] } }, repeatsPrev w all)
  else ({ w with tim := { w.tim with acqPart := all } }, false)

/-! Bank rounds (R170). -/
def bankOf (swz off : Nat) : Nat := let b := bitsOf off 2 5; if swz = 1 then Nat.xor b (bitsOf off 7 5) else b
/-- The words that one pass touches, each once. -/
def passWords (n : Nat) (offs : List Nat) : List Nat :=
  (offs.flatMap fun o => (List.range ((n + 3) / 4)).map fun k => o / 4 + k).eraseDups
/-- R170: the largest degree of a bank, at least 1. -/
def passRounds (swz n : Nat) (offs : List Nat) : Nat :=
  let ws := passWords n offs
  (List.range 32).foldl (fun m b => max m (ws.filter fun wd => bankOf swz (4 * wd) == b).length) 1
/-- R170: cw.conflicts grows by rounds - 1 for every pass. -/
def countConflicts (s : State) (w : Wave) (n : Nat) (xs : List Acc) : State :=
  let swz := (groupAt s w.group).swz
  let offs (p : Nat) : List Nat := (xs.filter fun x => x.lane / 32 == p && (match x.res with
    | .spad _ => true
    | _ => false)).map (·.addr)
  let more := (List.range (w.width / 32)).foldl (fun a p => a + (passRounds swz n (offs p) - 1)) 0
  let c := coreAt s (coreOf w)
  putCore s (coreOf w) { c with conflicts := (c.conflicts + more) % 2 ^ 64 }

end Sys2Proof.Machine
end

