-- ==== Sys2Proof/Machine/MemInstr.lean ====
section
/-!
DEFINITION. The memory instructions, opcodes 0xA0 to 0xAF (10: R180 to R195; R175 to R177), and the events of memory: results that return
(R94, R39), pushes (R189), replicated commits (R209, R210) and poisoned writes (R211).
-/
namespace Sys2Proof.Machine

/-! Loads. -/
/-- R184, R188, R206: a vector load; `sync` makes it an acquire at MODE.SC. The lanes read in the step of the issue, so a wave's accesses to
different bytes are performed in issue order, which R186 leaves open (DESIGN CHOICE, log 48). -/
def loadBody (sp : Space) (d a : VReg) (b : SReg) (z : Nat) (sync : Bool) (c : Ctx) (s : State) : State × Eff :=
  let n := accBytes z
  let sc := modeSC c.split.mode
  accessWith c s sp 0 n (laneAddrs c a b) fun s xs =>
    let w := waveAt s c.wv
    let core := coreOf w
    let isl := islandOf s w
    let s1 := if sync then acquireInvalidate s core sc else if sp = .scratch then countConflicts s w n xs else s
    let (s2, vals) := readAll c core isl n (if sync then scopeLevel sc else 0) xs s1
    let s3 := if sync ∧ sc = 7 then (accLines xs).foldl (fun s l => promote s l core isl) s2 else s2
    let w3 := noteReads (waveAt s3 c.wv) c.sp (accKeys xs)
    let whole := xs.length = (laneAddrs c a b).length
    let (w4, rep) := if sync then noteAcquire (vals.map fun v => (v.1, acqAddr sp v.2.1, extend z v.2.2)) whole w3 else (w3, false)
    let r := vecResult w4 c.split.frame d.val (memRun z) (vals.map fun v => (v.1, extend z v.2.2))
    let s4 := putWave s3 c.wv w4
    if vals.isEmpty then s4 else pushResult s4 c.wv { r with repeats := rep, imprecise := poisonEvents (if sync then scopeLevel sc else 0) s1 c core n xs, reads := linkEvents s c xs }

def useLoad (d a : VReg) (b : SReg) (run : Nat) : Usage := { vr := [(a.val, 1)], vw := [(d.val, run)], sr := [b.val] }
def useStore (d a : VReg) (b : SReg) (run : Nat) : Usage := { vr := [(d.val, run), (a.val, 1)], sr := [b.val] }

def execLd (y : Bool) (d a : VReg) (b : SReg) (z : Fin 8) (s : State) : Result' :=
  issue s y (useLoad d a b (memRun z.val)) (loadBody .global d a b z.val false)
def execLds (y : Bool) (d a : VReg) (b : SReg) (z : Fin 8) (s : State) : Result' :=
  issue s y (useLoad d a b (memRun z.val)) (loadBody .scratch d a b z.val false)
def execLda (y : Bool) (d a : VReg) (b : SReg) (z : Fin 8) (s : State) : Result' :=
  issue s y (useLoad d a b (memRun z.val)) (loadBody .global d a b z.val true)

/-! Stores. -/
/-- R185: the data of a lane. -/
def laneData (c : Ctx) (d : VReg) (run i : Nat) : Nat :=
  (List.range run).foldl (fun v k => v + (vget c.view c.split.frame (d.val + k) i).toNat * 2 ^ (32 * k)) 0
/-- R185, R188, R205: a vector store; `rel` makes it a release at MODE.SC. -/
def storeBody (sp : Space) (d a : VReg) (b : SReg) (z : Nat) (rel : Bool) (c : Ctx) (s : State) : State × Eff :=
  let n := accBytes z
  let sc := modeSC c.split.mode
  if rel && !releaseClear s c.wv then (s, .wait .release)
  else accessWith c s sp 1 n (laneAddrs c a b) fun s xs =>
    let w := waveAt s c.wv
    let core := coreOf w
    let isl := islandOf s w
    let s1 := if rel then releasePush s core isl sc else if sp = .scratch then countConflicts s w n xs else s
    let data (x : Acc) : List Nat := leBytes n (laneData c d (memRun z) x.lane)
    let s2 := xs.foldl (fun s x => writeAcc c.wv core isl (if rel then scopeLevel sc else 0) (rel && sc == 7) (data x) s x) s1
    let s3 := (accLines xs).foldl (recordStore w.fenced (if rel then some sc else none) core) s2
    onWave (clearCovered (if rel then scopeLevel sc else 0) core s3 n xs) c.wv fun w => noteWrites w c.sp (accKeys xs)

def execSt (y : Bool) (d a : VReg) (b : SReg) (z : Fin 8) (s : State) : Result' :=
  issue s y (useStore d a b (memRun z.val)) (storeBody .global d a b z.val false)
def execSts (y : Bool) (d a : VReg) (b : SReg) (z : Fin 8) (s : State) : Result' :=
  issue s y (useStore d a b (memRun z.val)) (storeBody .scratch d a b z.val false)
/-- R399: a release at system scope closes the region. -/
def execStrel (y : Bool) (d a : VReg) (b : SReg) (z : Fin 8) (s : State) : Result' :=
  issue s y { useStore d a b (memRun z.val) with closes := modeSC (curMode s) == 6 } (storeBody .global d a b z.val true)

/-! The scalar unit (R187). -/
/-- R181: the one address, as lane 0. -/
def scalarAddr (c : Ctx) (a : SReg) (z : Nat) (i : BitVec 6) : List (Nat × Nat) :=
  [(0, wrapTo 64 ((sca c a).toNat + i.toInt * (accBytes z : Nat)))]
/-- R187: the scalar access is no lane, so no helper either. -/
def asScalar (s : State) (wv : Nat) (go : State → State × Eff) : State × Eff :=
  let h := (waveAt s wv).ctl.helpers
  let setH (m : Mask) (w : Wave) : Wave := { w with ctl := { w.ctl with helpers := m } }
  let r := go (onWave s wv (setH (h &&& ~~~ 1#128)))
  (onWave r.1 wv (setH h), r.2)
def execLdu (y : Bool) (d a : SReg) (z : Fin 8) (i : BitVec 6) (s : State) : Result' :=
  issue s y (useSS d a) (fun c s =>
    let n := accBytes z.val
    asScalar s c.wv fun s => accessWith c s .global 0 n (scalarAddr c a z.val i) fun s xs =>
      let w := waveAt s c.wv
      let (s1, vals) := readAll c (coreOf w) (islandOf s w) n 0 xs s
      let s2 := onWave s1 c.wv fun w => noteReads w c.sp (accKeys xs)
      if vals.isEmpty then s2 else pushResult s2 c.wv
        { scalars := [d.val], sca := vals.map fun v => (d.val, BitVec.ofNat 64 (extendTo 64 z.val v.2.2)),
          imprecise := noLanes (poisonEvents 0 s c (coreOf w) n xs), reads := noLanes (linkEvents s c xs) })
def execStu (y : Bool) (d a : SReg) (z : Fin 8) (i : BitVec 6) (s : State) : Result' :=
  issue s y { sr := [d.val, a.val] } (fun c s =>
    let n := accBytes z.val
    asScalar s c.wv fun s => accessWith c s .global 1 n (scalarAddr c a z.val i) fun s xs =>
      let w := waveAt s c.wv
      let s1 := xs.foldl (fun s x => writeAcc c.wv (coreOf w) (islandOf s w) 0 false (leBytes n (sca c d).toNat) s x) s
      let s2 := (accLines xs).foldl (recordStore w.fenced none (coreOf w)) s1
      onWave s2 c.wv fun w => noteWrites w c.sp (accKeys xs))

/-! Atomics (R190, R191). -/
/-- R190: the smaller of two words, unsigned under MODE.ET = n32. -/
def atomLess (et bits x y : Nat) : Bool := if et = 1 then decide (x < y) else decide (signedOf bits x < signedOf bits y)
/-- R190: the new value of AO `ao` over words of `bits` bits; `v2` is the second operand of a compare-exchange. -/
def atomNew (et ao bits old v v2 : Nat) : Nat :=
  match ao with
  | 0 => (old + v) % 2 ^ bits
  | 1 => if atomLess et bits v old then v else old
  | 2 => if atomLess et bits old v then v else old
  | 3 => Nat.land old v
  | 4 => Nat.lor old v
  | 5 => Nat.xor old v
  | 6 => v
  | 7 => if old = v then v2 else old
  | 8 => (fAdd f32 0 old v).bits
  | _ => elemsJoin 16 (fun e => (fAdd f16 0 (elemAt 16 old e) (elemAt 16 v e)).bits) 2
/-- R190: registers of an operand, and of the whole run. -/
def atomWidth (wide : Bool) : Nat := if wide then 2 else 1
def atomRun (ao : Nat) (wide : Bool) : Nat := if ao = 7 then 2 * atomWidth wide else atomWidth wide
/-- R180, R47: legal with this MODE.AO. -/
def atomLegal (ao : Nat) (wide : Bool) (d : VReg) : Bool :=
  decide (ao ≤ 9) && !(decide (8 ≤ ao) && wide) && runOk d (atomRun ao wide)
def acquires (ord : Nat) : Bool := ord == 1 || ord == 3
def releases (ord : Nat) : Bool := ord == 2 || ord == 3

/-- R191: the lanes one after another; the old value of each. -/
def atomAll (c : Ctx) (core isl et ao : Nat) (wide : Bool) (d : VReg) (level : Nat) (prom : Bool) :
    List Acc → State → State × List (Nat × Nat × Nat)
  | [], s => (s, [])
  | x :: t, s =>
    let k := atomWidth wide
    let r := readAcc core isl (4 * k) level s x
    let old := if accPoisonAt level s core (4 * k) x then freeValue c.free x.lane (4 * k) else r.2
    let v := laneData c d k x.lane
    let v2 := laneData c (Fin.ofNat 128 (d.val + k)) k x.lane
    let s1 := writeAcc c.wv core isl level prom (leBytes (4 * k) (atomNew et ao (32 * k) old v v2)) r.1 x
    let q := atomAll c core isl et ao wide d level prom t s1
    (q.1, (x.lane, x.addr, old) :: q.2)

/-- R188, R190, R203, R206: an atomic. Its helper lanes make no access (R183) and take part in the comparison of R39 with their addresses
(R194). -/
def atomBody (sp : Space) (d a : VReg) (b : SReg) (ord : Nat) (wide : Bool) (c : Ctx) (s : State) : State × Eff :=
  let n := 4 * atomWidth wide
  let m := c.split.mode
  let sc := if sp = .scratch then fenceScope (modeSC m) else modeSC m
  if releases ord && !releaseClear s c.wv then (s, .wait .release)
  else accessWith c s sp 2 n (laneAddrs c a b) fun s xs =>
    let w := waveAt s c.wv
    let core := coreOf w
    let isl := islandOf s w
    let s0 := if sp = .scratch then countConflicts s w n xs else s
    let s1 := if releases ord then releasePush s0 core isl sc else s0
    let s2 := if acquires ord then acquireInvalidate s1 core sc else s1
    let (s3, vals) := atomAll c core isl (modeET m) (modeAO m) wide d (scopeLevel sc) (sc == 7) xs s2
    let s4 := if sc = 7 then (accLines xs).foldl (fun s l => promote s l core isl) s3 else s3
    let s5 := clearCovered (scopeLevel sc) core ((accLines xs).foldl (recordStore w.fenced (if releases ord then some sc else none) core) s4) n xs
    let (real, helpers) := (laneAddrs c a b).partition fun p => !mbit w.ctl.helpers p.1
    let seen := (vals ++ helpers.map fun (p : Nat × Nat) => (p.1, p.2, 0)).map fun (v : Nat × Nat × Nat) => (v.1, acqAddr sp v.2.1, v.2.2)
    let (w6, rep) := if acquires ord then noteAcquire seen (xs.length = real.length) (waveAt s5 c.wv) else (waveAt s5 c.wv, false)
    let s6 := putWave s5 c.wv w6
    if vals.isEmpty then s6
    else pushResult s6 c.wv { vecResult w6 c.split.frame d.val (atomWidth wide) (vals.map fun v => (v.1, v.2.2)) with
      repeats := rep, imprecise := poisonEvents (scopeLevel sc) s2 c core n xs, reads := linkEvents s c xs }

def useAtom (m : Lane) (d a : VReg) (b : SReg) (wide : Bool) : Usage :=
  let run := atomRun (modeAO m) wide
  { vr := [(d.val, run), (a.val, 1)], vw := [(d.val, atomWidth wide)], sr := [b.val], legal := atomLegal (modeAO m) wide d, closes := true, realLanes := true }
def execAtom (y : Bool) (d a : VReg) (b : SReg) (ord : Fin 4) (wide : Bool) (s : State) : Result' :=
  issue s y (useAtom (curMode s) d a b wide) (atomBody .global d a b ord.val wide)
def execAtoms (y : Bool) (d a : VReg) (b : SReg) (ord : Fin 4) (wide : Bool) (s : State) : Result' :=
  issue s y (useAtom (curMode s) d a b wide) (atomBody .scratch d a b ord.val wide)

/-! FENCE (R189). -/
def isLoad (r : Result) : Bool := r.unit == .load || r.unit == .tile
/-- R197: the stores and atomics that follow are releases at the FENCE's scope. -/
def noteFence (rel : Bool) (sc : Nat) (s : State) (wv : Nat) : State :=
  if rel && 3 ≤ sc then onWave s wv fun w => { w with fenced := true } else s
def execFence (y : Bool) (z : Fin 8) (s : State) : Result' :=
  issue s y { closes := modeSC (curMode s) == 6 } (fun c s =>
    let w := waveAt s c.wv
    let sc := fenceScope (modeSC c.split.mode)
    let acq := z.val = 1 ∨ z.val = 3
    let rel := z.val = 2 ∨ z.val = 3
    if acq ∧ w.out.any isLoad then (s, .wait .loads)
    else
      let s1 := if rel then releasePush s (coreOf w) (islandOf s w) sc else s
      let s2 := if acq then acquireInvalidate (noteFence rel sc s1 c.wv) (coreOf w) sc else noteFence rel sc s1 c.wv
      if rel ∧ (scopeLevel sc ≠ 0 ∨ !releaseClear s2 c.wv) then (s2, .doneWait .pushes) else (s2, .done))

/-! Cache control (R192, R193). -/
/-- R192, R193: the physical address of a lane that fails no check; alignment does not matter. -/
def quietAddr (s : State) (w : Wave) (va : Nat) : State × Option (Nat × Nat) :=
  match resolveGlobal s (coreOf w) (islandOf s w) 0 (privileged s w) 1 va with
  | (s1, .mem pa pte) => (s1, some (pa, pte))
  | (s1, _) => (s1, none)
/-- R192: the line's dirty bytes go home; with `drop`, its copies go. A flushed line stays valid (R192), so it keeps its class, though R174 names
CFLUSH among the ways to lose it (DESIGN CHOICE, log 48). -/
def flushLine (core isl : Nat) (drop : Bool) (s : State) (line : Nat) : State :=
  let s1 := syncLine s core isl line 2
  if drop then
    let c := coreAt s1 core
    let s2 := putCore s1 core { c with l1 := dropLine c.l1 line isl }
    let k := clusterAt s2 (core / 8)
    putCluster s2 (core / 8) { k with lines := dropLine k.lines line isl }
  else s1
/-- R182, R192, R193: the lanes of CFLUSH, CINV and PREF: their walks, for which the wave parks, then `go` on the lines of those that fail no
check. -/
def quietLanes (c : Ctx) (s : State) (addrs : List (Nat × Nat)) (go : Wave → State → Nat → State) : State × Eff :=
  let w := waveAt s c.wv
  let r := resolveLanes .global w 0 1 addrs s
  if walkDue w r.2 then walkPark r.1 c.wv
  else
    (addrs.foldl (fun s p => match quietAddr s w p.2 with
      | (s1, some q) => go w s1 (q.1 / 128)
      | (s1, none) => s1) (walkOver s c.wv), .done)
def flushBody (drop : Bool) (a : VReg) (b : SReg) (c : Ctx) (s : State) : State × Eff :=
  quietLanes c s (laneAddrs c a b) fun w s line => flushLine (coreOf w) (islandOf s w) drop s line
def useAddr (a : VReg) (b : SReg) : Usage := { vr := [(a.val, 1)], sr := [b.val] }
def execCflush (y : Bool) (a : VReg) (b : SReg) (s : State) : Result' := issue s y (useAddr a b) (flushBody false a b)
def execCinv (y : Bool) (a : VReg) (b : SReg) (s : State) : Result' := issue s y (useAddr a b) (flushBody true a b)
/-- R193: the line in the slice and the L1, with the class of PREF. A line that an engine owns or a commit locks is left alone: R207 and R210 make
accesses wait there, and PREF is none that a program sees (DESIGN CHOICE, log 48). -/
def prefLine (core isl cls : Nat) (s : State) (line : Nat) : State :=
  if (lineWait s line).isSome || !cacheable (line * 128) then s else (l1Fill (sliceFill s (core / 8) isl line (.pref cls)).1 core isl line (.pref cls)).1
def execPref (y : Bool) (a : VReg) (b : SReg) (z : Fin 8) (s : State) : Result' :=
  issue s y (useAddr a b) (fun c s => quietLanes c s (laneAddrs c a b) fun w s line => prefLine (coreOf w) (islandOf s w) z.val s line)

/-! Configuration (R176, R177). -/
/-- R176: reserved bits, and a reserved mode. -/
def waysLegal (v : Nat) : Bool :=
  bitsOf v 40 24 == 0 && bitsOf v 32 4 == 0 && bitsOf v 0 8 == 0 && ((List.range 16).all fun k => bitsOf v (2 * k) 2 != 3)
/-- R176: a way that leaves cache mode: its dirty bytes go home, its lines are invalid. -/
def leaveCache (cl k : Nat) (s : State) : State :=
  let mine := (clusterAt s cl).lines.filter fun l => l.way == k
  let s1 := mine.foldl writeBackHome s
  let c := clusterAt s1 cl
  putCluster s1 cl { c with lines := c.lines.filter fun l => l.way != k }
/-- R176: one way changes its mode. -/
def changeWay (cl old v : Nat) (s : State) (k : Nat) : State :=
  let was := wayMode old k
  let is := wayMode v k
  if was = is then s
  else
    let s1 := if was = 0 then leaveCache cl k s else s
    if was = 1 ∨ is = 1 then
      let c := clusterAt s1 cl
      putCluster s1 cl { c with far := spKeep (fun o => o / 2 ^ 20 != k) c.far }
    else s1
/-- R169: the FIFO ways of a register value. -/
def fifoWays (v : Nat) : List Nat := (List.range 16).filter fun k => wayMode v k == 2
/-- R276: entries that the FIFO of a cluster holds at most. -/
def fifoCap (c : Cluster) : Nat := 8192 * (fifoWays c.ways).length
/-- R276, R391: a command of the cluster waits on its FIFO. -/
def fifoBlocked (k : Cluster) (c : CopyCmd) : Bool :=
  c.started && !copyEnded c && ((c.srcFifo && k.fifo.isEmpty) || (c.dstFifo && decide (fifoCap k ≤ k.fifo.length)))
/-- R176: copies that wait on the FIFO are cut off when it is emptied; `k` is the cluster before. -/
def cutFifo (cl : Nat) (k : Cluster) (s : State) : State :=
  { s with cores := tbMap (fun n c => if n / 8 = cl then
      { c with copies := c.copies.map fun m => if fifoBlocked k m then { m with cut := true } else m } else c) s.cores }
/-- R176: a copy of the cluster that was issued before number `n` has far-scratchpad bytes still to access; one that waits on a FIFO which `v`
empties is cut off instead. -/
def farBusy (s : State) (cl n v : Nat) : Bool := s.cores.any fun e => e.1 / 8 == cl && e.2.copies.any fun c =>
  decide (c.id < n) && !copyEnded c && !(fifoWays (clusterAt s cl).ways != fifoWays v && fifoBlocked (clusterAt s cl) c) && c.pieces.any fun p =>
    let far (A : Nat) : Bool := !isScratch A && ((apertureOff s c.island A).map fun o => decide (o < 2 ^ 24)).getD false
    !p.done && ((p.data.isNone && far p.src) || far p.dst)
/-- R176: another SRCFG of the cluster has parked before number `n`. -/
def srcfgBefore (s : State) (wv cl n : Nat) : Bool := s.waves.any fun e =>
  e.1 != wv && clusterOf e.2 == cl && !(groupAt s e.2.group).away && (e.2.ctl.srcfg.map fun p => decide (p.1 < n)).getD false
/-- R176: what a SRCFG of wave `wv`, parked with number `n` and value `v`, waits for. -/
def srcfgHeld (s : State) (wv cl n v : Nat) : Bool := srcfgBefore s wv cl n || farBusy s cl n v
/-- R176: the register is written. -/
def setWays (s : State) (cl v : Nat) : State :=
  let k := clusterAt s cl
  let old := k.ways
  let s1 := (List.range 16).foldl (changeWay cl old v) s
  let s2 := putCluster s1 cl { clusterAt s1 cl with ways := v }
  if fifoWays old = fifoWays v then s2 else cutFifo cl k (putCluster s2 cl { clusterAt s2 cl with fifo := [] })
def execSrcfg (y : Bool) (d : SReg) (s : State) : Result' :=
  issue s y { sr := [d.val], closes := true } (fun c s =>
    let w := waveAt s c.wv
    let v := (sca c d).toNat
    if !lbWayCfg (launchOf s w) || !ownsCluster s (islandOf s w) (clusterOf w) then (s, .trap 0x02 0 0)
    else if !waysLegal v then (s, .trap 0x01 0 0)
    else
      let (n, v) := w.ctl.srcfg.getD (s.nextId, v)
      let set (p : Option (Nat × Nat)) (w : Wave) : Wave := { w with ctl := { w.ctl with srcfg := p } }
      if srcfgHeld s c.wv (clusterOf w) n v then (onWave { s with nextId := s.nextId + 1 } c.wv (set (some (n, v))), .wait (.farAccess (clusterOf w)))
      else (leaveSlots (setWays (onWave s c.wv (set none)) (clusterOf w) v) c.wv, .done))

/-- R177: bytes lo to hi - 1 of the scratchpad become unpredictable; the list stays sorted. -/
def scramble (free lo hi : Nat) (m : Sparse Byte) : Sparse Byte :=
  let mid := (List.range (hi - lo)).filterMap fun j =>
    let v : Byte := BitVec.ofNat 8 (Config.anyValue free (lo + j))
    if v = 0 then none else some (lo + j, v)
  spKeep (fun k => decide (k < lo)) m ++ mid ++ spKeep (fun k => decide (hi ≤ k)) m
/-- R177: the group's configuration is written. -/
def setSpad (s : State) (free g limit swz : Nat) : State :=
  let gr := groupAt s g
  let lo := if swz = gr.swz then min limit gr.limit else 0
  let hi := if swz = gr.swz then limit else gr.grant
  let s1 := putGroup s g { gr with limit := limit, swz := swz }
  if lo < hi then
    let c := coreAt s1 gr.core
    putCore s1 gr.core { c with spad := scramble free ((gr.base + lo) * 128) ((gr.base + hi) * 128) c.spad }
  else s1
def execSpcfg (y : Bool) (d : SReg) (s : State) : Result' :=
  issue s y { sr := [d.val], closes := true } (fun c s =>
    let g := (waveAt s c.wv).group
    let v := (sca c d).toNat
    if bitsOf v 18 46 ≠ 0 ∨ bitsOf v 13 3 ≠ 0 ∨ 2 ≤ bitsOf v 16 2 then (s, .trap 0x01 0 0)
    else if (groupAt s g).grant < bitsOf v 0 13 then (s, .trap 0x02 0 0)
    else (leaveSlots (setSpad s c.free g (bitsOf v 0 13) (bitsOf v 16 2)) c.wv, .done))

/-! Results that return (R94). -/
/-- A wait whose instruction is over ends; a switch marker that it carried begins. -/
def endWait (w : Wave) : Wave :=
  { w with ctl := { w.ctl with wait := if w.ctl.markAfter && !w.out.isEmpty then .marker else .no, markAfter := false } }
/-- R94: the values land in the registers that the result names. -/
def landResult (r : Result) (w : Wave) : Wave :=
  let w1 : Wave := { w with regs := { w.regs with vec := r.keys.foldl (fun m k => spSet 0 m k (spGet 0 r.vec k)) w.regs.vec,
                                                  bad := w.regs.bad.filter fun k => !r.keys.contains k } }
  let w2 := landFlags r.flags (r.sca.foldl (fun w p => sset w p.1 p.2) w1)
  let w3 : Wave := match r.helpers with
    | some h => { w2 with ctl := { w2.ctl with helpers := (w2.ctl.helpers &&& ~~~ h.1) ||| h.2 } }
    | none => w2
  { w3 with
    out := w3.out.filter fun x => x.id != r.id
    evt := { w3.evt with imprecise := w3.evt.imprecise ++ r.imprecise } }
/-- R39: the wave parks for one spin quantum. -/
def spinPark (w : Wave) : Wave :=
  let t := w.tim.wtime + w.tim.spinq
  let w1 : Wave := { w with tim := { w.tim with spinUntil := t } }
  if w.ctl.wait = .no ∨ w.ctl.wait = .marker then
    { w1 with ctl := { w1.ctl with wait := .spin, markAfter := w.ctl.markAfter || w.ctl.wait == .marker } }
  else w1
/-- R95, R395: what an empty outstanding-write set lets go on. -/
def drained (w : Wave) : Wave :=
  if w.out.isEmpty then match w.evt.pend with
    | some t => enterTrap w t
    | none => if w.ctl.wait = .marker then { w with ctl := { w.ctl with wait := .no } } else w
  else w
/-- R94, R39: a result lands, and an acquire that repeats the one before it parks the wave. -/
def landing (r : Result) (w : Wave) : Wave :=
  let w1 := noteHeld w (landResult r w)
  drained (if r.repeats then spinPark w1 else w1)
/-- VARIABLE_RESULT_RETURN (R94, R39): the result at place `idx` of the outstanding set lands. -/
def execVariableResultReturn (wv idx : Nat) (s : State) : Result' :=
  match tbGet? s.waves wv with
  | none => event s
  | some w => match w.out[idx]? with
    | none => event s
    | some r =>
      if r.ready then event (settleSlots (putWave s wv (landing r w)) wv) else event s
/-- SPIN_QUANTUM_EXPIRY (R39). -/
def execSpinQuantumExpiry (wv : Nat) (s : State) : Result' :=
  match tbGet? s.waves wv with
  | none => event s
  | some w => event (if w.ctl.wait = .spin ∧ w.tim.spinUntil ≤ w.tim.wtime then putWave s wv (endWait w) else s)
/-- PUSHES_COMPLETE (R189, R211). -/
def execPushesComplete (wv : Nat) (s : State) : Result' :=
  match tbGet? s.waves wv with
  | none => event s
  | some w => event (if w.ctl.wait = .pushes ∧ releaseClear s wv then putWave s wv (endWait w) else s)

/-! Replicated pages and poison. -/
/-- R210: the island's bound on locks is passed: the replicated-stall event is placed, once. -/
def reportStall (s : State) (idx : Nat) (k : Commit) : State :=
  let d := s.dev.cycle - k.start
  if !k.reported && decide ((islandAt s k.island).repstall < d) then
    placeEvent (putDev s { s.dev with commits := setAt s.dev.commits idx { k with reported := true } }) k.island { kind := 3, addr := k.line * 128, aux := d }
  else s
/-- R211: the commit writes the whole line. -/
def wholeLine (k : Commit) : Bool := (k.writes.map fun e => e.1).eraseDups.length == 128
/-- REPLICATED_COMMIT (R209): every replica takes the update, and the line unlocks; the oldest commit of a line holds its lock. -/
def execReplicatedCommit (idx : Nat) (s : State) : Result' :=
  match s.dev.commits[idx]? with
  | none => event s
  | some k =>
    if (s.dev.commits.take idx).any fun j => j.line == k.line then event s
    else
    let s1 := k.writes.foldl (fun s e => homePut s e.1 e.2.toNat) (reportStall s idx k)
    let s2 := putDev s1 { s1.dev with commits := dropAt s1.dev.commits idx, poison := if wholeLine k then s1.dev.poison.filter (· != k.line) else s1.dev.poison }
    event (onWave s2 k.wave fun w => { w with commits := w.commits - 1 })
/-- REPLICATED_STALL (R210). -/
def execReplicatedStall (idx : Nat) (s : State) : Result' :=
  match s.dev.commits[idx]? with
  | none => event s
  | some k => event (reportStall s idx k)
/-- R211: the islands that may use a line, to which a poisoned write of it is reported: those whose carve-out or windows hold it, or those that own
the cluster of a far-scratchpad line; island 0 where none does (DESIGN CHOICE, log 30). -/
def lineIslands (s : State) (line : Nat) : List Nat :=
  let uses (k : Nat) : Bool := if 2 ^ 60 ≤ line then ownsCluster s k ((line - 2 ^ 60) / 2 ^ 17) else frameAllowed (islandAt s k) (line * 128)
  let ks := (s.islands.map (·.1)).filter uses
  if ks.isEmpty then [0] else ks
/-- R403: the address of a line in a record; that of far scratchpad lies in the island's aperture. -/
def lineAddr (s : State) (isl line : Nat) : Nat :=
  if 2 ^ 60 ≤ line then islFbase (islandAt s isl) + (line - 2 ^ 60) % 2 ^ 17 * 128 else line * 128
/-- R211, R403, R404: an island's record of a poisoned write is placed, or waits and holds its releases up. -/
def tellPoisoned (line : Nat) (s : State) (isl : Nat) : State :=
  let i := islandAt s isl
  let a := lineAddr s isl line
  placeEvent (if q4Room i then s else putDev s { s.dev with unreported := (a / 128, isl) :: s.dev.unreported }) isl { kind := 9, addr := a }
/-- R211: a write's line is poisoned, and that is reported. -/
def poisonWrite (line : Nat) (s : State) : State := (lineIslands s line).foldl (tellPoisoned line) (addPoison s line)
/-- POISONED_WRITE (R211): a write's line suffers an uncorrectable error. -/
def execPoisonedWrite (line : Nat) (s : State) : Result' := event (poisonWrite line s)

end Sys2Proof.Machine
end

