-- ==== Sys2Proof/Machine/Agents.lean ====
section
/-!
DEFINITION. How an engine reads and writes runs of bytes (R207 to R209, R351): line by line, translated with the privilege it acts with.
An engine's source access is a load of the core (R196, R198); its global writes are performed at device scope (R208).
-/
namespace Sys2Proof.Machine

/-- One run of bytes within a line. -/
structure Seg where
  va : Nat
  len : Nat
  deriving DecidableEq, Repr

/-- The bytes from va on, cut at line boundaries. -/
def cutLines : Nat → Nat → Nat → List Seg
  | 0, _, _ => []
  | fuel + 1, va, n =>
    if n = 0 then []
    else
      let k := min n (128 - va % 128)
      { va := va, len := k } :: cutLines fuel (va + k) (n - k)
def segsOf (va n : Nat) : List Seg := cutLines (n / 128 + 2) va n

/-- Who translates: the core, the island and its privilege. -/
structure Asker where
  core : Nat
  isl : Nat
  priv : Bool
  /-- R1: the privilege is for pages marked BS alone. -/
  bare : Bool := false
  deriving DecidableEq, Repr

/-- R1, R351: a page marked PRIV is out of reach of an asker with privilege for BS pages alone. -/
def bareRes (q : Asker) : LaneRes → LaneRes
  | .mem pa pte => if q.bare && ptePRIV pte then .prot 2 1 else .mem pa pte
  | r => r
/-- Every segment with where its bytes lie, or the first failure with its address. -/
def locate (q : Asker) (access : Nat) : List Seg → State → State × List (Seg × LaneRes)
  | [], s => (s, [])
  | g :: t, s =>
    let r := resolveGlobal s q.core q.isl access q.priv 1 g.va
    let k := locate q access t r.1
    (k.1, (g, bareRes q r.2) :: k.2)
def badRes : LaneRes → Bool
  | .mem _ _ => false
  | .far _ => false
  | .farSoon _ => false
  | .held _ => false
  | .spad _ => false
  | _ => true
/-- The first segment that cannot be reached. -/
def firstBad (xs : List (Seg × LaneRes)) : Option (Seg × LaneRes) := xs.find? fun x => badRes x.2

/-- The byte that a load of the core finds, without a fill: L1, slice, home. -/
def viewByte (s : State) (core isl pa : Nat) : Byte :=
  match (findLine (coreAt s core).l1 (pa / 128) isl).filter fun l => mbit l.valid (pa % 128) with
  | some l => spGet 0 l.data (pa % 128)
  | none => match (findLine (clusterAt s (core / 8)).lines (pa / 128) isl).filter fun l => mbit l.valid (pa % 128) with
    | some l => spGet 0 l.data (pa % 128)
    | none => homeByte s pa
/-- The bytes of a segment, as a load of the core. -/
def segBytes (s : State) (q : Asker) (x : Seg × LaneRes) : List Nat :=
  (List.range x.1.len).map fun j => match x.2 with
    | .mem pa _ => (viewByte s q.core q.isl (pa + j)).toNat
    | .far o => farNat s (q.core / 8) (o + j) 1
    | .spad p => (spadByte s q.core (p + j)).toNat
    | _ => 0
/-- R212, R292, R412: the segment, read as a load of the core, meets poison. -/
def segPoison (s : State) (q : Asker) (x : Seg × LaneRes) : Bool := match x.2 with
  | .mem pa _ => linePoison s (pa / 128) q.core || badCopy s q.core pa x.1.len
  | .far o => isPoisoned s (farLine (q.core / 8) o)
  | .spad p => (coreAt s q.core).spadPoison.any fun wd => decide (p < 4 * wd + 4) && decide (4 * wd < p + x.1.len)
  | _ => false
/-- R207: an engine whose command issued before `own` owns the line. -/
def ownedBefore (s : State) (own line : Nat) : Bool := s.dev.owned.any fun p => p.1 == line && decide (p.2 < own)
/-- R207, R210: some segment lies in a line that an engine with an earlier command owns, or a commit locks. -/
def segWait (s : State) (core own : Nat) (x : Seg × LaneRes) : Bool := match x.2 with
  | .mem pa _ => ownedBefore s own (pa / 128) || isLocked s (pa / 128)
  | .far o => ownedBefore s own (farLine (core / 8) o)
  | .farSoon _ => true
  | .held _ => true
  | _ => false

/-- R207 to R209: an engine writes a segment. -/
def engineWrite (wv : Nat) (q : Asker) (bytes : List Nat) (s : State) (x : Seg × LaneRes) : State :=
  match x.2 with
  | .mem pa pte =>
    if pteRepl pte then startCommit (recallLine s (pa / 128)) wv q.isl pa bytes
    else
      let s1 := homeWrite (recallLine s (pa / 128)) pa bytes
      if x.1.len = 128 then clearPoison s1 (pa / 128) else s1
  | .far o => farPut s (q.core / 8) o bytes
  | .spad p => spadPut s q.core p bytes
  | _ => s
/-- A list of bytes written over the segments of a run. -/
def engineWriteAll (wv : Nat) (q : Asker) : List (Seg × LaneRes) → List Nat → State → State
  | [], _, s => s
  | x :: t, bytes, s => engineWriteAll wv q t (bytes.drop x.1.len) (engineWrite wv q (bytes.take x.1.len) s x)

/-- Why a read or write of a run fails: the address, the level, and the kind of failure. -/
inductive RunFail where
  | absent (addr level : Nat)
  | denied (addr reason level : Nat)
  | range (addr : Nat)
  deriving DecidableEq, Repr
def failOf (x : Seg × LaneRes) : RunFail := match x.2 with
  | .absent l => .absent x.1.va l
  | .prot r l => .denied x.1.va r l
  | _ => .range x.1.va

/-- R115, R312: a relaxed load at device scope: the core's own dirty bytes, else the home agent's. -/
def deviceByte (s : State) (q : Asker) (pa : Nat) : Byte :=
  match (findLine (coreAt s q.core).l1 (pa / 128) q.isl).filter fun l => mbit l.dirty (pa % 128) with
  | some l => spGet 0 l.data (pa % 128)
  | none => match (findLine (clusterAt s (q.core / 8)).lines (pa / 128) q.isl).filter fun l => mbit l.dirty (pa % 128) with
    | some l => spGet 0 l.data (pa % 128)
    | none => homeByte s pa
def sceneBytes (s : State) (q : Asker) (x : Seg × LaneRes) : List Nat := match x.2 with
  | .mem pa _ => (List.range x.1.len).map fun j => (deviceByte s q (pa + j)).toNat
  | _ => segBytes s q x
/-- The address of a segment in an event of R212. -/
def segLine (x : Seg × LaneRes) : Nat := match x.2 with
  | .mem pa _ => pa / 128 * 128
  | _ => x.1.va
/-- R212: the free bytes of a poisoned segment. -/
def freeSeg (s : State) (x : Seg × LaneRes) : List Nat := (List.range x.1.len).map fun j => Config.anyValue s.free (2 ^ 60 + x.1.va + j) % 2 ^ 8
/-- How the read of a run ends: with its bytes and the lines of it that are poisoned, held behind an owned or locked line, or failed. -/
inductive RunRes where
  | bytes (bs : List Nat) (poisoned : List Nat)
  | held
  | failed (f : RunFail)
  deriving DecidableEq, Repr
/-- R115, R212: a run of bytes read by an engine at device scope, those of a poisoned line free values; the state keeps what the walks marked. -/
def readRun (s : State) (q : Asker) (va n : Nat) : State × RunRes :=
  let (s1, xs) := locate q 0 (segsOf va n) s
  match firstBad xs with
  | some x => (s1, .failed (failOf x))
  | none =>
    if xs.any (segWait s1 q.core s1.nextId) then (s1, .held)
    else (s1, .bytes (xs.flatMap fun x => if segPoison s1 q x then freeSeg s1 x else sceneBytes s1 q x) ((xs.filter (segPoison s1 q)).map segLine))

/-- The wave as an asker. -/
def askerOf (s : State) (wv : Nat) : Asker :=
  let w := waveAt s wv
  { core := coreOf w, isl := islandOf s w, priv := privileged s w }

end Sys2Proof.Machine
end

