-- ==== Sys2Proof/Machine/TileMath.lean ====
section
/-!
DEFINITION. Tiles as values: the domain tag (R216, R217), the Haar transform in F36 (R218), rounding to the tile's type (R219),
thresholding (R220), tile images (R221, R222) and TACT's functions on a column (R230, R231).
-/
namespace Sys2Proof.Machine

/-! The domain tag (R216). -/
def tagDom (t : Nat) : Nat := bitsOf t 0 2
def tagLv (t : Nat) : Nat := bitsOf t 2 3
def tagEt (t : Nat) : Nat := bitsOf t 5 4
def tagTh (t : Nat) : Nat := bitsOf t 9 3
def tagLay (t : Nat) : Nat := bitsOf t 12 1
def mkTag (dom lv et th lay : Nat) : Nat := dom + lv * 2 ^ 2 + et * 2 ^ 5 + th * 2 ^ 9 + lay * 2 ^ 12
/-- R217: valid tags. -/
def tagValid (t : Nat) : Bool :=
  bitsOf t 13 19 == 0 && decide (tagDom t ≤ 1) && decide (5 ≤ tagEt t) && decide (tagEt t ≤ 7) && decide (tagLv t ≤ 5) &&
  (if tagDom t = 0 then tagLv t == 0 else tagLv t != 0)
/-- R217: the same domain. -/
def sameDomain (a b : Nat) : Bool := tagDom a == tagDom b && tagLv a == tagLv b && tagEt a == tagEt b
/-- The tag after a transform to `lv` levels: ET, TH and LAY are kept. -/
def tagAt (t lv : Nat) : Nat := mkTag (if lv = 0 then 0 else 1) lv (tagEt t) (tagTh t) (tagLay t)

/-! Elements. -/
/-- Element width in bits, elements a register and registers of a tile (R214). -/
def tileW (et : Nat) : Nat := if et = 7 then 8 else 16
def tilePer (et : Nat) : Nat := if et = 7 then 4 else 2
def tileRegs (et : Nat) : Nat := if et = 7 then 8 else 16
/-- R218: an element widened exactly to F36. -/
def toF36 (et x : Nat) : Nat := if et = 7 then (cvtIF f36 0 (signedOf 8 x)).bits else (cvtFF (etFmt et) f36 0 x).bits
/-- R219: an F36 value rounded once to the tile's type. -/
def deliver (et rm x : Nat) : Nat × Flags :=
  if et = 7 then let r := cvtFI f36 rm (-128) 127 x; (wrapTo 8 r.1, r.2)
  else let r := cvtFF f36 (etFmt et) rm x; (r.bits, r.flags)
/-- R220: |x| < T as exact values; a NaN, zero or negative threshold is below nothing. -/
def belowTh (et x th : Nat) : Bool :=
  let v := if et = 7 then .fin (decide (128 ≤ x % 256)) (signedOf 8 x).natAbs 0 else decodeF (etFmt et) x
  match v, decodeF f16 th with
  | .fin _ m e, .fin false tm te => tm != 0 && ratioLt (ratioOf false m e) (ratioOf false tm te)
  | .fin _ _ _, .inf false => true
  | _, _ => false
/-- R218: the detail level of a position at L levels; 0 for an approximation row. -/
def detailLevel (L p : Nat) : Nat := ((List.range' 1 L).find? fun k => decide (32 / 2 ^ k ≤ p)).getD 0
/-- R220: thresholding the element at a position. -/
def threshAt (et L : Nat) (th : Nat → Nat) (p x : Nat) : Nat :=
  let k := detailLevel L p
  if k ≠ 0 && belowTh et x (th k) then 0 else x

/-! The transform (R218), on the 32 positions of one feature in F36. Beside the value of each position go the flags of every rounding that it comes
from: R215 has the flags raised by the elements of the lanes that have not exited, and an intermediate belongs to the elements that depend on it
(DEDUCED, log 18). -/
abbrev Col := List Nat
abbrev FlagCol := List Flags
def halved : FVal → FVal
  | .fin n m e => .fin n m (e - 1)
  | v => v
def at' (x : Col) (p : Nat) : FVal := decodeF f36 (x.getD p 0)
def resBits (rs : List FRes) : Col := rs.map (·.bits)
/-- The flags of results, each with those of what it comes from. -/
def resFlags (from' : Nat → Flags) (rs : List FRes) : FlagCol := rs.zipIdx.map fun r => from' r.2 ||| r.1.flags
/-- One forward level over the first n positions. -/
def fwdStep (n : Nat) (x : Col × FlagCol) : Col × FlagCol :=
  let s := (List.range (n / 2)).map fun p => sumF f36 0 true [halved (at' x.1 (2 * p)), halved (at' x.1 (2 * p + 1))]
  let e := (List.range (n / 2)).map fun p => sumF f36 0 true [halved (at' x.1 (2 * p)), halved (negF (at' x.1 (2 * p + 1)))]
  let pair (p : Nat) : Flags := x.2.getD (2 * p) 0 ||| x.2.getD (2 * p + 1) 0
  (resBits s ++ resBits e ++ x.1.drop n, resFlags pair s ++ resFlags pair e ++ x.2.drop n)
/-- One inverse level over n approximation and n detail rows. -/
def invStep (n : Nat) (x : Col × FlagCol) : Col × FlagCol :=
  let y := (List.range n).flatMap fun p => [sumF f36 0 true [at' x.1 p, at' x.1 (n + p)], sumF f36 0 true [at' x.1 p, negF (at' x.1 (n + p))]]
  (resBits y ++ x.1.drop (2 * n), resFlags (fun j => x.2.getD (j / 2) 0 ||| x.2.getD (n + j / 2) 0) y ++ x.2.drop (2 * n))
/-- From c levels up to L. -/
def fwdHaar (c L : Nat) (x : Col × FlagCol) : Col × FlagCol := (List.range' (c + 1) (L - c)).foldl (fun x k => fwdStep (32 / 2 ^ (k - 1)) x) x
/-- From L levels down to M. -/
def invHaar (L M : Nat) (x : Col × FlagCol) : Col × FlagCol := (List.range' (M + 1) (L - M)).reverse.foldl (fun x k => invStep (32 / 2 ^ k) x) x
/-- R227: from c levels to L, whichever way. -/
def toLevel (c L : Nat) (x : Col × FlagCol) : Col × FlagCol := if c ≤ L then fwdHaar c L x else invHaar c L x

/-- A column of the tile's type, with the flags of each position. -/
structure ColRes where
  elems : List Nat
  flags : FlagCol
  deriving DecidableEq, Repr
/-- R219: a column of F36 delivered. -/
def deliverCol (et rm : Nat) (x : Col × FlagCol) : ColRes :=
  let r := x.1.map (deliver et rm)
  { elems := r.map (·.1), flags := r.zipIdx.map fun v => x.2.getD v.2 0 ||| v.1.2 }
def threshCol (et L : Nat) (th : Nat → Nat) (r : ColRes) : ColRes :=
  { r with elems := (List.range r.elems.length).map fun p => threshAt et L th p (r.elems.getD p 0) }
def widenCol (et : Nat) (x : List Nat) : Col × FlagCol := (x.map (toF36 et), x.map fun _ => 0)
/-- R227: HAAR, IHAAR and TRECON on a column. -/
def transformCol (et rm c L : Nat) (x : List Nat) : ColRes := deliverCol et rm (toLevel c L (widenCol et x))
/-- R229: TBIAS; the first n rows take the bias. -/
def biasCol (et rm n bias : Nat) (x : List Nat) : ColRes :=
  let bv := decodeF f36 (toF36 et bias)
  let sum (p e : Nat) : Nat × Flags :=
    if p < n then
      (if et = 7 then
        let t := signedOf 8 e + signedOf 8 bias
        let v := if t < -128 then -128 else if 127 < t then 127 else t
        (wrapTo 8 v, flagIf (decide (v ≠ t)) (flSA ||| flNX))
      else let r := sumF (etFmt et) rm true [decodeF (etFmt et) e, bv]; (r.bits, r.flags))
    else (e, 0)
  let rs := (List.range x.length).map fun p => sum p (x.getD p 0)
  { elems := rs.map (·.1), flags := rs.map (·.2) }
/-- R230: TACT on a column. -/
def tactCol (et rm q c L : Nat) (th : Nat → Nat) (x : List Nat) : ColRes :=
  let y := invHaar c 0 (widenCol et x)
  let v := y.1.map (tactFun q)
  let z := fwdHaar 0 L (resBits v, resFlags (fun p => y.2.getD p 0) v)
  let r := deliverCol et rm z
  if L = 0 then r else threshCol et L th r

/-! Images (R221). A tile as rows: position, then feature. -/
abbrev Rows := List (List Nat)
/-- Whether an element is stored: not ±0. -/
def isStored (et x : Nat) : Bool := if et = 7 then x % 256 != 0 else x % 2 ^ 15 != 0
def rowBitmap (et : Nat) (row : List Nat) : Nat :=
  (List.range 32).foldl (fun m f => if isStored et (row.getD f 0) then m + 2 ^ f else m) 0
def rowStored (et : Nat) (row : List Nat) : List Nat := row.filter (isStored et)
def survivorsOf (et : Nat) (rs : Rows) : Nat := rs.foldl (fun n r => n + (rowStored et r).length) 0
/-- The bytes of a row-budget image. -/
def imageBytes (tag : Nat) (rs : Rows) : List Nat :=
  let et := tagEt tag
  let e := tileW et / 8
  let n := survivorsOf et rs
  leBytes 4 tag ++ leBytes 4 n ++ leBytes 4 (128 + n * e) ++ leBytes 4 0 ++
    rs.flatMap (fun r => leBytes 4 (rowBitmap et r)) ++ rs.flatMap fun r => (rowStored et r).flatMap (leBytes e)
def popcount32 (x : Nat) : Nat := ((List.range 32).filter fun k => bitOf x k).length
/-- R222: the length that the header promises. -/
def imageLen (hdr : List Nat) : Nat :=
  let tag := recGet hdr 0 4
  let e := tileW (tagEt tag) / 8
  if tagLay tag = 0 then 1024 * e else 128 + recGet hdr 4 4 * e
/-- R222: tag, word 3 and word 2, from the 16 bytes of the header; at most 1,024 elements are ever stored. -/
def headerGood (hdr : List Nat) : Bool :=
  tagValid (recGet hdr 0 4) && recGet hdr 12 4 == 0 && recGet hdr 8 4 == imageLen hdr && (tagLay (recGet hdr 0 4) == 0 || decide (recGet hdr 4 4 ≤ 1024))
/-- R222: the sum of the budgets. -/
def payloadGood (hdr body : List Nat) : Bool :=
  tagLay (recGet hdr 0 4) == 0 || recGet hdr 4 4 == (List.range 32).foldl (fun n p => n + popcount32 (recGet body (4 * p) 4)) 0
/-- One row from its bitmap and the stored elements that remain. -/
def expandRow (e bm : Nat) : List Nat → List Nat → List Nat × List Nat
  | [], rest => ([], rest)
  | f :: fs, rest =>
    if bitOf bm f then let r := expandRow e bm fs (rest.drop e); (leNat (rest.take e) :: r.1, r.2)
    else let r := expandRow e bm fs rest; (0 :: r.1, r.2)
def expandRows (e : Nat) : List Nat → List Nat → Rows
  | [], _ => []
  | bm :: bs, rest => let r := expandRow e bm (List.range 32) rest; r.1 :: expandRows e bs r.2
/-- R221: the bitmaps of a well-formed image; a dense one has a bit for each element that is not ±0 (R234). -/
def imageMaps (hdr body : List Nat) (rs : Rows) : List Nat :=
  if tagLay (recGet hdr 0 4) = 0 then rs.map (rowBitmap (tagEt (recGet hdr 0 4))) else (List.range 32).map fun p => recGet body (4 * p) 4
/-- R221: the rows of a well-formed image. -/
def imageRows (hdr body : List Nat) : Rows :=
  let e := tileW (tagEt (recGet hdr 0 4)) / 8
  if tagLay (recGet hdr 0 4) = 0 then (List.range 32).map fun p => (List.range 32).map fun f => recGet body ((32 * p + f) * e) e
  else expandRows e ((List.range 32).map fun p => recGet body (4 * p) 4) (body.drop 128)

end Sys2Proof.Machine
end

