-- ==== Sys2Proof/Machine/Tiles.lean ====
section
/-!
DEFINITION. The tile instructions, opcodes 0xB0 to 0xB8 (12: R214 to R235), and the transform pipe (R226, R234).
-/
namespace Sys2Proof.Machine

/-! Blocks (R214, R215). -/
/-- Element of feature f at a lane of the block at register b; +0 in a lane of `zero`. -/
def tileElem (c : Ctx) (b et : Nat) (zero : Mask) (f lane : Nat) : Nat :=
  if mbit zero lane then 0
  else elemAt (tileW et) (vget c.view c.split.frame (b + f / tilePer et) lane).toNat (f % tilePer et)
/-- One column: feature f of tile t. -/
def tileCol (c : Ctx) (b et : Nat) (zero : Mask) (t f : Nat) : List Nat := (List.range 32).map fun p => tileElem c b et zero f (32 * t + p)
/-- Every column of the wave's tiles, processed: tile, then feature. -/
def mapCols (c : Ctx) (b et : Nat) (zero : Mask) (g : Nat → List Nat → ColRes) : List (List ColRes) :=
  (List.range (c.view.width / 32)).map fun t => (List.range 32).map fun f => g f (tileCol c b et zero t f)
def colAt (cols : List (List ColRes)) (t f : Nat) : ColRes := (cols.getD t []).getD f { elems := [], flags := [] }
/-- Register k of a block, at a lane. -/
def blockLane (et : Nat) (cols : List (List ColRes)) (k lane : Nat) : Lane :=
  BitVec.ofNat 32 (elemsJoin (tileW et) (fun e => (colAt cols (lane / 32) (tilePer et * k + e)).elems.getD (lane % 32) 0) (tilePer et))
/-- R215: the lanes that have not exited. -/
def tileLanes (w : Wave) : List Nat := maskList (maskLow w.width &&& ~~~ w.ctl.exited)
/-- R215: flags of the lanes that have not exited. -/
def colFlags (w : Wave) (cols : List (List ColRes)) : Flags :=
  (tileLanes w).foldl (fun a l => (List.range 32).foldl (fun a f =>
    let r := colAt cols (l / 32) f
    a ||| r.flags.getD (l % 32) 0) a) 0
/-- The pending result that writes the columns to block d. -/
def blockResult (c : Ctx) (d et : Nat) (cols : List (List ColRes)) : Result :=
  let rows := (List.range (tileRegs et)).map fun k => rowOf c.view c.split.frame (d + k)
  let elems := (tileLanes c.view).flatMap fun l => (List.range (tileRegs et)).map fun k =>
    (laneKey (rowOf c.view c.split.frame (d + k)) l, blockLane et cols k l)
  { unit := .tile, ready := false, rows := rows, keys := elems.map (·.1), vec := elems.foldl (fun m e => spSet 0 m e.1 e.2) [],
    flags := colFlags c.view cols }

/-- R226: a job joins the pipe of the wave's core, and its result the outstanding-write set. -/
def pushTile (s : State) (wv : Nat) (r : Result) (j : TileJob) : State :=
  let s1 := pushResult s wv r
  let w := waveAt s wv
  let k := coreOf w
  let core := coreAt s1 k
  putCore s1 k { core with pipe := core.pipe ++ [{ j with wave := wv, res := s.nextId, quarter := w.quarter }] }
/-- The tag scalar as a pending write; bits 63:32 are zero. -/
def tagWrite (s : SReg) (t : Nat) (r : Result) : Result := { r with scalars := [s.val], sca := [(s.val, BitVec.ofNat 64 (t % 2 ^ 32))] }
def tagOf (c : Ctx) (s : SReg) : Nat := (sca c s).toNat % 2 ^ 32

/-- R215: usage of a collective tile instruction. -/
def tileUse (vr vw : List (Nat × Nat)) (sr sw : List Nat) : Usage :=
  { vr := vr, vw := vw, sr := sr, sw := sw, skipExec := true, collective := true, allLanes := true }
/-- R214: the usage of an instruction on blocks of the type that the tag in a scalar names. -/
def withTag (s : State) (ts : SReg) (u : Usage) : Usage := { u with blk16 := tileRegs (tagEt ((curSca s ts).toNat % 2 ^ 32)) }
/-- R228: the element type of THR. -/
def thrEt (m : Lane) : Nat := if 5 ≤ modeET m ∧ modeET m ≤ 7 then modeET m else 5
def thOf (w : Wave) (n k : Nat) : Nat := thGet w n k

/-- R227: HAAR, IHAAR and TRECON: from the tag's levels to L; `need` is what the tag must satisfy. -/
def transformBody (d a : VReg) (ts : SReg) (need : Nat → Bool) (level : Lane → Nat) (c : Ctx) (s : State) : State × Eff :=
  let t := tagOf c ts
  if !tagValid t || !need t then (s, .trap 0x0E 0 0)
  else
    let L := level c.split.mode
    let cols := mapCols c a.val (tagEt t) c.view.ctl.exited fun _ => transformCol (tagEt t) (modeRM c.split.mode) (tagLv t) L
    (pushTile s c.wv (tagWrite ts (tagAt t L) (blockResult c d.val (tagEt t) cols))
      { wave := 0, recons := if tagDom t = 1 ∧ L = 0 then c.view.width / 32 else 0 }, .done)
def execHaar (y : Bool) (d a : VReg) (ts : SReg) (s : State) : Result' :=
  issue s y (withTag s ts (tileUse [(a.val, 16)] [(d.val, 16)] [ts.val] [ts.val])) (transformBody d a ts (fun t => tagDom t == 0) modeTL)
def execIhaar (y : Bool) (d a : VReg) (ts : SReg) (s : State) : Result' :=
  issue s y (withTag s ts (tileUse [(a.val, 16)] [(d.val, 16)] [ts.val] [ts.val])) (transformBody d a ts (fun t => tagDom t == 1) fun _ => 0)
def execTrecon (y : Bool) (d a : VReg) (ts : SReg) (s : State) : Result' :=
  issue s y (withTag s ts (tileUse [(a.val, 16)] [(d.val, 16)] [ts.val] [ts.val])) (transformBody d a ts (fun _ => true) modeTL)

/-- R228. -/
def execThr (y : Bool) (d a : VReg) (th : ThReg) (s : State) : Result' :=
  issue s y { tileUse [(a.val, 16)] [(d.val, 16)] [] [] with blk16 := tileRegs (thrEt (curMode s)) } (fun c s =>
    let m := c.split.mode
    let et := thrEt m
    let cols := mapCols c a.val et c.view.ctl.exited fun _ x =>
      threshCol et (modeTL m) (thOf c.view th.val) { elems := x, flags := [] }
    (pushTile s c.wv (blockResult c d.val et cols) { wave := 0 }, .done))

/-- R229: the bias of a feature. -/
def biasOf (c : Ctx) (a : VReg) (et f : Nat) : Nat := elemAt (tileW et) (vec c a (f / tilePer et)).toNat (f % tilePer et)
def execTbias (y : Bool) (d a : VReg) (ts : SReg) (s : State) : Result' :=
  issue s y (withTag s ts (tileUse [(d.val, 16), (a.val, 1)] [(d.val, 16)] [ts.val] [])) (fun c s =>
    let t := tagOf c ts
    if !tagValid t then (s, .trap 0x0E 0 0)
    else
      let n := 32 / 2 ^ tagLv t
      let cols := mapCols c d.val (tagEt t) c.view.ctl.exited fun f =>
        biasCol (tagEt t) (modeRM c.split.mode) n (biasOf c a (tagEt t) f)
      (pushTile s c.wv (blockResult c d.val (tagEt t) cols) { wave := 0 }, .done))

/-- R230. -/
def execTact (y : Bool) (d a : VReg) (ts : SReg) (fn : Fin 8) (s : State) : Result' :=
  issue s y (withTag s ts (tileUse [(a.val, 16)] [(d.val, 16)] [ts.val] [ts.val])) (fun c s =>
    let t := tagOf c ts
    if !tagValid t then (s, .trap 0x0E 0 0)
    else
      let L := modeTL c.split.mode
      let cols := mapCols c a.val (tagEt t) c.view.ctl.exited fun _ =>
        tactCol (tagEt t) (modeRM c.split.mode) fn.val (tagLv t) L (thOf c.view (tagTh t))
      (pushTile s c.wv (tagWrite ts (tagAt t L) (blockResult c d.val (tagEt t) cols))
        { wave := 0, recons := if tagDom t = 1 then c.view.width / 32 else 0 }, .done))

/-! Slots in memory (R223). -/
/-- R223, R182, R314: where one segment of a slot lies; its length stands for its lane, and a segment of scratchpad that fails is named by its
lowest offending offset. -/
def slotAcc (s : State) (w : Wave) (access A : Nat) (g : Seg) : State × Acc :=
  if A < 2 ^ 63 then
    let r := resolveGlobal s (coreOf w) (islandOf s w) access (privileged s w) 1 g.va
    (r.1, { lane := g.len, addr := g.va, res := farArrives s (clusterOf w) r.2, walked := walks s (coreOf w) (islandOf s w) access g.va })
  else match lowestBad (groupAt s w.group) g.va g.len with
    | some o => (s, { lane := g.len, addr := o, res := .prot 2 0 })
    | none => (s, { lane := g.len, addr := g.va, res := .spad ((groupAt s w.group).base * 128 + g.va) })
def slotLocate (w : Wave) (access A : Nat) : List Seg → State → State × List Acc
  | [], s => (s, [])
  | g :: t, s =>
    let r := slotAcc s w access A g
    let q := slotLocate w access A t r.1
    (q.1, r.2 :: q.2)
/-- R207, R210, R235: the wait for the lines that hold the bytes that an instruction touches, given by offset and length. -/
def slotWait (s : State) (w : Wave) (access A : Nat) (runs : List (Nat × Nat)) : Option Wait :=
  blockedOn s (coreOf w) (runs.flatMap fun p => (slotLocate w access A (segsOf (A % 2 ^ 63 + p.1) p.2) s).2)
/-- R223: the checks over whole slots; `bad` is TST's tag check, which fails before any page is translated. `go` runs with every page translated; `touched` are the bytes that it
accesses. -/
def withSlots (c : Ctx) (s : State) (access A : Nat) (bad : Bool) (touched : State → List (Nat × Nat)) (go : State → State × Eff) : State × Eff :=
  let w := waveAt s c.wv
  if A % 128 ≠ 0 then (s, .trap 0x03 0 (A % 2 ^ 63))
  else
    let p := slotLocate w access A (segsOf (A % 2 ^ 63) (2304 * (w.width / 32))) s
    let xs := p.2
    if bad then (s, (gateTrap 4 access xs).getD (.trap 0x0E 0 0))
    else if walkDue w xs then walkPark p.1 c.wv
    else
      let s1 := walkOver p.1 c.wv
      match gateTrap 4 access xs with
      | some e => (s1, e)
      | none => match xs.filter fun x => resAbsent x.res with
        | x :: _ =>
          settleFault 4 c access [{ x with lane := 0 }] s1
        | [] => match slotWait s1 w access A (touched s1) with
          | some wt => (s1, .wait wt)
          | none =>
            let r := go s1
            (onWave r.1 c.wv fun w => if w.evt.replaying then { w with evt := { w.evt with replay := 0, replaying := false } } else w, r.2)
/-- The bytes of a run of a slot, as a relaxed load of the wave, with the keys of the read filter and the poisoned lines; the bytes of these are free
values (R212). -/
def slotRead (s : State) (w : Wave) (A off n : Nat) : List Nat × List Nat × List Nat :=
  let (s1, xs) := slotLocate w 0 A (segsOf (A % 2 ^ 63 + off) n) s
  let q : Asker := { core := coreOf w, isl := islandOf s w, priv := privileged s w }
  let ys := xs.map fun x => (({ va := x.addr, len := x.lane } : Seg), x.res)
  (ys.flatMap fun y => if segPoison s1 q y then freeSeg s1 y else segBytes s1 q y, accKeys xs, (ys.filter (segPoison s1 q)).map segLine)
/-- Bytes stored into a slot, as relaxed stores of the wave. -/
def slotWrite (c : Ctx) (A off : Nat) (bytes : List Nat) (s : State) : State × List Nat :=
  let w := waveAt s c.wv
  let (s1, xs) := slotLocate w 1 A (segsOf (A % 2 ^ 63 + off) bytes.length) s
  let r := xs.foldl (fun p x => (writeAcc c.wv (coreOf w) (islandOf s w) 0 false (p.2.take x.lane) p.1 { x with lane := 0 }, p.2.drop x.lane)) (s1, bytes)
  let full := xs.filter fun x => x.lane = 128
  let s2 := full.foldl (fun s x => match x.res with
    | .mem pa pte => if cacheable pa || pteRepl pte then s else clearPoison s (pa / 128)
    | _ => s) r.1
  ((accLines xs).foldl (recordStore w.fenced none (coreOf w)) s2, accKeys xs)

/-! TST (R232). -/
/-- The rows of a tile from its columns. -/
def colRows (cols : List ColRes) : Rows := (List.range 32).map fun p => cols.map fun r => r.elems.getD p 0
/-- R232: every image, one after another; also the stored elements. -/
def writeImages (c : Ctx) (A tag : Nat) : List (List ColRes) → Nat → State → State × Nat
  | [], _, s => (s, 0)
  | tile :: rest, t, s =>
    let rs := colRows tile
    let r := slotWrite c A (2304 * t) (imageBytes tag rs) s
    let q := writeImages c A tag rest (t + 1) (onWave r.1 c.wv fun w => noteWrites w c.sp r.2)
    (q.1, q.2 + survivorsOf (tagEt tag) rs)
def execTst (y : Bool) (d : VReg) (a ts : SReg) (th : Fin 8) (s : State) : Result' :=
  issue s y (withTag s ts (tileUse [(d.val, 16)] [] [a.val, ts.val] [ts.val])) (fun c s =>
    let t := tagOf c ts
    let A := (sca c a).toNat
    let m := c.split.mode
    let turn : Bool := tagDom t == 0 && modeTL m != 0
    let L := if turn then modeTL m else tagLv t
    let tag := mkTag (if turn then 1 else tagDom t) L (tagEt t) th.val 1
    let zero := c.view.ctl.exited ||| c.view.ctl.helpers
    let cols := mapCols c d.val (tagEt t) zero fun _ x =>
      threshCol (tagEt t) L (thOf c.view th.val)
        (if turn then transformCol (tagEt t) (modeRM m) 0 L x else { elems := x, flags := [] })
    let touched : List (Nat × Nat) := cols.zipIdx.map fun p => (2304 * p.2, (imageBytes tag (colRows p.1)).length)
    withSlots c s 1 A (!tagValid t) (fun _ => touched) fun s =>
      let r := writeImages c A tag cols 0 s
      (pushTile r.1 c.wv (tagWrite ts tag { unit := .tile, ready := false, flags := colFlags c.view cols }) { wave := 0, survivors := r.2 }, .done))

/-! TLD and TLDQ (R233, R234). -/
/-- An image as it was read: its header, rows, bitmaps, filter keys, whether it is well formed, and where it is poisoned. -/
structure Image where
  tag : Nat := 0
  rows : Rows := []
  maps : List Nat := []
  keys : List Nat := []
  good : Bool := false
  poisoned : List Nat := []
  deriving DecidableEq, Repr
def readImage (s : State) (w : Wave) (A t : Nat) : Image :=
  let h := slotRead s w A (2304 * t) 16
  let ok := headerGood h.1
  let b := if ok then slotRead s w A (2304 * t + 16) (imageLen h.1) else ([], [], [])
  let rows := if ok then imageRows h.1 b.1 else []
  { tag := recGet h.1 0 4, rows := rows, maps := if ok then imageMaps h.1 b.1 rows else [], keys := h.2.1 ++ b.2.1, good := ok && payloadGood h.1 b.1,
    poisoned := h.2.2 ++ b.2.2 }
def readImages (s : State) (w : Wave) (A : Nat) : List Image := (List.range (w.width / 32)).map (readImage s w A)
/-- R235: the bytes that reading the images touches. -/
def imageRuns (s : State) (w : Wave) (A : Nat) : List (Nat × Nat) := (List.range (w.width / 32)).flatMap fun t =>
  let h := (slotRead s w A (2304 * t) 16).1
  if headerGood h then [(2304 * t, 16 + imageLen h)] else [(2304 * t, 16)]
/-- R233, R234: what the tag scalar receives: word 0 of tile 0's image as it was read. A TLDQ writes it where that image is malformed, too: R222 has
nothing delivered for the tile, and R234 names no exception for the tag (DESIGN CHOICE, log 18). -/
def tagRead (is : List Image) : Nat := (is.head?).elim 0 (·.tag)
/-- R222, R233: the first image that is not well formed, else the first of another domain than tile 0's. -/
def firstMalformed (is : List Image) : Nat :=
  (is.findIdx? fun i => !i.good).getD ((is.findIdx? fun i => !sameDomain i.tag ((is[0]?).elim 0 (·.tag))).getD 0)
/-- R222, R212, R401: the imprecise events of the images read, at the poisoned lines and at the slot of the malformed image. -/
def imageEvents (c : Ctx) (s : State) (A : Nat) (malformed : Bool) (is : List Image) : List Imprecise :=
  let base : Imprecise := { split := c.sp, pc := c.split.pc, lanes := maskLow c.view.width &&& ~~~ c.view.ctl.exited, opened := (waveAt s c.wv).evt.openings }
  (is.flatMap (·.poisoned)).eraseDups.map (fun a => { base with code := 0x12, kind := 10, addr := a }) ++
    (if malformed then [{ base with code := 0x0E, addr := A % 2 ^ 63 + 2304 * firstMalformed is }] else [])
/-- R421: the events of the lines that the images come from over a sound link, should it go down. -/
def imageReads (c : Ctx) (s : State) (A : Nat) : List Imprecise :=
  let w := waveAt s c.wv
  let xs := (imageRuns s w A).flatMap fun p => (slotLocate w 0 A (segsOf (A % 2 ^ 63 + p.1) p.2) s).2
  (linkEvents s c xs).map fun e => { e with lanes := maskLow w.width &&& ~~~ w.ctl.exited }
/-- R97, R214: the registers of its block that a TLD writes, as far as the header of tile 0's image tells at issue; all 16 where it does not. R97 does
not say that the image is consulted (DESIGN CHOICE, log 18). -/
def tldRegs (s : State) (a : SReg) : Nat :=
  let h := slotRead s (curWave s) (curSca s a).toNat 0 16
  if h.2.2.isEmpty && headerGood h.1 then tileRegs (tagEt (recGet h.1 0 4)) else 16
def execTld (y : Bool) (d : VReg) (a ts : SReg) (s : State) : Result' :=
  issue s y { tileUse [] [(d.val, 16)] [a.val] [ts.val] with blk16 := tldRegs s a } (fun c s =>
    let A := (sca c a).toNat
    withSlots c s 0 A false (fun s => imageRuns s (waveAt s c.wv) A) fun s =>
      let is := readImages s (waveAt s c.wv) A
      let t0 := (is.headD {}).tag
      let ok := is.all fun i => i.good && sameDomain i.tag t0
      let et := if ok then tagEt t0 else 5
      let col (t f : Nat) : ColRes :=
        { elems := (List.range 32).map fun p =>
            if ok then (((is.getD t {}).rows.getD p []).getD f 0) else Config.anyValue c.free ((t * 32 + f) * 32 + p),
          flags := [] }
      let cols := (List.range is.length).map fun t => (List.range 32).map (col t)
      let tag := if ok then tagRead is else Config.anyValue c.free (2 ^ 20) % 2 ^ 32
      let s1 := onWave s c.wv fun w => noteReads w c.sp (is.flatMap (·.keys))
      (pushTile s1 c.wv { tagWrite ts tag (blockResult c d.val et cols) with imprecise := imageEvents c s A (!ok) is, reads := imageReads c s A } { wave := 0 }, .done))

/-- R234: the features of a row that its entry stores: those of the image's bitmap, but for detail elements that fall below the threshold. -/
def rowKept (w : Wave) (i : Image) (p : Nat) : List Nat :=
  let L := tagLv i.tag
  let k := detailLevel L p
  (List.range 32).filter fun f => bitOf (i.maps.getD p 0) f &&
    !(k != 0 && belowTh (tagEt i.tag) ((i.rows.getD p []).getD f 0) (thOf w (tagTh i.tag) k))
/-- R234: the rows of an image for the feed, thresholded with the register that it names. -/
def feedRows (w : Wave) (wv sp cmd t : Nat) (i : Image) : List FeedRow :=
  if !i.good then []
  else (List.range 32).map fun p =>
    let kept := rowKept w i p
    { tag := i.tag, tile := t, pos := p, esz := b2n (decide (tagEt i.tag = 7)), bitmap := (kept.map fun f => 2 ^ f).sum,
      elems := kept.map fun f => (i.rows.getD p []).getD f 0, wave := wv, cmd := cmd, split := sp, opened := w.evt.openings }
def execTldq (y : Bool) (a ts : SReg) (s : State) : Result' :=
  issue s y { tileUse [] [] [a.val] [ts.val] with feed := true } (fun c s =>
    let A := (sca c a).toNat
    if !holdsSlots s (waveAt s c.wv) then (s, .trap 0x02 0 0)
    else withSlots c s 0 A false (fun s => imageRuns s (waveAt s c.wv) A) fun s =>
      let w := waveAt s c.wv
      let is := readImages s w A
      let rows := (List.range is.length).flatMap fun t =>
        feedRows w c.wv c.sp s.nextId t (is.getD t {})
      let s1 := onWave s c.wv fun w => noteReads w c.sp (is.flatMap (·.keys))
      let events := imageEvents c s A (is.any fun i => !i.good) is
      (pushTile s1 c.wv (tagWrite ts (tagRead is) { unit := .tile, ready := false, imprecise := events, reads := imageReads c s A })
        { wave := 0, rows := rows, isFeed := true, cmd := s.nextId }, .done))

/-! The pipe. -/
/-- A result of the outstanding set lands, whatever unit returns it. -/
def landById (s : State) (wv id : Nat) : State :=
  match tbGet? s.waves wv with
  | none => s
  | some w => match w.out.find? fun r => r.id == id with
    | none => s
    | some r => settleSlots (putWave s wv (landing r w)) wv
/-- R213: counts of a finished job. -/
def countJob (j : TileJob) (c : Core) : Core :=
  { c with recons := (c.recons + j.recons) % 2 ^ 64, survivors := (c.survivors + j.survivors) % 2 ^ 64 }
/-- TILE_INSTRUCTION_COMPLETE (R226): the job at the head of the pipe finishes; a TLDQ keeps its rows. -/
def execTileInstructionComplete (core : Nat) (s : State) : Result' :=
  match (coreAt s core).pipe with
  | [] => event s
  | j :: rest =>
    if j.isFeed && j.res == 0 then event s
    else
      let s1 := landById s j.wave j.res
      let c := countJob j (coreAt s1 core)
      event (putCore s1 core { c with pipe := if j.rows.isEmpty then rest else { j with res := 0 } :: rest })
/-- R259: an earlier QPUSH to the quarter's q2 still waits for room. -/
def lineAhead (s : State) (k order : Nat) : Bool := (quarterAt s k).line.any fun e => decide (e.1 < order) && (match tbGet? s.waves e.2 with
  | some w => match w.ctl.wait with
    | .feedRoom _ => true
    | _ => false
  | none => false)
/-- TLDQ_ROW_PUSH (R234, R259): the next row of a TLDQ whose headers have been read enters q2 in its turn, when q2 has room. -/
def execTldqRowPush (core : Nat) (s : State) : Result' :=
  match (coreAt s core).pipe with
  | [] => event s
  | j :: rest =>
    if !(j.isFeed && j.res == 0) then event s
    else match j.rows with
      | [] => event (putCore s core { coreAt s core with pipe := rest })
      | r :: rs =>
        let q := quarterAt s j.quarter
        if decide (q.feed.length < 128) && !lineAhead s j.quarter j.cmd then
          let s1 := putQuarter s j.quarter { q with feed := q.feed ++ [r] }
          event (putCore s1 core { coreAt s1 core with pipe := if rs.isEmpty then rest else { j with rows := rs } :: rest })
        else event s

end Sys2Proof.Machine
end

