-- ==== Sys2Proof/Machine/Rings.lean ====
section
/-!
DEFINITION. Slot rings in scratchpad (15: R282 to R290): the header and slot words, their updates and the fill.
-/
namespace Sys2Proof.Machine

/-! Slot references (R272). -/
def refHdr (v : Nat) : Nat := bitsOf v 44 20
def refEn (v : Nat) : Bool := bitOf v 39
def refPh (v : Nat) : Bool := bitOf v 38
def refSlot (v : Nat) : Nat := bitsOf v 32 6
def refReserved (v : Nat) : Nat := bitsOf v 40 4

/-! Words of a ring (R282, R283). -/
def ringNat (s : State) (g off n : Nat) : Nat := let gr := groupAt s g; spadNat s gr.core (gr.base * 128 + off) n
def ringPut (s : State) (g off n v : Nat) : State := let gr := groupAt s g; spadPut s gr.core (gr.base * 128 + off) (leBytes n v)
/-- Slots of the ring: SLOTS is the count less one. -/
def ringSlots (s : State) (g hdr : Nat) : Nat := bitsOf (ringNat s g hdr 4) 0 6 + 1
def slotOff (hdr slot : Nat) : Nat := hdr + 16 + 8 * slot
/-- The entry of a slot in the group's record of its rings. -/
def slotEntry (s : State) (g hdr slot : Nat) : Option (Nat × Option Nat) :=
  ((groupAt s g).rings.find? fun e => e.1 == slotOff hdr slot).map (·.2)
/-- R283: the slot word as the device reads it. -/
def slotWord (s : State) (g hdr slot : Nat) : Nat :=
  let m := ringNat s g (slotOff hdr slot) 8
  match slotEntry s g hdr slot with
  | some e => slotView s.free m e
  | none => m
/-- The device writes a slot word anew; what a program has stored there counts no more where `keep` is none. -/
def slotSet (s : State) (g hdr slot v : Nat) (keep : Option Nat) : State :=
  let s1 := ringPut s g (slotOff hdr slot) 8 v
  let gr := groupAt s1 g
  putGroup s1 g { gr with rings := (slotOff hdr slot, v, keep) :: gr.rings.filter fun e => e.1 != slotOff hdr slot }
/-- R283: the device updates a slot word; each field may still end as a program has stored it since the device wrote it. -/
def slotPut (s : State) (g hdr slot v : Nat) : State :=
  let m := ringNat s g (slotOff hdr slot) 8
  slotSet s g hdr slot v ((slotEntry s g hdr slot).bind fun e => if m = e.1 then e.2 else some m)

/-- R287: WP advances by one modulo the slot count. -/
def advanceWp (s : State) (g hdr : Nat) : State :=
  let h := ringNat s g hdr 4
  let wp := (bitsOf h 6 6 + 1) % (bitsOf h 0 6 + 1)
  ringPut s g hdr 4 (h - bitsOf h 6 6 * 2 ^ 6 + wp * 2 ^ 6)
/-- R289: RP advances likewise. -/
def advanceRp (s : State) (g hdr : Nat) : State :=
  let h := ringNat s g hdr 4
  let rp := (bitsOf h 12 6 + 1) % (bitsOf h 0 6 + 1)
  ringPut s g hdr 4 (h - bitsOf h 12 6 * 2 ^ 12 + rp * 2 ^ 12)
/-- R208, R287: the slot has filled: the commands whose bytes there are all counted are visible to the group. -/
def noteFill (s : State) (g : Nat) (k : Nat × Nat) : State :=
  let whole (c : CopyCmd) : Bool := c.slot == some k && c.dests.contains g &&
    (c.pieces.all fun p => p.done || hopGroup c p.hop != g) && !(c.owed.any fun h => hopGroup c h == g)
  { s with cores := tbMap (fun _ x => { x with copies := x.copies.map fun c => if whole c then { c with filled := g :: c.filled } else c }) s.cores }
/-- R285 to R287: one update of the counts, and the fill when both are zero. -/
def countSlot (s : State) (g : Nat) (k : Nat × Nat) (dp da : Nat) : State :=
  let w := slotWord s g k.1 k.2
  let p := (slotPending w + dp) % 2 ^ 28
  let a := (slotArrive w + da) % 256
  let fills := p == 0 && a == 0
  let s1 := slotPut s g k.1 k.2 (mkSlot p a (slotPhase w != fills) (slotFaulted w))
  if fills then noteFill (advanceWp s1 g k.1) g k else s1
/-- R294: bytes go back to PENDING, and the slot stays unfilled. -/
def slotGiveBack (s : State) (g : Nat) (k : Nat × Nat) (dp : Nat) : State :=
  let w := slotWord s g k.1 k.2
  slotPut s g k.1 k.2 (mkSlot (slotPending w + dp) (slotArrive w) (slotPhase w) (slotFaulted w))
/-- R291: FAULT set or cleared. -/
def slotFault (s : State) (g : Nat) (k : Nat × Nat) (f : Bool) : State :=
  let w := slotWord s g k.1 k.2
  slotPut s g k.1 k.2 (mkSlot (slotPending w) (slotArrive w) (slotPhase w) f)
/-- What a command takes off. -/
def minus (m n : Nat) : Nat := m - n % m

/-- R167, R314: the bytes lie in the group's scratchpad. -/
def spadGood (s : State) (g off n : Nat) : Bool :=
  let gr := groupAt s g
  decide (off + n ≤ gr.limit * 128) && !engineRange gr off n
/-- R314: the failing offset of a range of scratchpad that is out of reach: the lowest offending one. -/
def spadFails (s : State) (g off n : Nat) : Nat := (lowestBad (groupAt s g) off n).getD off
/-- R272, R273 order 5: the reference names a slot of a ring that the group can reach. -/
def refGood (s : State) (g v : Nat) : Bool :=
  let h := refHdr v
  h % 16 == 0 && decide (h < 2 ^ 19) && refReserved v == 0 && spadGood s g h 16 && decide (refSlot v < ringSlots s g h) &&
    spadGood s g h (16 + 8 * ringSlots s g h)
/-- R288, R314: the failing offset of a reference that names no slot: where only the bytes of the ring are out of reach, the lowest of them. -/
def refFails (s : State) (g v : Nat) : Nat :=
  let h := refHdr v
  if h % 16 ≠ 0 ∨ 2 ^ 19 ≤ h ∨ refReserved v ≠ 0 then h
  else if !spadGood s g h 16 then spadFails s g h 16
  else if ringSlots s g h ≤ refSlot v then h
  else spadFails s g h (16 + 8 * ringSlots s g h)

end Sys2Proof.Machine
end

