-- ==== Sys2Proof/Machine/Copies.lean ====
section
/-!
DEFINITION. The copy engine (15: R269 to R281, R291 to R294): the checks at issue, the pieces of a command, faults and failures in
mid-copy, cancellation, and the instructions CPY to CPYM, BATCH and BWAIT (0xC8 to 0xCE).
-/
namespace Sys2Proof.Machine

/-! Commands. -/
def copyAt (s : State) (core idx : Nat) : Option CopyCmd := (coreAt s core).copies[idx]?
def setCopies (s : State) (core : Nat) (l : List CopyCmd) : State := putCore s core { coreAt s core with copies := l }
/-- The command numbered `id` of a core replaced. -/
def mapCopy (s : State) (core id : Nat) (f : CopyCmd → CopyCmd) : State :=
  setCopies s core ((coreAt s core).copies.map fun c => if c.id = id then f c else c)
def mapPieces (f : CopyPiece → CopyPiece) (c : CopyCmd) : CopyCmd := { c with pieces := c.pieces.map f }
/-- R269: entries of the command queue in use. -/
def copiesQueued (s : State) (core : Nat) : Nat := ((coreAt s core).copies.filter fun c => !copyEnded c).length

/-! Collective copies (R277). -/
def arrivalsOf (g : Group) (key wv : Nat) : Nat := ((g.arrivals.find? fun a => a.1 == key && a.2.1 == wv).map (·.2.2)).getD 0
/-- The live participants of a key: every wave of the group, or those of the role in it. -/
def takesPart (s : State) (key wv : Nat) : Bool := if bitOf key 2 then (waveAt s wv).role == key / 8 else true
/-- Every participant has issued its `gen`-th slice, or has ended. -/
def collectiveWhole (s : State) (g key gen : Nat) : Bool :=
  (liveWaves s g).all fun k => !takesPart s key k || decide (gen ≤ arrivalsOf (groupAt s g) key k)
def sameCollective (g key gen : Nat) (c : CopyCmd) : Bool := c.kind == .collective key gen && hopGroup c 0 == g
/-- R277, R281: the command is complete for its batch. -/
def copyOver (s : State) (c : CopyCmd) : Bool := match c.kind with
  | .collective key gen =>
    let g := hopGroup c 0
    collectiveWhole s g key gen && (allCopies s).all fun d => !sameCollective g key gen d || copyEnded d
  | _ => copyEnded c
/-- R288, R292: the slot of a group that has not ended may still give the failure of the command, or of its hop there, to an RWAIT. -/
def owesFailure (s : State) (c : CopyCmd) : Bool := c.slot.isSome && (List.range c.dests.length).any fun h =>
  (tbGet? s.groups (hopGroup c h)).isSome && ((c.failed.isSome && !c.freed.contains (hopGroup c h)) || c.failedHops.contains h)
/-- R208: what the command has written to the scratchpad of a group is not yet visible there. -/
def unseen (s : State) (c : CopyCmd) : Bool := c.pieces.any fun p => !p.old.isEmpty && (tbGet? s.groups (hopGroup c p.hop)).isSome && !copySeen s c (hopGroup c p.hop)
/-- A command that is over is dropped, unless its failure has still to be taken, or its writes to scratchpad are not visible yet. -/
def sweepCopies (s : State) : State :=
  let keep (c : CopyCmd) : Bool := !copyOver s c || owesFailure s c || unseen s c || (c.failed.isSome && !c.told)
  { s with cores := tbMap (fun _ k => { k with copies := k.copies.filter keep }) s.cores }

/-! Slots counted against. -/
/-- The command holds FAULT up in the slot: an unresolved fault, or a failure. -/
def holdsFault (g : Nat) (k : Nat × Nat) (c : CopyCmd) : Bool :=
  c.slot == some k && !c.freed.contains g &&
    ((List.range c.dests.length).any fun h => hopGroup c h == g && c.failedHops.contains h ||
      (hopGroup c h == g && (c.failed.isSome || c.pieces.any fun p => p.fault.isSome)))
/-- R291, R294: FAULT clears unless another command holds it. -/
def settleFaultBit (s : State) (c : CopyCmd) : State := match c.slot with
  | none => s
  | some k => (c.dests.filter fun g => (tbGet? s.groups g).isSome).foldl (fun s g => if (allCopies s).any (holdsFault g k) then s else slotFault s g k false) s
def raiseFaultBit (s : State) (c : CopyCmd) : State := match c.slot with
  | none => s
  | some k => (c.dests.filter fun g => (tbGet? s.groups g).isSome).foldl (fun s g => slotFault s g k true) s

/-! Endpoints (R271). -/
/-- R273 order 1. -/
def endBad (A : Nat) : Bool := if isScratch A then bitsOf A 19 44 != 0 else decide (2 ^ 57 ≤ A)
/-- R168: the address is the FIFO port. -/
def isPort (s : State) (isl A : Nat) : Bool := !isScratch A && ((apertureOff s isl A).map fun o => decide (2 ^ 24 ≤ o)).getD false
def endLow (A n : Nat) (g : Group) : List Nat := if isScratch A && n != 0 then (lowestBad g (A % 2 ^ 19) n).toList else []

/-- Where the bytes of an endpoint lie, in the scratchpad of group `g`. -/
def endLocate (q : Asker) (g access A n : Nat) (s : State) : State × List (Seg × LaneRes) :=
  if isScratch A then (s, [({ va := A % 2 ^ 63, len := n }, .spad ((groupAt s g).base * 128 + A % 2 ^ 63))])
  else locate q access (segsOf A n) s
/-- The lines that a range lies in, as they are owned. -/
def segLines (core : Nat) (xs : List (Seg × LaneRes)) : List Nat := xs.filterMap fun x => match x.2 with
  | .mem pa _ => some (pa / 128)
  | .far o => some (farLine (core / 8) o)
  | _ => none
/-- R176, R210: where the bytes lie is not settled yet. -/
def notYet : LaneRes → Bool
  | .farSoon _ => true
  | .held _ => true
  | _ => false
/-- R400: the keys of a range in a read filter. -/
def segKeys (A n : Nat) (xs : List (Seg × LaneRes)) : List Nat :=
  if isScratch A then (List.range ((A % 2 ^ 19 % 128 + n + 127) / 128)).map fun k => spadKey (A % 2 ^ 19 / 128 * 128 + 128 * k)
  else xs.flatMap fun x => match x.2 with
    | .mem pa _ => [lineKey pa]
    | .far o => [2 ^ 53 + o / 128]
    | _ => []

/-! Issue. -/
/-- One range that a command moves: a whole CPY, or the row of a lane. -/
structure CopyRow where
  num : Nat
  src : Nat
  dst : Nat
  len : Nat
  deriving DecidableEq, Repr
/-- What a copy instruction asks for. -/
structure CopyPlan where
  kind : CopyKind
  /-- The endpoint scalars. -/
  bases : List Nat
  rows : List CopyRow
  bytes : Nat
  /-- R272: the slot reference, in bits 63:32. -/
  ref : Nat
  dests : List Nat
  srcFifo : Bool := false
  dstFifo : Bool := false
  deriving DecidableEq, Repr

/-- Whether the pieces are rows (R275). -/
def byRows : CopyKind → Bool
  | .gather => true
  | .scatter => true
  | _ => false
/-- R276: the first address that breaks a FIFO or alignment rule. -/
def planMisaligned (p : CopyPlan) (port : Nat → Bool) : Option Nat :=
  if byRows p.kind then minBy id (p.bases.filter (fun A => A % 16 != 0 || port A) ++ (p.rows.flatMap fun r => [r.src, r.dst]).filter port)
  else if p.srcFifo ∨ p.dstFifo then
    if p.bytes % 128 ≠ 0 then minBy id (p.bases.filter port)
    else minBy id (p.bases.filter fun A => (!port A || (p.srcFifo && p.dstFifo)) && A % 128 != 0)
  else none
/-- R273: the checks in their order; `far` is CPYM's. -/
def planTrap (s : State) (isl g : Nat) (p : CopyPlan) (far : Bool) : Option Eff :=
  let ends := p.bases ++ p.rows.flatMap fun r => [r.src, r.dst]
  let gr := groupAt s g
  match minBy id (ends.filter endBad) with
  | some A => some (.trap 0x02 0 (A % 2 ^ 63))
  | none => match minBy id (p.rows.flatMap fun r => endLow r.src r.len gr ++ endLow r.dst r.len gr) with
    | some o => some (.trap 0x02 0 o)
    | none => match planMisaligned p (isPort s isl) with
      | some A => some (.trap 0x03 0 (A % 2 ^ 63))
      | none =>
        if 2 ^ 28 ≤ p.bytes then some (.trap 0x0D 0 0)
        else if refReserved p.ref ≠ 0 then some (.trap 0x01 0 0)
        else if refEn p.ref && !refGood s g p.ref then some (.trap 0x02 0 (refFails s g p.ref))
        else if far then some (.trap 0x02 0 0)
        else none

/-- R291: the 128-byte blocks of a destination from `dst` on; a FIFO's entries (R169) are counted from the first byte. -/
def cutBlocks (fifo : Bool) (hop src dst : Nat) : Nat → Nat → Nat → List CopyPiece
  | 0, _, _ => []
  | fuel + 1, num, n =>
    if n = 0 then []
    else
      let k := min n (if fifo then 128 else 128 - dst % 128)
      { num := num, hop := hop, src := src, dst := dst, len := k } :: (cutBlocks fifo hop (src + k) (dst + k) fuel (num + 1) (n - k))
def planPieces (p : CopyPlan) : List CopyPiece :=
  if byRows p.kind then p.rows.map fun r => { num := r.num, src := r.src, dst := r.dst, len := r.len }
  else (List.range p.dests.length).flatMap fun h => p.rows.flatMap fun r => cutBlocks p.dstFifo h r.src r.dst (r.len / 128 + 2) 0 r.len

/-- R292: the poisoned line or scratchpad word that a segment meets first. -/
def poisonAddr (s : State) (q : Asker) (x : Seg × LaneRes) : Option Nat := match x.2 with
  | .mem pa _ => if segPoison s q x then some (pa / 128 * 128) else none
  | .far _ => if segPoison s q x then some (x.1.va / 128 * 128) else none
  | .spad p => (minBy id ((coreAt s q.core).spadPoison.filter fun wd => decide (p < 4 * wd + 4) && decide (4 * wd < p + x.1.len))).map fun wd =>
      x.1.va + 4 * wd - p
  | _ => none
/-- A source segment of a piece that has still to be read, and can be now. -/
def readable (s : State) (core id : Nat) (p : CopyPiece) (x : Seg × LaneRes) : Bool :=
  !badRes x.2 && !segWait s core id x && !(p.parts.any fun e => e.1 == x.1.va)
/-- R198, R212: the piece with the source segments that can be read now, and the poison that it meets there; `xs` is its whole source. -/
def takeSource (s : State) (q : Asker) (id : Nat) (xs : List (Seg × LaneRes)) (p : CopyPiece) : CopyPiece :=
  let now := xs.filter (readable s q.core id p)
  let parts := p.parts ++ now.map fun x => (x.1.va, segBytes s q x)
  let find (x : Seg × LaneRes) : Option (List Nat) := (parts.find? fun e => e.1 == x.1.va).map (·.2)
  { p with parts := parts, bad := p.bad.orElse fun _ => now.findSome? (poisonAddr s q),
           data := if xs.all fun x => (find x).isSome then some (xs.flatMap fun x => (find x).getD []) else none }
/-- R198, R207, R279: at issue a piece's source is read, as far as it can be, and its destination lines are owned. -/
def issuePiece (q : Asker) (g id : Nat) (plan : CopyPlan) (p : CopyPiece) (s : State) : State × CopyPiece :=
  let own := plan.srcFifo || p.hop != 0
  let (s1, xs) := if own then (s, []) else endLocate q g 0 p.src p.len s
  let p1 := if own then p else takeSource s1 q id xs p
  let (s2, ds) := if plan.dstFifo then (s1, []) else endLocate q g 0 p.dst p.len s1
  let lines := segLines q.core ds
  (lines.foldl (fun s l => ownLine id s l) s2, { p1 with lines := lines, placed := (firstBad ds).isNone && !(ds.any fun x => notYet x.2) })
def issuePieces (q : Asker) (g id : Nat) (plan : CopyPlan) : List CopyPiece → State → State × List CopyPiece
  | [], s => (s, [])
  | p :: t, s =>
    let r := issuePiece q g id plan p s
    let k := issuePieces q g id plan t r.1
    (k.1, r.2 :: k.2)

/-- R293, R400: what the command does to the region of its split. -/
def noteCopy (q : Asker) (g wv sp : Nat) (p : CopyPlan) (s : State) : State :=
  let keys (pick : CopyRow → Nat) (port : Bool) : List Nat := p.rows.flatMap fun r =>
    if port then [] else segKeys (pick r) r.len (endLocate q g 0 (pick r) r.len s).2
  let fifo := p.srcFifo || p.dstFifo
  onWave s wv fun w =>
    let w1 := noteReads w sp (keys (·.src) p.srcFifo)
    if fifo then putSplit w1 sp (closeRegion (getSplit w1 sp)) else noteWrites w1 sp (keys (·.dst) p.dstFifo)

/-- R274: the command is one plain range whose source and destination overlap. -/
def overlaps (c : CopyCmd) : Bool :=
  let src := (c.pieces.headD {}).src
  let dst := (c.pieces.headD {}).dst
  let len := (c.pieces.map (·.len)).sum
  (match c.kind with
    | .cpy => true
    | .collective _ _ => true
    | _ => false) && !c.srcFifo && !c.dstFifo && src != dst && decide (src < dst + len) && decide (dst < src + len)
/-- R274: the byte that an overlapping copy delivers at place `i`, whose own source byte is `v`: the original byte, or the one already copied to
where its source lies, `k` places on. `at' j` is the byte for place `j` with whether it has been delivered; none where it has not been read. -/
def mixByte (key : Nat) (at' : Nat → Option (Bool × Nat)) (len : Nat) (k : Int) : Nat → Nat → Nat → Nat
  | 0, v, _ => v
  | n + 1, v, i =>
    let j := (i : Int) + k
    if 0 ≤ j ∧ j < (len : Int) ∧ Config.race key (2 ^ 22 + i) = true then match at' j.toNat with
      | none => v
      | some (true, u) => u
      | some (false, u) => mixByte key at' len k n u j.toNat
    else v
/-- R274: the bytes that a piece delivers when it is performed. -/
def mixPiece (c : CopyCmd) (p : CopyPiece) (bytes : List Nat) : List Nat :=
  if overlaps c then
    let src := (c.pieces.headD {}).src
    let dst := (c.pieces.headD {}).dst
    let len := (c.pieces.map (·.len)).sum
    let at' (j : Nat) : Option (Bool × Nat) := (c.pieces.find? fun x => decide (x.src - src ≤ j) && decide (j < x.src - src + x.len)).bind fun x =>
      x.data.bind fun d => d[j - (x.src - src)]?.map fun v => (x.done, v)
    (List.range p.len).map fun j => mixByte c.mixKey at' len ((src : Int) - dst) len (bytes.getD j 0) (p.src - src + j)
  else bytes

/-- R360: the launch of a group has taken a fault record; it goes on. -/
def noteRecord (s : State) (g : Nat) : State :=
  let gr := groupAt s g
  if (tbGet? s.groups g).isNone then s else putLaunch s gr.launch { launchAt s gr.launch with recorded := true }
/-- R273, R278, R293: a command of no bytes is complete at issue: it counts its arrivals, and a FIFO endpoint closes the region. An arrival that
another member's scratchpad cannot take is a failing hop. -/
def emptyCopy (c : Ctx) (p : CopyPlan) (slot : Option (Nat × Nat)) (s : State) : State :=
  let w := waveAt s c.wv
  let s1 := if p.srcFifo || p.dstFifo then onWave s c.wv fun w => putSplit w c.sp (closeRegion (getSplit w c.sp)) else s
  match slot with
  | none => s1
  | some k => p.dests.foldl (fun s g =>
      if g = w.group || refGood s g (k.1 * 2 ^ 44 + k.2 * 2 ^ 32) then countSlot s g k 0 255
      else noteRecord (placeFault s (islandOf s w)
        { code := 0x02, who := whoWord w c.sp, addr := k.1, pc := c.split.pc, block := (launchOf s w).addr }).1 w.group) s1
/-- R176: a command that names far-scratchpad bytes whose way leaves far mode when a SRCFG that has parked completes: it is performed before, or
takes the range failure, a free choice. -/
def farCut (s : State) (q : Asker) (p : CopyPlan) : Bool :=
  let leaves (A n : Nat) : Bool := !isScratch A && ((apertureOff s q.isl A).map fun o =>
    decide (o < 2 ^ 24) && (farLeaves s (q.core / 8) o || farLeaves s (q.core / 8) (o + n - 1))).getD false
  (p.rows.any fun r => leaves r.src r.len || leaves r.dst r.len) && Config.race s.free (2 ^ 25)
/-- R273 to R280: a copy command at issue. -/
def copyBody (p : CopyPlan) (far : Bool) (c : Ctx) (s : State) : State × Eff :=
  let w := waveAt s c.wv
  let q := askerOf s c.wv
  match planTrap s q.isl w.group p far with
  | some e => (s, e)
  | none =>
    let slot := if refEn p.ref then some (refHdr p.ref, refSlot p.ref) else none
    if p.bytes = 0 then (emptyCopy c p slot s, .done)
    else if 32 ≤ copiesQueued s q.core then (s, .wait .copyQueue)
    else
      let s1 := noteCopy q w.group c.wv c.sp p s
      let x := getSplit (waveAt s1 c.wv) c.sp
      let id := s1.nextId
      let (s2, ps) := issuePieces q w.group id p (planPieces p) { s1 with nextId := id + 1 }
      let cmd : CopyCmd :=
        { id := id, kind := p.kind, wave := c.wv, split := c.sp, who := whoWord w c.sp, batch := w.batch, slot := slot, dests := p.dests, pieces := ps,
          island := q.isl, priv := q.priv, pc := c.split.pc, block := (launchOf s w).addr,
          opened := if x.region.isOpen then x.region.opened else 0, srcFifo := p.srcFifo, dstFifo := p.dstFifo,
          cut := farCut s q p, mixKey := c.free, limit := (groupAt s w.group).limit }
      (setCopies s2 q.core ((coreAt s2 q.core).copies ++ [cmd]), .done)

/-- The plan of a CPY. -/
def cpyPlan (kind : CopyKind) (s : State) (wv : Nat) (dests : List Nat) (dst src len : Nat) : CopyPlan :=
  let isl := islandOf s (waveAt s wv)
  let n := len % 2 ^ 32
  { kind := kind, bases := [src, dst], rows := [{ num := 0, src := src, dst := dst, len := n }], bytes := n, ref := len, dests := dests,
    srcFifo := isPort s isl src, dstFifo := isPort s isl dst }
def useCopy (d a l : SReg) : Usage := { sr := [d.val, a.val, l.val] }
/-- CPY (R274). -/
def execCpy (y : Bool) (d a l : SReg) (s : State) : Result' :=
  issue s y (useCopy d a l) (fun c s =>
    copyBody (cpyPlan .cpy s c.wv [(waveAt s c.wv).group] (sca c d).toNat (sca c a).toNat (sca c l).toNat) false c s)

/-- R275: the lanes that supply rows. -/
def rowLanes (c : Ctx) : List Nat := maskList (c.wm &&& ~~~ c.view.ctl.helpers)
/-- R275: the plan of CPYG and CPYS. -/
def rowsPlan (scatter : Bool) (s : State) (d : SReg) (a : VReg) (b : SReg) (q : Nat) (c : Ctx) : CopyPlan :=
  let R := 2 ^ (q + 4)
  let sd := (sca c d).toNat
  let sb := (sca c b).toNat
  let at' (base k : Nat) : Nat := (base + k * R) % 2 ^ 64
  let rows := (rowLanes c).map fun i =>
    let x := (vec c a i).toNat
    { num := i, src := at' sb (if scatter then i else x), dst := at' sd (if scatter then x else i), len := R }
  { kind := if scatter then .scatter else .gather, bases := [sb, sd], rows := rows, bytes := rows.length * R,
    ref := (sget c.view (b.val + 1)).toNat, dests := [(waveAt s c.wv).group] }
def useRows (d : SReg) (a : VReg) (b : SReg) : Usage := { vr := [(a.val, 1)], sr := [d.val, b.val, b.val + 1] }
def execCpyg (y : Bool) (d : SReg) (a : VReg) (b : SReg) (q : Fin 8) (s : State) : Result' :=
  issue s y (useRows d a b) (fun c s => copyBody (rowsPlan false s d a b q.val c) false c s)
def execCpys (y : Bool) (d : SReg) (a : VReg) (b : SReg) (q : Fin 8) (s : State) : Result' :=
  issue s y (useRows d a b) (fun c s => copyBody (rowsPlan true s d a b q.val c) false c s)

/-- R277: the key of a collective, with the role where the role selects the participants. -/
def collKey (w : Wave) (q : Nat) : Nat := if bitOf q 2 then q + 8 * w.role else q
/-- R277: the wave's next arrival at a key. -/
def arriveColl (s : State) (wv key : Nat) : State × Nat :=
  let g := (waveAt s wv).group
  let gr := groupAt s g
  let n := arrivalsOf gr key wv + 1
  (putGroup s g { gr with arrivals := (key, wv, n) :: gr.arrivals.filter fun a => !(a.1 == key && a.2.1 == wv) }, n)
/-- CPYB (R277): an empty slice leaves an entry that its batch waits on. -/
def execCpyb (y : Bool) (d a l : SReg) (q : Fin 8) (s : State) : Result' :=
  issue s y { useCopy d a l with skipExec := true, collective := true, closes := true } (fun c s =>
    let w := waveAt s c.wv
    let key := collKey w q.val
    let gen := arrivalsOf (groupAt s w.group) key c.wv + 1
    let p := cpyPlan (.collective key gen) s c.wv [w.group] (sca c d).toNat (sca c a).toNat (sca c l).toNat
    match copyBody p false c s with
    | (s1, .done) =>
      let core := coreOf w
      let s2 := if p.bytes = 0 then
          setCopies { s1 with nextId := s1.nextId + 1 } core ((coreAt s1 core).copies ++
            [{ id := s1.nextId, kind := .collective key gen, wave := c.wv, batch := w.batch, dests := [w.group] }])
        else s1
      (sweepCopies (arriveColl s2 c.wv key).1, .done)
    | r => r)

/-- No group has this number. -/
def noGroup : Nat := 2 ^ 64
/-- R278: the groups of the members k, k + 1, ... of the atoll; one that has ended has no scratchpad, and its hop fails. -/
def atollGroups (s : State) (g n : Nat) : List Nat :=
  let gr := groupAt s g
  (List.range n).map fun j => if j = 0 then g else
    ((s.groups.find? fun e => e.2.launch == gr.launch && e.2.index == gr.index + j).map (·.1)).getD noGroup
/-- CPYM (R278). -/
def execCpym (y : Bool) (d a l : SReg) (q : Fin 8) (s : State) : Result' :=
  issue s y { useCopy d a l with closes := true } (fun c s =>
    let g := (waveAt s c.wv).group
    let n := q.val + 1
    let far := decide ((groupAt s g).atoll < (groupAt s g).member + n)
    let dst := (sca c d).toNat
    if !endBad dst && !isScratch dst && !endBad (sca c a).toNat then (s, .trap 0x02 0 dst)
    else copyBody (cpyPlan .multi s c.wv (atollGroups s g n) dst (sca c a).toNat (sca c l).toNat) far c s)

/-! Batches (R280, R281). -/
def execBatch (y : Bool) (d : SReg) (s : State) : Result' :=
  issue s y (useSw d) (onRegs fun _ w => { sset w d.val (BitVec.ofNat 64 w.batch) with batch := (w.batch + 1) % 2 ^ 64 })
/-- The commands that a BWAIT of s covers. -/
def covered (s : State) (wv n : Nat) : List CopyCmd := (allCopies s).filter fun c => c.wave == wv && decide (c.batch ≤ n)
/-- R281: none of them is under way. -/
def batchOver (s : State) (wv n : Nat) : Bool := (covered s wv n).all (copyOver s)
/-- R281: the failure that the next BWAIT takes. -/
def batchFailure (s : State) (wv n : Nat) : Option CopyCmd := minBy (·.id) ((covered s wv n).filter fun c => c.failed.isSome && !c.told)
def execBwait (y : Bool) (a : SReg) (s : State) : Result' :=
  issue s y (useSr a) (fun c s =>
    let n := (sca c a).toNat
    if !batchOver s c.wv n then (s, .wait (.batch n))
    else match batchFailure s c.wv n with
      | some f => match f.failed with
        | some (code, addr) =>
          let tell (d : CopyCmd) : CopyCmd := if d.id = f.id then { d with told := true } else d
          (sweepCopies { s with cores := tbMap (fun _ k => { k with copies := k.copies.map tell }) s.cores }, .denied code f.failTrans addr)
        | none => (s, .done)
      | none => (invalidateClean s (coreOf (waveAt s c.wv)), .done))

/-! Failures and faults (R291, R292). -/
def copyAsker (core : Nat) (c : CopyCmd) : Asker := { core := core, isl := c.island, priv := c.priv }
/-- R292: the command ends; its lines are released and FAULT stays set. A range failure also leaves a fault record (R168, R176). -/
def failCopy (s : State) (core : Nat) (c : CopyCmd) (code addr trans : Nat) : State :=
  let s1 := releaseOwned s c.id (c.pieces.flatMap (·.lines))
  let s2 := mapCopy s1 core c.id fun d => { mapPieces (fun p => { p with fault := none }) d with failed := some (code, addr), failTrans := trans }
  let s3 := raiseFaultBit s2 c
  if code = 0x04 then noteRecord (placeFault s3 c.island { code := code, who := c.who, addr := addr, pc := c.pc, block := c.block }).1 (hopGroup c 0) else s3

/-- A piece that meets a page which is not present: its place, number, address, access and level. -/
structure Missing where
  id : Nat
  num : Nat
  addr : Nat
  access : Nat
  level : Nat
  deriving DecidableEq, Repr
/-- The first unreachable segment of a piece: of its source, then of its destination, with the access. -/
def pieceBad (s : State) (core : Nat) (c : CopyCmd) (p : CopyPiece) : State × Option (Nat × Nat × Seg × LaneRes) :=
  let q := copyAsker core c
  let g := hopGroup c p.hop
  let (s1, xs) := if p.data.isSome || c.srcFifo || p.hop != 0 then (s, []) else endLocate q (hopGroup c 0) 0 p.src p.len s
  match firstBad xs with
  | some x => (s1, some (0, p.src, x))
  | none =>
    let (s2, ds) := if c.dstFifo then (s1, []) else endLocate q g 1 p.dst p.len s1
    match firstBad ds with
    | some x => (s2, some (1, p.dst, x))
    | none => (s2, none)
/-- The pieces of a command that meet absent pages now. -/
def missingPieces (s : State) (core : Nat) (c : CopyCmd) : List Missing :=
  (List.range c.pieces.length).filterMap fun i =>
    let p := c.pieces.getD i {}
    if p.done || p.fault.isSome || p.commit != 0 then none
    else match (pieceBad s core c p).2 with
      | some (access, addr, _, .absent l) => some { id := i, num := p.num, addr := addr, access := access, level := l }
      | _ => none
/-- R291: a record for each window of 128 pieces; a bit stands for a lane where the pieces are rows. -/
def recordMissing (core : Nat) (c : CopyCmd) : Nat → List Missing → State → State
  | 0, _, s => s
  | fuel + 1, ms, s => match ms with
    | [] => s
    | m :: _ =>
      let j := if byRows c.kind then 0 else m.num
      let now := ms.filter fun x => decide (x.num < j + 128)
      let (s1, slot) := placeWaiting s c.island
        { code := 0x0F, who := c.who, addr := m.addr, pc := c.pc, trans := transWord 1 m.access 0 m.level,
          rows := now.foldl (fun r x => r + 2 ^ (x.num - j)) 0, block := c.block }
      let ids := now.map (·.id)
      let one (d : CopyCmd) (i : Nat) : CopyPiece :=
        let p := d.pieces.getD i {}
        if ids.contains i then { p with fault := some slot, faultAddr := m.addr } else p
      let mark (d : CopyCmd) : CopyCmd := { d with pieces := (List.range d.pieces.length).map (one d) }
      recordMissing core c fuel (ms.filter fun x => decide (j + 128 ≤ x.num)) (mapCopy s1 core c.id mark)
def faultCopy (s : State) (core : Nat) (c : CopyCmd) : State :=
  raiseFaultBit (recordMissing core c c.pieces.length (missingPieces s core c) s) c

/-- R406: the verdict on a fault record: the pieces that it marks go on, or the command fails with code 0x0F. -/
def copyVerdict (isl slot : Nat) (ok : Bool) (trans : Nat) (s : State) : State :=
  let hit (p : CopyPiece) : Bool := p.fault == some slot
  let mine := s.cores.flatMap fun e => (e.2.copies.filter fun c => c.island == isl && c.failed.isNone && c.pieces.any hit).map fun c => (e.1, c)
  mine.foldl (fun s e =>
    if ok then
      let c := mapPieces (fun p => if hit p then { p with fault := none } else p) e.2
      settleFaultBit (mapCopy s e.1 c.id fun _ => c) c
    else failCopy s e.1 e.2 0x0F (((e.2.pieces.find? hit).map (·.faultAddr)).getD 0) trans) s

/-! Pieces performed (R286, R291). -/
/-- R276, R278, R279: the piece's turn has come. -/
def pieceTurn (c : CopyCmd) (i : Nat) (p : CopyPiece) : Bool :=
  (!(c.srcFifo || c.dstFifo) || (c.pieces.take i).all (·.done)) &&
    !(c.pieces.any fun o => decide (o.hop < p.hop) && o.num == p.num && !o.done)
/-- R275: of rows that meet, the highest lane's bytes are written; `bytes` are those of piece `p` from `p.pos` on. -/
def underHigher (c : CopyCmd) (p : CopyPiece) (bytes : List Nat) : List Nat :=
  if c.kind == .scatter then (List.range bytes.length).map fun j =>
    let a := p.dst + p.pos + j
    match (c.pieces.filter fun o => decide (p.num < o.num) && decide (o.dst ≤ a) && decide (a < o.dst + o.pos)).reverse.head? with
    | some o => (o.data.getD []).getD (a - o.dst) 0
    | none => bytes.getD j 0
  else bytes
/-- R279, R286: the bytes that one access of the engine performs: a row goes at most 128 bytes at a time. -/
def chunkLen (c : CopyCmd) (p : CopyPiece) : Nat := if c.dstFifo then p.len else min (p.len - p.pos) (128 - (p.dst + p.pos) % 128)
/-- R286: `n` bytes of piece i are counted; with the last byte of its hop an arrival is owed. -/
def countPiece (s : State) (core : Nat) (c : CopyCmd) (i n : Nat) : State := match c.slot with
  | none => s
  | some k =>
    let p := c.pieces.getD i {}
    let s1 := countSlot s (hopGroup c p.hop) k (minus (2 ^ 28) n) 0
    if c.pieces.all fun o => o.done || o.hop != p.hop then mapCopy s1 core c.id fun d => { d with owed := d.owed ++ [p.hop] } else s1
/-- R286, R287: an arrival that is owed is counted, an update of its own. -/
def countArrival (s : State) (core : Nat) (c : CopyCmd) : State := match c.owed, c.slot with
  | h :: rest, some k => sweepCopies (countSlot (mapCopy s core c.id fun d => { d with owed := rest }) (hopGroup c h) k 0 255)
  | _, _ => s
/-- The lines that no other piece still needs. -/
def freeLines (c : CopyCmd) (i : Nat) : List Nat :=
  let p := c.pieces.getD i {}
  p.lines.filter fun l => !((List.range c.pieces.length).any fun j => let o := c.pieces.getD j {}; j != i && !o.done && o.lines.contains l)
/-- R286: `n` bytes of piece i have been performed. -/
def endChunk (s : State) (core : Nat) (c : CopyCmd) (i : Nat) (p : CopyPiece) (n : Nat) : State :=
  let last := p.pos + n == p.len
  let s1 := if last then releaseOwned s c.id (freeLines c i) else s
  let c' : CopyCmd := { c with pieces := c.pieces.set i { p with pos := p.pos + n, done := last, commit := 0 } }
  sweepCopies (countPiece (mapCopy s1 core c.id fun _ => c') core c' i n)
/-- The bytes of scratchpad that a segment holds, whatever a program may read there. -/
def oldBytes (s : State) (q : Asker) (x : Seg × LaneRes) : List Nat := match x.2 with
  | .spad p => (spRange 0 (coreAt s q.core).spad p x.1.len).map (·.toNat)
  | _ => []
/-- R209: the page is marked replicated. -/
def resRepl : LaneRes → Bool
  | .mem _ pte => pteRepl pte
  | _ => false
/-- R209: the commits that a command has just begun on these lines are its own; its bytes there are performed when they are done. -/
def claimCommits (s : State) (c : CopyCmd) (lines : List Nat) : State :=
  putDev s { s.dev with commits := s.dev.commits.map fun k =>
    if k.wave = c.wave ∧ k.start = s.dev.cycle ∧ lines.contains k.line then { k with cmd := c.id } else k }
def commitsOver (s : State) (c : CopyCmd) (p : CopyPiece) : Bool := !(s.dev.commits.any fun k => k.cmd == c.id && p.lines.contains k.line)
/-- The next bytes of a piece whose source is at hand, and whose destination is free, are written; those of a replicated page are performed when
their commit is done (R209). -/
def putPiece (s : State) (core : Nat) (c : CopyCmd) (i : Nat) (p : CopyPiece) (bytes : List Nat) (ds : List (Seg × LaneRes)) : State :=
  let cl := core / 8
  let n := chunkLen c p
  let q := copyAsker (groupAt s (hopGroup c p.hop)).core c
  let mixed := mixPiece c p bytes
  let part := (mixed.drop p.pos).take n
  let s1 := if c.dstFifo then
      let k := clusterAt s cl
      putCluster s cl { k with fifo := k.fifo ++ [part] }
    else spoilPools q.isl (p.dst + p.pos) n (engineWriteAll c.wave q ds (underHigher c p part) s)
  let p' : CopyPiece := { p with data := some mixed, old := if isScratch p.dst then p.old ++ ds.flatMap (oldBytes s q) else [] }
  let c' : CopyCmd := { c with pieces := c.pieces.set i p' }
  if ds.any fun x => resRepl x.2 then
    mapCopy (claimCommits s1 c (segLines core ds)) core c.id fun _ => { c with pieces := c.pieces.set i { p' with commit := n } }
  else endChunk (mapCopy s1 core c.id fun _ => c') core c' i p' n
/-- R278: the source bytes of a later hop are those that hop 0 read. -/
def hopData (c : CopyCmd) (p : CopyPiece) : Option (List Nat) :=
  if p.hop = 0 then p.data else (c.pieces.find? fun o => o.hop == 0 && o.num == p.num).bind (·.data)

/-! What a piece could not do at issue, because a page was absent or a line owned (R198, R207). -/
/-- The source of a piece of which some of what has still to be read can be now. -/
def sourceNow (s : State) (core : Nat) (c : CopyCmd) (p : CopyPiece) : Option (State × List (Seg × LaneRes)) :=
  let q := copyAsker core c
  if p.done || p.data.isSome || c.srcFifo || p.hop != 0 then none
  else
    let (s1, xs) := endLocate q (hopGroup c 0) 0 p.src p.len s
    if xs.any (readable s1 core c.id p) then some (s1, xs) else none
/-- The destination of a piece that has still to be owned, where it can be now. -/
def destNow (s : State) (core : Nat) (c : CopyCmd) (p : CopyPiece) : Option (State × List (Seg × LaneRes)) :=
  if p.done || p.placed || c.dstFifo then none
  else
    let (s1, ds) := endLocate (copyAsker core c) (hopGroup c p.hop) 0 p.dst p.len s
    if (firstBad ds).isSome || ds.any (fun x => notYet x.2) then none else some (s1, ds)
/-- R209: the commit of the piece's bytes is done. -/
def commitNow (s : State) (c : CopyCmd) (p : CopyPiece) : Bool := p.commit != 0 && commitsOver s c p
/-- R198, R200, R207, R209, R400: a piece reads its source, and owns its destination, as soon as it can, before any wave accesses them; bytes whose
commit is done are performed. -/
def settlePiece (s : State) (core : Nat) (c : CopyCmd) (i : Nat) (p : CopyPiece) : State :=
  if commitNow s c p then endChunk s core c i p p.commit
  else
    let setPiece (f : CopyPiece → CopyPiece) (s : State) : State := mapCopy s core c.id fun d => { d with pieces := d.pieces.set i (f (d.pieces.getD i {})) }
    let s1 := match sourceNow s core c p with
      | none => s
      | some (t, xs) =>
        let note (w : Wave) : Wave :=
          if (getSplit w c.split).region.isOpen && (getSplit w c.split).region.opened == c.opened then
            noteReads w c.split (segKeys p.src p.len (xs.filter (readable t core c.id p))) else w
        setPiece (takeSource t (copyAsker core c) c.id xs) (onWave { t with free := t.free + 1 } c.wave note)
    match destNow s1 core c p with
    | none => s1
    | some (t, ds) =>
      let lines := segLines core ds
      setPiece (fun x => { x with lines := lines, placed := true }) (lines.foldl (fun s l => ownLine c.id s l) t)
/-- The command has a piece that `settlePiece` moves. -/
def settles (s : State) (core : Nat) (c : CopyCmd) (p : CopyPiece) : Bool :=
  commitNow s c p || (c.failed.isNone && ((sourceNow s core c p).isSome || (destNow s core c p).isSome))

/-- R177: a command in flight while SPCFG has lowered its group's LIMIT uses the old configuration or the new one, a free choice: the offset at
which it fails under the new. -/
def limitFails (s : State) (c : CopyCmd) (p : CopyPiece) : Option Nat :=
  let g := groupAt s (hopGroup c p.hop)
  if p.hop = 0 ∧ g.limit < c.limit ∧ Config.race s.free (2 ^ 25 + 1 + p.num) then
    minBy id (endLow p.src p.len g ++ endLow p.dst p.len g)
  else none
/-- One piece of a started command (R291, R292). -/
def doPiece (s : State) (core : Nat) (c : CopyCmd) (i : Nat) (p : CopyPiece) : State :=
  let q := copyAsker core c
  let cl := core / 8
  let endp := if isPort s c.island p.src then p.src else p.dst
  if c.cut ∨ ((c.srcFifo ∨ c.dstFifo) ∧ !ownsCluster s c.island cl) then failCopy s core c 0x04 endp 0
  else if (limitFails s c p).isSome then failCopy { s with free := s.free + 1 } core c 0x02 ((limitFails s c p).getD 0) 0
  else match pieceBad s core c p with
    | (s1, some (access, _, x)) => match failOf x with
      | .absent _ _ => faultCopy s1 core c
      | .denied a r l => failCopy s1 core c 0x02 a (if l = 0 then 0 else transWord 1 access r l)
      | .range a => failCopy s1 core c 0x04 a 0
    | (s1, none) =>
      let (s2, ds) := if c.dstFifo then (s1, []) else endLocate q (hopGroup c p.hop) 1 (p.dst + p.pos) (chunkLen c p) s1
      if ds.any (segWait s2 core c.id) then s
      else if c.dstFifo && decide (fifoCap (clusterAt s cl) ≤ (clusterAt s cl).fifo.length) then s
      else if c.srcFifo ∧ p.hop = 0 then match (clusterAt s cl).fifo with
        | [] => s
        | e :: rest => putPiece (putCluster s2 cl { clusterAt s2 cl with fifo := rest }) core c i p e ds
      else match p.bad, hopData c p with
        | some a, _ => failCopy s2 core c 0x12 a 0
        | none, some bytes => putPiece s2 core c i p bytes ds
        | none, none =>
          if p.hop ≠ 0 then s
          else
            let (s3, xs) := endLocate q (hopGroup c 0) 0 p.src p.len s2
            if xs.any fun x => segWait s3 core c.id x && !(p.parts.any fun e => e.1 == x.1.va) then s else settlePiece s core c i p
/-- The pieces that may be performed: the command runs, the piece is not done and waits for no verdict, and its turn has come. -/
def runPiece (s : State) (core idx i : Nat) (f : CopyCmd → CopyPiece → State) : State := match copyAt s core idx with
  | none => s
  | some c => match c.pieces[i]? with
    | none => s
    | some p => if c.started && c.failed.isNone && !p.done && p.commit == 0 && p.fault.isNone && pieceTurn c i p then f c p else s
/-- COPY_PIECE (R291): an arrival that is owed, what the piece could not do at issue, or its bytes. -/
def execCopyPiece (core idx piece : Nat) (s : State) : Result' := match copyAt s core idx with
  | none => event s
  | some c =>
    if !c.owed.isEmpty then event (countArrival s core c)
    else match c.pieces[piece]? with
      | none => event s
      | some p =>
        if settles s core c p then event (settlePiece s core c piece p)
        else event (runPiece s core idx piece fun c p => if p.hop = 0 then doPiece s core c piece p else s)

/-- R278: a hop to another member fails alone: a protection record, FAULT in its own slot, its pieces dropped. -/
def failHop (s : State) (core : Nat) (c : CopyCmd) (hop addr : Nat) : State :=
  let s1 := noteRecord (placeFault s c.island { code := 0x02, who := c.who, addr := addr, pc := c.pc, block := c.block }).1 (hopGroup c 0)
  let s2 := match c.slot with
    | some k => if (tbGet? s1.groups (hopGroup c hop)).isSome && refGood s1 (hopGroup c hop) (k.1 * 2 ^ 44 + k.2 * 2 ^ 32) then slotFault s1 (hopGroup c hop) k true else s1
    | none => s1
  sweepCopies (mapCopy s2 core c.id fun d =>
    { d with pieces := d.pieces.filter (fun p => p.hop != hop), failedHops := hop :: d.failedHops, hopAddrs := (hop, addr) :: d.hopAddrs })
/-- R278: the member's scratchpad takes the whole range, and the slot. -/
def hopGood (s : State) (c : CopyCmd) (hop : Nat) : Bool :=
  let g := hopGroup c hop
  (c.pieces.all fun p => p.hop != hop || spadGood s g (p.dst % 2 ^ 63) p.len) &&
    (match c.slot with
    | some k => refGood s g (k.1 * 2 ^ 44 + k.2 * 2 ^ 32)
    | none => true)
/-- CPYM_HOP (R278). -/
def execCpymHop (core idx piece : Nat) (s : State) : Result' :=
  event (runPiece s core idx piece fun c p =>
    if p.hop = 0 then s else if hopGood s c p.hop then doPiece s core c piece p else failHop s core c p.hop (p.dst % 2 ^ 63))

/-! Starts (R277, R279). -/
def isCollective (c : CopyCmd) : Bool := match c.kind with
  | .collective _ _ => true
  | _ => false
/-- R277, R279: a command takes its place in the order of starts at its issue, a slice of a collective when the last slice has arrived: an
unstarted command before place `n` holds later ones up, but for the slices of a collective that is not whole. -/
def startsBefore (s : State) (ds : List CopyCmd) : Bool := ds.all fun d => d.started || (match d.kind with
  | .collective k gen => !collectiveWhole s (hopGroup d 0) k gen
  | _ => false)
/-- COPY_COMMAND_START (R279): in order of issue. -/
def execCopyCommandStart (core idx : Nat) (s : State) : Result' := match copyAt s core idx with
  | none => event s
  | some c =>
    if !isCollective c && !c.started && startsBefore s ((coreAt s core).copies.take idx) then
      event (mapCopy s core c.id fun d => { d with started := true })
    else event s
/-- R279: the commands of the group's core that were issued before the last of these slices, and are none of them. -/
def beforeSlices (s : State) (g : Nat) (go : CopyCmd → Bool) : List CopyCmd :=
  let l := (coreAt s (groupAt s g).core).copies
  let last := (l.filter go).foldl (fun m c => max m c.id) 0
  l.filter fun c => decide (c.id < last) && !go c
/-- COLLECTIVE_COPY_START (R277): when all slices have arrived, they start together, in their place among the core's commands. -/
def execCollectiveCopyStart (g key : Nat) (s : State) : Result' :=
  let whole (c : CopyCmd) : Bool := match c.kind with
    | .collective k gen => k == key && hopGroup c 0 == g && collectiveWhole s g key gen
    | _ => false
  let go (c : CopyCmd) : Bool := whole c && startsBefore s (beforeSlices s g whole)
  let run (c : CopyCmd) : CopyCmd := if go c then { c with started := true } else c
  event (sweepCopies { s with cores := tbMap (fun _ k => { k with copies := k.copies.map run }) s.cores })

/-! Cancellation (R294). -/
/-- The bytes that a command has taken off a hop's slot. -/
def takenOff (c : CopyCmd) (hop : Nat) : Nat := (c.pieces.filter fun p => p.hop == hop).foldl (fun n p => n + p.pos) 0
/-- R294: the command leaves its queue, and its slot gets back what it took. -/
def cancelCopy (s : State) (core : Nat) (c : CopyCmd) : State :=
  let s1 := releaseOwned s c.id (c.pieces.flatMap (·.lines))
  let s2 := setCopies s1 core ((coreAt s1 core).copies.filter fun d => d.id != c.id)
  match c.slot with
  | none => s2
  | some k => settleFaultBit ((List.range c.dests.length).foldl (fun s h => slotGiveBack s (hopGroup c h) k (takenOff c h)) s2) c
/-- R294: every command that a split issued in a region and that is not complete. -/
def cancelRegion (s : State) (wv sp opened : Nat) : State :=
  let mine := s.cores.flatMap fun e => (e.2.copies.filter fun c =>
    c.wave == wv && c.split == sp && c.opened == opened && opened != 0 && !(c.failed.isNone && copyEnded c)).map fun c => (e.1, c)
  mine.foldl (fun s e => cancelCopy s e.1 e.2) s

end Sys2Proof.Machine
end

