-- ==== Sys2Proof/Machine/RingInstr.lean ====
section
/-!
DEFINITION. The ring instructions, opcodes 0xCF to 0xD2 (15: R284, R285, R288 to R290).
-/
namespace Sys2Proof.Machine

/-- R289, R292: no failure is held against the ring of `hdr` any more, or against one slot of it. -/
def forgetFailures (s : State) (g hdr : Nat) (slot : Option Nat) : State :=
  let hit (k : Nat × Nat) : Bool := k.1 == hdr && (match slot with
    | some n => k.2 == n
    | none => true)
  let clean (c : CopyCmd) : CopyCmd := match c.slot with
    | none => c
    | some k =>
      if hit k then
        { c with failedHops := c.failedHops.filter fun h => hopGroup c h != g,
                 freed := if c.failed.isSome && c.dests.contains g then g :: c.freed else c.freed }
      else c
  sweepCopies { s with cores := tbMap (fun _ k => { k with copies := k.copies.map clean }) s.cores }

/-- R284. -/
def initRing (s : State) (g hdr slots bytes : Nat) : State :=
  let s1 := ringPut (ringPut s g hdr 4 slots) g (hdr + 4) 4 bytes
  (List.range (slots + 1)).foldl (fun s k => slotSet s g hdr k 0 none) (ringPut s1 g (hdr + 8) 8 0)
/-- RNGINIT (R284). -/
def execRnginit (y : Bool) (a : SReg) (s : State) : Result' :=
  issue s y { useSr a with closes := true } (fun c s =>
    let v := (sca c a).toNat
    let g := (waveAt s c.wv).group
    let hdr := bitsOf v 0 19
    let slots := bitsOf v 32 6
    if bitsOf v 19 13 ≠ 0 ∨ bitsOf v 38 2 ≠ 0 then (s, .trap 0x01 0 0)
    else if hdr % 16 ≠ 0 then (s, .trap 0x02 0 hdr)
    else if !spadGood s g hdr (16 + 8 * (slots + 1)) then (s, .trap 0x02 0 (spadFails s g hdr (16 + 8 * (slots + 1))))
    else (leaveSlots (forgetFailures (initRing s g hdr slots (bitsOf v 40 24)) g hdr none) c.wv, .done))

/-- R288, R292: the failure that a command holds against a slot: its code, address and translation word. -/
def failureOn (g : Nat) (k : Nat × Nat) (c : CopyCmd) : Option (Nat × Nat × Nat) :=
  if c.slot == some k && c.dests.contains g && !c.freed.contains g then match c.failed with
    | some f => some (f.1, f.2, c.failTrans)
    | none => (c.hopAddrs.find? fun h => hopGroup c h.1 == g && c.failedHops.contains h.1).map fun h => (0x02, h.2, 0)
  else none
/-- R288, R292: the failure that holds the slot's FAULT. -/
def ringFailure (s : State) (g : Nat) (k : Nat × Nat) : Option (Nat × Nat × Nat) :=
  if !slotFaulted (slotWord s g k.1 k.2) then none else (allCopies s).findSome? (failureOn g k)
/-- R292: a BWAIT does not take a failure again that an RWAIT has taken. -/
def tellRing (s : State) (g : Nat) (k : Nat × Nat) : State := match (allCopies s).find? fun c => (failureOn g k c).isSome with
  | some f => { s with cores := tbMap (fun _ x => { x with copies := x.copies.map fun c => if c.id = f.id then { c with told := true } else c }) s.cores }
  | none => s
/-- R288: what ends the wait of an RWAIT. -/
def ringOver (s : State) (g : Nat) (k : Nat × Nat) (ph : Bool) : Bool :=
  (ringFailure s g k).isSome || slotPhase (slotWord s g k.1 k.2) == ph
/-- RWAIT (R288). -/
def execRwait (y : Bool) (a : SReg) (s : State) : Result' :=
  issue s y (useSr a) (fun c s =>
    let v := (sca c a).toNat
    let w := waveAt s c.wv
    if !refGood s w.group v then (s, .trap 0x02 0 (refFails s w.group v))
    else
      let k := (refHdr v, refSlot v)
      match ringFailure s w.group k with
      | some f => (tellRing s w.group k, .denied f.1 f.2.2 f.2.1)
      | none =>
        if slotPhase (slotWord s w.group k.1 k.2) = refPh v then (leaveSlots (invalidateClean s (coreOf w)) c.wv, .done)
        else (s, .wait (.ring k.1 k.2 (refPh v))))
/-- RREL (R289). -/
def execRrel (y : Bool) (a : SReg) (s : State) : Result' :=
  issue s y { useSr a with closes := true } (fun c s =>
    let v := (sca c a).toNat
    let g := (waveAt s c.wv).group
    if !refGood s g v then (s, .trap 0x02 0 (refFails s g v))
    else
      let k := (refHdr v, refSlot v)
      (leaveSlots (advanceRp (slotFault (forgetFailures s g k.1 (some k.2)) g k false) g k.1) c.wv, .done))
/-- RARRV (R285): a release at MODE.SC. -/
def execRarrv (y : Bool) (a b : SReg) (s : State) : Result' :=
  issue s y { sr := [a.val, b.val], closes := true } (fun c s =>
    let v := (sca c a).toNat
    let n := (sca c b).toNat
    let w := waveAt s c.wv
    if !refGood s w.group v then (s, .trap 0x02 0 (refFails s w.group v))
    else if !releaseClear s c.wv then (s, .wait .release)
    else
      let s1 := releasePush s (coreOf w) (islandOf s w) (fenceScope (modeSC c.split.mode))
      (leaveSlots (countSlot s1 w.group (refHdr v, refSlot v) (bitsOf n 0 28) (bitsOf n 28 8)) c.wv, .done))

end Sys2Proof.Machine
end

