-- ==== Sys2Proof/Machine/Records.lean ====
section
/-!
DEFINITION. The record reads that some instructions make at issue as one relaxed load of their wave (17: R317; 18: R332, R334, R344).
-/
namespace Sys2Proof.Machine

/-- The segments of a run as accesses of lane 0. -/
def segAccs (xs : List (Seg × LaneRes)) : List Acc :=
  xs.map fun x => { lane := 0, addr := x.1.va, helper := false, res := x.2 }
/-- The poison event of a read of the scalar unit (R212); it acts on no lane. -/
def readPoison (s : State) (c : Ctx) (q : Asker) (xs : List (Seg × LaneRes)) : List Imprecise :=
  (xs.filter (segPoison s q)).map fun x =>
    { split := c.sp, code := 0x12, kind := 10, addr := (match x.2 with
        | .mem pa _ => pa / 128 * 128
        | _ => x.1.va), pc := c.split.pc, opened := (waveAt s c.wv).evt.openings }
def endReplay (w : Wave) : Wave := if w.evt.replaying then { w with evt := { w.evt with replay := 0, replaying := false } } else w
/-- R182, R353: the translation of some segment takes a walk. -/
def recordWalks (s : State) (q : Asker) (va n : Nat) : Bool := (segsOf va n).any fun g => walks s q.core q.isl 0 g.va
/-- n bytes at a global address, aligned to `align`: the checks of R182, with the park for a walk, the wait for an owner, a page fault with
cw.replay = 0x1 (R187), then the bytes. -/
def readRecord (c : Ctx) (s : State) (va n align : Nat) (k : State → List Nat → State × Eff) : State × Eff :=
  if va % align ≠ 0 then (s, .trap 0x03 0 va)
  else
    let q := askerOf s c.wv
    let (s0, xs) := locate q 0 (segsOf va n) s
    let w := waveAt s c.wv
    let accs := segAccs xs
    if !w.ctl.walked && recordWalks s q va n then walkPark s0 c.wv
    else
    let s1 := walkOver s0 c.wv
    match gateTrap 0 0 accs with
    | some e => (s1, e)
    | none => match accs.filter fun x => resAbsent x.res with
      | x :: _ => settleFault 0 c 0 [x] s1
      | [] => match blockedOn s1 (coreOf w) accs with
        | some wt => (s1, .wait wt)
        | none =>
          let bad := xs.any (segPoison s1 q)
          let bytes := if bad then (List.range n).map fun j => Config.anyValue c.free (2 ^ 21 + j) % 256 else xs.flatMap (segBytes s1 q)
          let s2 := onWave s1 c.wv fun w =>
            let w1 := noteReads (endReplay w) c.sp (accKeys accs)
            { w1 with evt := { w1.evt with imprecise := w1.evt.imprecise ++ readPoison s1 c q xs } }
          k s2 bytes

end Sys2Proof.Machine
end

