-- ==== Sys2Proof/Machine/BeamEngine.lean ====
section
/-!
DEFINITION. The beam engine (16, 17: R297 to R329): configuration and binding, descriptors, the pool, traversal, rays, fragments and
retirement. Whether the engine skips a child box that its test rules out is a free choice (R311); no fragment depends on it.
-/
namespace Sys2Proof.Machine

/-! The pool (R321, R322). -/
/-- Free pool entries; a stack extension takes one each. -/
def poolUsed (g : Group) : Nat := g.pool.foldl (fun n e => n + e.ext + b2n !e.outside) 0
def poolFree (g : Group) : Nat := bcEntries g.bcfg - poolUsed g
def poolRoom (g : Group) : Bool := decide (bcReserve g.bcfg + 1 ≤ poolFree g)
/-- Orders of the children that wait. -/
def waitOrders (g : Group) : List Nat := g.pool.flatMap fun e => e.wait.map (·.1)
def oldestWait (g : Group) (n : Nat) : Bool := (waitOrders g).all fun m => decide (n ≤ m)
/-- R322: every live entry of the pool waits. -/
def allWaiting (g : Group) : Bool := g.pool.all fun e => e.outside || (!e.ended && !e.wait.isEmpty)
def beamOf (g : Group) (id : Nat) : Beam := (g.beams.find? fun b => b.id == id).getD {}
def mapBeam (id : Nat) (f : Beam → Beam) (g : Group) : Group := { g with beams := g.beams.map fun b => if b.id = id then f b else b }
def setEntry (i : Nat) (e : PoolEntry) (g : Group) : Group := { g with pool := g.pool.set i e }
def dropEntry (i : Nat) (g : Group) : Group := { g with pool := dropAt g.pool i }
def addEntries (es : List PoolEntry) (g : Group) : Group := { g with pool := g.pool ++ es }
/-- The word of the BVH root: a traversal starts there. -/
def rootWord : Nat := 1

/-- R329, R408: the swap phase of the cluster runs. -/
def swapRuns (s : State) (cl : Nat) : Bool := ((clusterAt s cl).reclaim.bind (·.swap)).isSome
/-- R329, R408: a group whose core neither halts for a swap nor has been swapped. -/
def workingGroup (s : State) (g : Nat) : Option Group := (tbGet? s.groups g).filter fun gr => !gr.away && !swapRuns s (gr.core / 8)
/-- R329: the group for an entry of its pool: rays in progress go on until the core has been swapped. -/
def entryGroup (s : State) (g idx : Nat) : Option Group := (tbGet? s.groups g).filter fun gr =>
  !gr.away && (!swapRuns s (gr.core / 8) || (gr.pool.getD idx {}).outside)

/-! The fragment queue. -/
def q1Full (g : Group) : Bool := decide (bcFqCap g.bcfg ≤ g.q1.length)
/-- R306: no unfinished piece of the beam reaches the pixel. -/
def pixelDone (g : Group) (b : Beam) (px py : Nat) : Bool :=
  let sq := pixelSquare px py
  b.cam.isSome && (g.pool.all fun e => e.beam != b.id || e.ray.isSome || e.ended ||
    (((e.poly :: e.wait.map (·.2)).all fun p => (cutBy sq p).isEmpty)))
/-- The candidates seen in a pixel with their areas and moments, over the finished pieces. -/
def pixelSeen (b : Beam) (px py : Nat) : List (BeamCand × Moment) :=
  let K := testRegion b.desc
  b.done.flatMap fun d =>
    let cell := cutBy (pixelSquare px py) d.1
    if cell.isEmpty then [] else seenOn K d.2 cell
def mergeSeen : List (BeamCand × Moment) → List (BeamCand × Moment)
  | [] => []
  | x :: t =>
    let rest := mergeSeen t
    if rest.any fun y => y.1.num == x.1.num then rest.map fun y => if y.1.num = x.1.num then (y.1, momentAdd x.2 y.2) else y
    else x :: rest
/-- R305: a split line of A and some candidate of the beam crosses the interior of the pixel within J. A piece that has finished has met every
candidate. -/
def snapsIn (b : Beam) (px py : Nat) (A : BeamCand) : Bool :=
  let K := testRegion b.desc
  let sq := pixelSquare px py
  b.met.any fun B => B.num != A.num && (match splitLine K A B with
    | some l => crosses l (cutBy sq (pairJ K A B))
    | none => false)
/-- The finished fragments of a VIS beam that have not entered q1: pixel, triangle and record. -/
def visPending (g : Group) (b : Beam) : List ((Nat × Nat × Nat) × List Nat) :=
  (pixelsIn (dOX b.desc) (dOY b.desc) (dW b.desc) (dH b.desc)).flatMap fun p =>
    if pixelDone g b p.1 p.2 then
      ((mergeSeen (pixelSeen b p.1 p.2)).filter fun r => !b.emitted.contains (p.1, p.2, r.1.num)).map fun r =>
        ((p.1, p.2, r.1.num), fragWords (b.cam.getD []) r.1 p.1 p.2 r.2.area (momentCentre r.2) (snapsIn b p.1 p.2 r.1) false)
    else []
/-- Every piece of the beam has finished. -/
def beamIdle (g : Group) (b : Beam) : Bool := b.cam.isSome && !(g.pool.any fun e => e.beam == b.id && !e.ended)
/-- R309: the one fragment of an OCC beam; its finished pieces are the free ones. -/
def occPending (g : Group) (b : Beam) : List ((Nat × Nat × Nat) × List Nat) :=
  if beamIdle g b && b.emitted.isEmpty then
    [((0, 0, 0), occWords b.desc (sumRat (b.done.map fun d => areaOf d.1) / areaOf (testRegion b.desc)))]
  else []
def pendingOf (g : Group) (b : Beam) : List ((Nat × Nat × Nat) × List Nat) := if dMode b.desc = 1 then occPending g b else visPending g b
/-- Fragments that may enter q1 now, with their beams. -/
def groupPending (g : Group) : List (Nat × (Nat × Nat × Nat) × List Nat) := g.beams.flatMap fun b => (pendingOf g b).map fun f => (b.id, f)
/-- R69, R73: a conversion of the engine for a beam has clamped: SA of the wave that pushed it, while that wave lives. -/
def clampFlag (clamps : Bool) (b : Beam) (s : State) : State :=
  if clamps ∧ (tbGet? s.waves b.wave).isSome then onWave s b.wave (landFlags flSA) else s
/-- R73: a conversion for the fragment of a pixel clamps: the centroid of its visible set, or the ends of a split line of its candidate. -/
def visClamps (b : Beam) (key : Nat × Nat × Nat) : Bool :=
  (mergeSeen (pixelSeen b key.1 key.2.1)).any fun r =>
    let g := momentCentre r.2
    r.1.num == key.2.2 && (centroidClamps (g.x - (key.1 : Int)) || centroidClamps (g.y - (key.2.1 : Int)) ||
      b.met.any fun B => B.num != r.1.num && splitClamps (testRegion b.desc) r.1 B)
/-- FRAGMENT_EMIT (R306, R325): a finished fragment enters q1, when it has room. -/
def execFragmentEmit (g idx : Nat) (s : State) : Result' := match workingGroup s g with
  | none => event s
  | some gr =>
    if q1Full gr then event s
    else match (groupPending gr)[idx]? with
      | none => event s
      | some (id, key, rec) =>
        let b := beamOf gr id
        event (clampFlag (dMode b.desc != 1 && visClamps b key) b
          (putGroup s g (mapBeam id (fun b => { b with emitted := b.emitted ++ [key] }) { gr with q1 := gr.q1 ++ [rec] })))

/-! Retirement (R320, R324). -/
/-- R320, R324: the beam leaves with all its work. -/
def dropBeam (id : Nat) (g : Group) : Group :=
  { g with beams := g.beams.filter fun b => b.id != id, pool := g.pool.filter fun e => e.beam != id }
/-- R320, R403: the event of a beam error. -/
def beamError (s : State) (isl : Nat) (desc : List Nat) (who cause : Nat) : State :=
  placeEvent s isl { kind := 2, cause := cause, who := who, aux := desc.getD 3 0, aux2 := dId desc }
def failBeam (s : State) (g id cause : Nat) : State :=
  let gr := groupAt s g
  let b := beamOf gr id
  beamError (putGroup s g (dropBeam id gr)) (launchAt s gr.launch).island b.desc b.who cause
/-- BEAM_RETIRE (R324). -/
def execBeamRetire (g beam : Nat) (s : State) : Result' := match workingGroup s g with
  | none => event s
  | some gr => match gr.beams.find? fun b => b.id == beam with
    | none => event s
    | some b => event (if beamIdle gr b && (pendingOf gr b).isEmpty then putGroup s g (dropBeam beam gr) else s)

/-! Scene reads (R312). -/
def groupAsker (s : State) (g : Nat) : Asker :=
  let gr := groupAt s g
  { core := gr.core, isl := (launchAt s gr.launch).island, priv := lbPriv (launchAt s gr.launch) }
inductive SceneRes where
  | words (ws : List Nat)
  /-- An engine owns a line of it, or a commit locks one. -/
  | held
  | absent (addr level : Nat)
  | failed
  deriving DecidableEq, Repr
def wordsOf : Nat → List Nat → List Nat
  | 0, _ => []
  | n + 1, bytes => leNat (bytes.take 4) :: wordsOf n (bytes.drop 4)
/-- Memory as the wave's core reads it now (R312). -/
def pastNow (s : State) (core : Nat) : Past :=
  { mem := s.dev.mem, veils := s.dev.veils, l1 := (coreAt s core).l1, lines := (clusterAt s (core / 8)).lines, far := (clusterAt s (core / 8)).far }
/-- The state with memory as it was. -/
def asPast (s : State) (core : Nat) (p : Past) : State :=
  let s1 := putCore { s with dev := { s.dev with mem := p.mem, veils := p.veils } } core { coreAt s core with l1 := p.l1 }
  putCluster s1 (core / 8) { clusterAt s1 (core / 8) with lines := p.lines, far := p.far }
/-- R312: each aligned 8-byte unit of a record, which is 16-byte aligned, is old or new; which one is a free choice where they differ. -/
def mixRecord (free : Nat) (old new : List Nat) : List Nat :=
  if old = new then new
  else (List.range new.length).map fun k => if Config.race free (2 ^ 24 + k / 8) then old.getD k 0 else new.getD k 0
/-- R401: an event of a scene read waits to be raised; the beam's QPUSH has closed the region, and once its wave has ended, it ends the launch. -/
def tellScene (s : State) (g : Nat) (b : Beam) (e : Imprecise) : State :=
  if (tbGet? s.waves b.wave).isSome then onWave s b.wave fun w => { w with evt := { w.evt with imprecise := w.evt.imprecise ++ [e] } }
  else faultEnd (tellPoison s (launchAt s (groupAt s g).launch).island b.who e) g { code := e.code, who := b.who, addr := e.addr, pc := e.pc }
/-- n words of a scene record; a poisoned line reads as free values, with the event of R212 for the wave. -/
def sceneRead (s : State) (g : Nat) (b : Beam) (va n : Nat) : State × SceneRes :=
  let q := groupAsker s g
  let (s1, xs) := locate q 0 (segsOf (va % 2 ^ 64) (4 * n)) s
  match firstBad xs with
  | some x => match failOf x with
    | .absent a l => (s1, .absent a l)
    | _ => (s1, .failed)
  | none =>
    if xs.any (segWait s1 q.core s1.nextId) then (s, .held)
    else if xs.any (segPoison s1 q) then
      let ev : Imprecise := { split := b.split, code := 0x12, kind := 10, addr := va / 128 * 128, pc := b.pc }
      (tellScene { s1 with free := s1.free + 1 } g b ev,
       .words ((List.range n).map fun k => Config.anyValue s1.free (2 ^ 22 + k) % 2 ^ 32))
    else ({ s1 with free := s1.free + 1 },
      .words (wordsOf n (mixRecord s1.free (xs.flatMap (sceneBytes (asPast s1 q.core b.past) q)) (xs.flatMap (sceneBytes s1 q)))))
/-- R329: a scene read that meets an absent page waits for a verdict; one that fails retires its beam. -/
def sceneStep (s : State) (g i : Nat) (b : Beam) (va n : Nat) (go : State → List Nat → State) : State :=
  match sceneRead s g b va n with
  | (s1, .words ws) => go s1 ws
  | (s1, .held) => s1
  | (s1, .failed) => failBeam s1 g b.id 5
  | (s1, .absent a l) =>
    let gr := groupAt s1 g
    let (s2, slot) := placeWaiting s1 (launchAt s1 gr.launch).island
      { code := 0x0F, who := b.who, addr := a, pc := b.pc, trans := transWord 3 0 0 l, block := (launchAt s1 gr.launch).addr }
    putGroup s2 g (setEntry i { gr.pool.getD i {} with fault := some slot } gr)
/-- R329, R406: the verdict on a fault record of a scene read. -/
def beamVerdict (isl slot : Nat) (ok : Bool) (s : State) : State :=
  s.groups.foldl (fun s e =>
    if (launchAt s e.2.launch).island ≠ isl then s
    else
      let hit := (groupAt s e.1).pool.filter fun x => x.fault == some slot
      let wake (x : PoolEntry) : PoolEntry := if x.fault = some slot then { x with fault := none } else x
      if ok then putGroup s e.1 { groupAt s e.1 with pool := (groupAt s e.1).pool.map wake }
      else (hit.map (·.beam)).eraseDups.foldl (fun s id => failBeam s e.1 id 5) s) s

/-! Accepting a descriptor (R319, R320). -/
/-- R320: causes 1 to 4 as far as the descriptor and the binding decide them; 0 for none. -/
def descCause (d bind : List Nat) : Nat :=
  if 2 ≤ dMode d ∨ dFlags d ≠ 0 ∨ dNV d < 3 ∨ 8 < dNV d ∨ dW d < 1 ∨ 64 < dW d ∨ dH d < 1 ∨ 64 < dH d then 1
  else if 32768 < dOX d + dW d ∨ 32768 < dOY d + dH d then 2
  else if !polyGood (dPoly d) then 3
  else if bind.getD 3 0 ≤ dCam d then 4
  else 0
/-- R319: the QPUSH of a wave ends when every descriptor has its entry. -/
def endPush (g wv : Nat) (s : State) : State :=
  if (groupAt s g).roots.any fun r => r.wave == wv then s
  else onWave s wv fun w => if w.ctl.wait = .pool then endWait w else w
/-- BEAM_ACCEPT (R320, R322): waiting children come before root descriptors. -/
def execBeamAccept (g : Nat) (s : State) : Result' := match workingGroup s g with
  | none => event s
  | some gr => match gr.roots with
    | [] => event s
    | r :: rest =>
      if !(waitOrders gr).isEmpty || !poolRoom gr then event s
      else
        let bind := gr.scene.getD []
        let cause := descCause r.desc bind
        let gr1 := { gr with roots := rest }
        let s1 := if cause ≠ 0 then beamError (putGroup s g gr1) (launchAt s gr.launch).island r.desc r.who cause
          else
            let b : Beam := { id := s.nextId, desc := r.desc, bind := bind, wave := r.wave, split := r.split, who := r.who, pc := r.pc, past := r.past }
            putGroup { s with nextId := s.nextId + 1 } g
              (addEntries [{ beam := s.nextId, stack := [rootWord] }] { gr1 with beams := gr1.beams ++ [b] })
        event (endPush g r.wave s1)

/-! Traversal (R299, R302 to R304, R321 to R323). -/
/-- R320, R304: the camera entry has been read. -/
def cameraRead (g i : Nat) (b : Beam) (s : State) (ws : List Nat) : State :=
  let gr := groupAt s g
  if !camGood ws then failBeam s g b.id 4
  else
    let K := testRegion b.desc
    if K.isEmpty then putGroup s g (dropBeam b.id gr)
    else putGroup s g (mapBeam b.id (fun x => { x with cam := some ws }) (setEntry i { gr.pool.getD i {} with poly := K } gr))
/-- R323: the rays of a piece, one for each pixel that it reaches; an OCC beam's piece goes on without an entry (R309). -/
def raysOf (b : Beam) (poly : List Pt) : List PoolEntry :=
  if dMode b.desc = 1 then [{ beam := b.id, poly := poly, stack := [rootWord], outside := true }]
  else (pixelsIn (dOX b.desc) (dOY b.desc) (dW b.desc) (dH b.desc)).filterMap fun p =>
    let m := momentOf (cutBy (pixelSquare p.1 p.2) poly)
    if m.area = 0 then none
    else some { beam := b.id, poly := [momentCentre m], stack := [rootWord], outside := true, ray := some (p.1, p.2, m.area) }
/-- R322: the oldest request of an entry: it takes an entry, becomes rays, or waits. -/
def serveChild (gr : Group) (i : Nat) (e : PoolEntry) (b : Beam) : Group := match e.wait with
  | [] => gr
  | (n, poly) :: rest =>
    let g1 := setEntry i { e with wait := rest } gr
    if !oldestWait gr n then gr
    else if poolRoom gr then addEntries [{ beam := e.beam, poly := poly, stack := [rootWord] }] g1
    else if !bcWaits gr.bcfg || allWaiting gr then addEntries (raysOf b poly) g1
    else gr
/-- R321: a stack after a pop, with an extension given back where its half has come up. -/
def settleExt (e : PoolEntry) : PoolEntry := if e.ext ≠ 0 ∧ e.stack.length ≤ 8 * e.ext then { e with ext := e.ext - 1 } else e
/-- R321, R322: the entry with a new stack; a seventeenth element takes an extension, or the piece becomes rays. -/
def storeEntry (gr : Group) (i : Nat) (e : PoolEntry) (b : Beam) : Group :=
  let e := settleExt e
  if e.outside || decide (e.stack.length ≤ 16 + 8 * e.ext) then setEntry i e gr
  else if 1 ≤ poolFree gr then setEntry i { e with ext := e.ext + 1 } gr
  else addEntries (raysOf b e.poly) (dropEntry i gr)
/-- R304: one triangle taken as a candidate by a piece or a ray, with the order of the first request. -/
def takeTriangle (occ : Bool) (n : Nat) (A : BeamCand) (e : PoolEntry) : PoolEntry × List PoolEntry :=
  if e.cands.any fun B => B.num == A.num then (e, [])
  else match e.ray with
    | some _ => (if hullHolds A.hull (e.poly.headD ⟨0, 0⟩) then { e with cands := e.cands ++ [A] } else e, [])
    | none =>
      let (inside, outs) := clipPiece (edgeLines A.hull) e.poly
      if inside.isEmpty then (e, [])
      else
        let e1 : PoolEntry := { e with poly := inside, cands := e.cands ++ [A], stack := if occ then [] else e.stack }
        if e.outside then (e1, outs.map fun p => { beam := e.beam, poly := p, stack := [rootWord], outside := true })
        else ({ e1 with wait := (List.range outs.length).map fun k => (n + k, outs.getD k []) }, [])
def meetCand (A : BeamCand) (b : Beam) : Beam := if b.met.any fun B => B.num == A.num then b else { b with met := b.met ++ [A] }
/-- The triangle record `num` has been read; `stack` is what is left to visit. -/
def triangleRead (g i num : Nat) (b : Beam) (s : State) (ws : List Nat) (stack : List Nat) : State :=
  let gr := groupAt s g
  let e : PoolEntry := { gr.pool.getD i {} with stack := stack }
  let occ := dMode b.desc == 1
  let cam := b.cam.getD []
  clampFlag (candidateClamps cam occ num ws) b (match candidate cam occ num ws with
  | none => putGroup s g (storeEntry gr i e b)
  | some A =>
    let (e1, more) := takeTriangle occ s.nextId A e
    putGroup { s with nextId := s.nextId + 8 } g (mapBeam b.id (meetCand A) (addEntries more (storeEntry gr i e1 b))))
def triAddr (b : Beam) (j : Nat) : Nat := b.bind.getD 1 0 + 48 * j
def nodeAddr (b : Beam) (n : Nat) : Nat := b.bind.getD 0 0 + 64 * n
/-- R311: the box of child k of a node misses the beam. -/
def missed (b : Beam) (node : List Nat) (k : Nat) : Bool := match childBox node k with
  | some box => boxMisses (b.cam.getD []) (dPoly b.desc) box
  | none => false
/-- R299, R311: the child words of a node that the engine visits: no empty child; a child whose box misses the beam by a free choice. -/
def keptChildren (free : Nat) (b : Beam) (node : List Nat) : List Nat := (List.range 4).filterMap fun k =>
  let w := node.getD (12 + k) 0
  if w % 4 = 0 ∨ (missed b node k && Config.race free k) = true then none else some w
/-- R299: the next child word of an entry. -/
def visitWord (s : State) (g i : Nat) (b : Beam) (w : Nat) (rest : List Nat) : State :=
  let j := w / 4
  match w % 4 with
  | 0 =>
    let gr := groupAt s g
    putGroup s g (storeEntry gr i { gr.pool.getD i {} with stack := rest } b)
  | 1 => sceneStep s g i b (nodeAddr b j) 16 fun s ws =>
    let gr := groupAt s g
    putGroup { s with free := s.free + 1 } g (storeEntry gr i { gr.pool.getD i {} with stack := keptChildren s.free b ws ++ rest } b)
  | 2 => sceneStep s g i b (triAddr b j) 12 fun s ws => triangleRead g i j b s ws rest
  | _ => sceneStep s g i b (triAddr b j) 12 fun s ws => triangleRead g i j b s ws (if ws.getD 11 0 % 2 = 1 then rest else (4 * (j + 1) + 3) :: rest)
/-- R321: a piece whose traversal has ended, with its candidates; an OCC beam keeps the pieces that nothing covers. -/
def finishPiece (gr : Group) (i : Nat) (e : PoolEntry) (b : Beam) : Group :=
  let keep := if dMode b.desc = 1 then e.cands.isEmpty else !e.cands.isEmpty
  setEntry i { e with ended := true } (if keep then mapBeam b.id (fun x => { x with done := x.done ++ [(e.poly, e.cands)] }) gr else gr)
/-- R321: an entry whose traversal has ended becomes free when its beam has no finished fragment left to emit. The one fragment of an OCC beam
is the beam's and holds no entry. -/
def freeEnded (gr : Group) (i : Nat) (b : Beam) : Group :=
  if dMode b.desc = 1 ∨ (visPending gr b).isEmpty = true then dropEntry i gr else gr
def endPiece (gr : Group) (i : Nat) (e : PoolEntry) (b : Beam) : Group :=
  let g1 := finishPiece gr i e b
  freeEnded g1 i (beamOf g1 b.id)
/-- R323: the ray has met every candidate and has one to emit. -/
def rayShows (g : Group) (e : PoolEntry) : Bool :=
  e.ray.isSome && e.fault.isNone && e.stack.isEmpty && (visibleAt (testRegion (beamOf g e.beam).desc) e.cands (e.poly.headD ⟨0, 0⟩)).isSome
/-- R325: the engine waits to emit. -/
def emitStalled (g : Group) : Bool := q1Full g && (!(groupPending g).isEmpty || g.pool.any (rayShows g))
/-- R329: rays in progress that are still to be completed; one that a full q1 or a page fault holds stays in the pool. -/
def rayBusy (g : Group) : Bool := !q1Full g && g.pool.any fun e => e.outside && e.fault.isNone
/-- R391: the next step of the entry is a scene read that an owned or locked line holds. -/
def readHeld (s : State) (g : Nat) (e : PoolEntry) : Bool :=
  let b := beamOf (groupAt s g) e.beam
  let held (va n : Nat) : Bool := match (sceneRead s g b va n).2 with
    | .held => true
    | _ => false
  e.fault.isNone && !e.ended && e.wait.isEmpty && (match b.cam, e.stack with
    | none, _ => held (b.bind.getD 2 0 + 64 * dCam b.desc) 16
    | _, [] => false
    | _, w :: _ => if w % 4 = 0 then false else if w % 4 = 1 then held (nodeAddr b (w / 4)) 16 else held (triAddr b (w / 4)) 12)
/-- BEAM_TRAVERSAL_STEP (R321): one step of one entry. -/
def execBeamTraversalStep (g idx : Nat) (s : State) : Result' := match entryGroup s g idx with
  | none => event s
  | some gr => match gr.pool[idx]? with
    | none => event s
    | some e =>
      let b := beamOf gr e.beam
      if e.ended then event (putGroup s g (freeEnded gr idx b))
      else if e.fault.isSome || emitStalled gr then event s
      else match b.cam with
        | none => event (sceneStep s g idx b (b.bind.getD 2 0 + 64 * dCam b.desc) 16 (cameraRead g idx b))
        | some _ =>
          if !e.wait.isEmpty then event (putGroup s g (serveChild gr idx e b))
          else match e.stack with
            | w :: rest => event (visitWord s g idx b w rest)
            | [] => event (if e.ray.isSome then s else putGroup s g (endPiece gr idx e b))
/-- RAY_EMIT (R323): a ray that has met every candidate emits one fragment, or none. -/
def execRayEmit (g idx : Nat) (s : State) : Result' := match entryGroup s g idx with
  | none => event s
  | some gr => match gr.pool[idx]? with
    | none => event s
    | some e => match e.ray with
      | none => event s
      | some (px, py, weight) =>
        let b := beamOf gr e.beam
        let x := e.poly.headD ⟨0, 0⟩
        if e.fault.isSome || !e.stack.isEmpty then event s
        else match visibleAt (testRegion b.desc) e.cands x with
          | none => event (putGroup s g (dropEntry idx gr))
          | some A =>
            if q1Full gr then event s
            else event (clampFlag (centroidClamps (x.x - (px : Int)) || centroidClamps (x.y - (py : Int))) b (putGroup s g { dropEntry idx gr with
              q1 := gr.q1 ++ [fragWords (b.cam.getD []) A px py weight x false true] }))

/-! BCFG and BSCN (R316, R317). -/
/-- R316: a beam is unretired, a QPUSH waits, or q1 holds records. -/
def beamBusy (g : Group) : Bool := !g.beams.isEmpty || !g.roots.isEmpty || !g.q1.isEmpty
/-- R316 order 1. -/
def bcLegal (v : Nat) : Bool :=
  bitsOf v 60 4 == 0 && bitsOf v 31 1 == 0 && decide (2 ≤ bcEntries v) && bcReserve v != 0 && decide (bcReserve v < bcEntries v) && decide (4 ≤ bcFqCap v)
/-- R316 order 2. -/
def bcFits (g : Group) (v : Nat) : Bool :=
  let lim := g.limit * 128
  decide (bcPoolBase v + bcEntries v * 256 ≤ lim) && decide (bcFqBase v + bcFqCap v * 32 ≤ lim) &&
    !touches (bcPoolBase v) (bcEntries v * 256) (bcFqBase v) (bcFqCap v * 32)
/-- R316: what the engine left in its ranges is lost. -/
def loseRanges (s : State) (free g : Nat) : State :=
  let gr := groupAt s g
  if gr.bcfg = 0 then s
  else
    let c := coreAt s gr.core
    let wipe (lo len : Nat) (m : Sparse Byte) : Sparse Byte := scramble free (gr.base * 128 + lo) (gr.base * 128 + lo + len) m
    putCore s gr.core { c with spad := wipe (bcFqBase gr.bcfg) (bcFqCap gr.bcfg * 32) (wipe (bcPoolBase gr.bcfg) (bcEntries gr.bcfg * 256) c.spad) }
def execBcfg (y : Bool) (a : SReg) (s : State) : Result' :=
  issue s y { useSr a with closes := true } (fun c s =>
    let v := (sca c a).toNat
    let g := (waveAt s c.wv).group
    let gr := groupAt s g
    if v ≠ 0 ∧ !bcLegal v then (s, .trap 0x01 0 0)
    else if beamBusy gr ∨ (v ≠ 0 ∧ !bcFits gr v) then (s, .trap 0x02 0 0)
    else
      let s1 := loseRanges s c.free g
      (leaveSlots (putGroup s1 g { groupAt s1 g with bcfg := v, q1 := [], pool := [] }) c.wv, .done))

/-- R317: the fields of a scene record: root, triangle base, camera table, camera count. -/
def sceneOf (r : List Nat) : List Nat := [recGet r 0 8, recGet r 8 8, recGet r 16 8, recGet r 24 4]
def sceneLegal (r : List Nat) : Bool :=
  let a := recGet r 0 8
  let t := recGet r 8 8
  let c := recGet r 16 8
  decide (a < 2 ^ 57) && decide (t < 2 ^ 57) && decide (c < 2 ^ 57) && a % 64 == 0 && t % 16 == 0 && c % 64 == 0 &&
    decide (1 ≤ recGet r 24 4) && decide (recGet r 24 4 ≤ 1024) && recGet r 28 4 == 0
def execBscn (y : Bool) (a : SReg) (s : State) : Result' :=
  issue s y (useSr a) (fun c s => readRecord c s (sca c a).toNat 32 32 fun s1 r =>
    if !sceneLegal r then (s1, .trap 0x01 0 0)
    else
      let g := (waveAt s1 c.wv).group
      (leaveSlots (putGroup s1 g { groupAt s1 g with scene := some (sceneOf r) }) c.wv, .done))

end Sys2Proof.Machine
end

