-- ==== Sys2Proof/Machine/LaunchBlock.lean ====
section
/-!
DEFINITION. The launch block and its roles (19: R355 to R359, R440).
-/
namespace Sys2Proof.Machine

/-! Fields of 128 bytes. -/
def blWidth (b : List Nat) : Nat := 32 * 2 ^ bitsOf (recGet b 0 4) 0 2
def blRoles (b : List Nat) : Nat := bitsOf (recGet b 0 4) 2 2 + 1
def blPriv (b : List Nat) : Bool := bitOf (recGet b 0 4) 4
def blAcc (b : List Nat) : Bool := bitOf (recGet b 0 4) 6
def blRt (b : List Nat) : Bool := bitOf (recGet b 0 4) 7
def blAtoll (b : List Nat) : Nat := bitsOf (recGet b 0 4) 8 3 + 1
def blPin (b : List Nat) : Bool := bitOf (recGet b 0 4) 11
def blClass (b : List Nat) : Nat := bitsOf (recGet b 0 4) 12 2
def blScrn (b : List Nat) : Bool := bitOf (recGet b 0 4) 14
def blScratch (b : List Nat) : Nat := recGet b 4 4
def blX (b : List Nat) : Nat := bitsOf (recGet b 8 8) 0 21
def blY (b : List Nat) : Nat := bitsOf (recGet b 8 8) 21 21
def blZ (b : List Nat) : Nat := bitsOf (recGet b 8 8) 42 21
def blArg (b : List Nat) : Nat := recGet b 16 8
def blCode (b : List Nat) : Nat := recGet b 24 8
def blTrapvec (b : List Nat) : Nat := recGet b 32 8
def blBstore (b : List Nat) : Nat := recGet b 40 8
def blBsize (b : List Nat) : Nat := recGet b 48 4
def blRole (b : List Nat) (k : Nat) : Nat := recGet b (56 + 8 * k) 8
def blCompl (b : List Nat) : Nat := recGet b 88 8
def blMsi (b : List Nat) : Nat := recGet b 96 4
def blRepeat (b : List Nat) : Nat := recGet b 100 4
def blPeriod (b : List Nat) : Nat := recGet b 104 8
def blDeadline (b : List Nat) : Nat := recGet b 112 8

/-! Roles (R357). -/
def roleEntry (r : Nat) : Nat := bitsOf r 0 24
def roleWaves (r : Nat) : Nat := bitsOf r 24 6
/-- R29: window rows of a role, unscaled. -/
def roleBudget (r : Nat) : Nat := bitsOf r 32 6 * 32
/-- The quarters of QMASK in ascending order, starting at the first at or above QSTART. -/
def roleQuarters (r : Nat) : List Nat :=
  let qs := (List.range 4).filter fun q => bitOf r (40 + q)
  let st := bitsOf r 38 2
  qs.filter (fun q => st ≤ q) ++ qs.filter fun q => q < st
/-- The quarter of wave j of a role. -/
def roleQuarter (r j : Nat) : Nat := let qs := roleQuarters r; qs.getD (j % max qs.length 1) 0

/-- A wave of a group as its launch block places it. -/
structure WavePlan where
  num : Nat
  role : Nat
  quarter : Nat
  entry : Nat
  rows : Nat
  deriving DecidableEq, Repr
/-- R29, R357: the waves of a group, numbered through the roles. -/
def wavePlans (b : List Nat) : List WavePlan :=
  let all := (List.range (blRoles b)).flatMap fun k =>
    let r := blRole b k
    (List.range (roleWaves r)).map fun j => (k, roleQuarter r j, roleEntry r, roleBudget r)
  (List.range all.length).map fun n =>
    let x := all.getD n (0, 0, 0, 0)
    { num := n, role := x.1, quarter := x.2.1, entry := blCode b + 4 * x.2.2.1, rows := x.2.2.2 }
def waveTotal (b : List Nat) : Nat := (wavePlans b).length
/-- R30: rows that a group's waves need on a quarter. -/
def rowsOn (b : List Nat) (q : Nat) : Nat :=
  ((wavePlans b).filter fun p => p.quarter = q).foldl (fun n p => n + (blWidth b / 32) * (32 + p.rows)) 0
def wavesOn (b : List Nat) (q : Nat) : Nat := ((wavePlans b).filter fun p => p.quarter = q).length
/-- R251: the role places exactly one wave on each quarter. -/
def roleCovers (b : List Nat) (k : Nat) : Bool := (List.range 4).all fun q => ((wavePlans b).filter fun p => p.role == k && p.quarter == q).length == 1

/-! The checks (R359, R440). -/
def roleGood (r : Nat) : Bool :=
  bitsOf r 44 20 == 0 && bitsOf r 30 2 == 0 && decide (1 ≤ roleWaves r) && decide (2 ≤ bitsOf r 32 6) && decide (bitsOf r 32 6 ≤ 32) &&
  bitsOf r 40 4 != 0
/-- What every block must satisfy, whatever carries it. -/
def blockShape (b : List Nat) (X T : Nat) : Bool :=
  bitsOf (recGet b 0 4) 15 17 == 0 && bitsOf (recGet b 0 4) 0 2 != 3 && blClass b != 3 && bitsOf (recGet b 4 4) 13 19 == 0 &&
  bitsOf (recGet b 8 8) 63 1 == 0 && recGet b 52 4 == 0 && recGet b 120 8 == 0 &&
  ((List.range 4).all fun k => if k < blRoles b then roleGood (blRole b k) else blRole b k == 0) &&
  decide (waveTotal b ≤ 32) && ((List.range 4).all fun q => decide (rowsOn b q ≤ 2048)) && decide (blScratch b ≤ 4096) &&
  blCode b % 4 == 0 && bitsOf (blCode b) 57 7 == 0 && blTrapvec b % 4 == 0 && blBstore b % 128 == 0 &&
  decide (blBstore b + X * T * blBsize b ≤ 2 ^ 57) && (!blPin b || blClass b == 0)
/-- R359. `dies`: the island holds a cluster on every compute die. -/
def blockGood (b : List Nat) (cls : Nat) (privQ dies : Bool) : Bool :=
  blockShape b (blX b * blY b * blZ b) (waveTotal b) && blClass b == cls && (!blPriv b || privQ) && (!blScrn b || dies) &&
  blX b != 0 && blY b != 0 && blZ b != 0 && blX b % blAtoll b == 0 && blCompl b % 8 == 0 &&
  bitsOf (blMsi b) 11 4 == 0 && bitsOf (blMsi b) 16 16 == 0 &&
  (if blRt b then blRepeat b != 0 && blPeriod b != 0 && blDeadline b != 0 && blClass b == 0
   else blRepeat b == 0 && blPeriod b == 0 && blDeadline b == 0)
/-- R440: the block of a work-graph node. -/
def nodeBlockGood (b : List Nat) (classes : Nat → Bool) (privQ : Bool) : Bool :=
  blockShape b (blX b) (waveTotal b) && decide (1 ≤ blX b) && classes (blClass b) && (!blPriv b || privQ)

end Sys2Proof.Machine
end

