-- ==== Sys2Proof/Machine/Matrix.lean ====
section
/-!
DEFINITION. The matrix instructions, opcodes 0xC0 to 0xC7, and the matrix array (14: R247 to R268; 03: R77 to R79).
-/
namespace Sys2Proof.Machine

/-! Slots (R85, R248, R251). -/
def accSlot (q : Quarter) (n : Nat) : AccSlot := q.accs.getD n {}
def putAcc (s : State) (k n : Nat) (a : AccSlot) : State :=
  let q := quarterAt s k
  putQuarter s k { q with accs := q.accs.set n a }
/-- R253: room in the command queue. -/
def queueRoom (s : State) (w : Wave) : Bool := decide ((quarterAt s w.quarter).queue.length < 4)

/-- The elements of `n` registers from r on, as captured at issue: register j, lane i at j * 128 + i; exited lanes are +0 (R252). -/
def capture (c : Ctx) (r n : Nat) : Sparse Lane :=
  (List.range n).foldl (fun m j => (List.range c.view.width).foldl (fun m i =>
    spSet 0 m (j * 128 + i) (if mbit c.view.ctl.exited i then 0 else vget c.view c.split.frame (r + j) i)) m) []
def newCmd (c : Ctx) (s : State) (op : MatOp) (acc tag : Nat) : MatCmd :=
  { op := op, wave := c.wv, split := c.sp, who := whoWord (waveAt s c.wv) c.sp, acc := acc, tag := tag, mode := c.split.mode, pc := c.split.pc,
    opened := (waveAt s c.wv).evt.openings, lanes := maskLow c.view.width &&& ~~~ c.view.ctl.exited, width := c.view.width }
def pushCmd (s : State) (k : Nat) (m : MatCmd) : State :=
  let q := quarterAt s k
  putQuarter s k { q with queue := q.queue ++ [m] }
def tagSlot (s : State) (k n tag : Nat) : State := putAcc s k n { accSlot (quarterAt s k) n with tag := tag }

def matUse (vr vw : List (Nat × Nat)) (sr sw : List Nat) (coll : Bool) : Usage :=
  { vr := vr, vw := vw, sr := sr, sw := sw, collective := coll, skipExec := coll, allLanes := true }

/-- R249: width of B's elements. -/
def bWidth (tag : Nat) (mode : Lane) : Nat :=
  if tagEt tag ≠ 7 then 16 else if modeET mode = 9 ∨ modeET mode = 10 then 4 else 8
/-- R249: the registers that the blocks use, with the tag of a slot and MODE.ET. -/
def withTypes (s : State) (tag : Nat) (u : Usage) : Usage := { u with blk16 := tileRegs (tagEt tag), blk8 := bWidth tag (curMode s) / 2 }
/-- The tag of a slot of the issuing wave's quarter. -/
def curTag (s : State) (acc : AccReg) : Nat := (accSlot (quarterAt s (curWave s).quarter) acc.val).tag

/-- R251 and R253 around a command that names slot `acc`; `tag` is the tag that check 3 tests. -/
def withSlot (c : Ctx) (s : State) (tag : Nat) (mid : Option Eff) (go : State → State × Eff) : State × Eff :=
  let w := waveAt s c.wv
  if !holdsSlots s w then (s, .trap 0x02 0 0)
  else match mid with
    | some e => (s, e)
    | none =>
      if !tagValid tag then (s, .trap 0x0E 0 0)
      else if !queueRoom s w then (s, .wait .matrixQueue)
      else go s
def slotTag (s : State) (c : Ctx) (acc : AccReg) : Nat := (accSlot (quarterAt s (waveAt s c.wv).quarter) acc.val).tag

def execMzero (y : Bool) (d : AccReg) (a : SReg) (s : State) : Result' :=
  issue s y (matUse [] [] [a.val] [] false) (fun c s =>
    let tag := tagOf c a
    withSlot c s tag none fun s =>
      let k := (waveAt s c.wv).quarter
      (tagSlot (pushCmd s k (newCmd c s .mzero d.val tag)) k d.val tag, .done))
def execMwra (y : Bool) (d : AccReg) (a : VReg) (b : SReg) (s : State) : Result' :=
  issue s y (matUse [(a.val, 16)] [] [b.val] [] true) (fun c s =>
    let tag := tagOf c b
    withSlot c s tag none fun s =>
      let k := (waveAt s c.wv).quarter
      let m := { newCmd c s .mwra d.val tag with a := capture c a.val 16, col := bitsOf (sca c b).toNat 32 2 }
      (tagSlot (pushCmd s k m) k d.val tag, .done))
def execMma (y : Bool) (d : AccReg) (a b : VReg) (s : State) : Result' :=
  issue s y (withTypes s (curTag s d) (matUse [(a.val, 16), (b.val, 8)] [] [] [] true)) (fun c s =>
    let tag := slotTag s c d
    withSlot c s tag none fun s =>
      (pushCmd s (waveAt s c.wv).quarter { newCmd c s .mma d.val tag with a := capture c a.val 16, b := capture c b.val 8 }, .done))
def execMmaq (y : Bool) (d : AccReg) (b : VReg) (s : State) : Result' :=
  issue s y (withTypes s (curTag s d) (matUse [(b.val, 8)] [] [] [] true)) (fun c s =>
    let tag := slotTag s c d
    withSlot c s tag none fun s =>
      (pushCmd s (waveAt s c.wv).quarter { newCmd c s .mmaq d.val tag with b := capture c b.val 8, owed := c.view.width }, .done))

/-! MMAX (R258). -/
/-- The waves of the issuing wave's role, by quarter. -/
def roleWavesOf (s : State) (w : Wave) : List Nat :=
  (List.range 4).filterMap fun q => (liveWaves s w.group).find? fun k => (waveAt s k).role == w.role && (waveAt s k).quarter % 4 == q
/-- The MMAX of a wave that has not met yet. -/
def openMmax (s : State) (wv : Nat) : Option MatCmd :=
  (quarterAt s (waveAt s wv).quarter).queue.find? fun m => m.wave == wv && m.op == .mmax && m.meet.isEmpty
/-- The open MMAX commands of these waves, changed. -/
def mapMmax (s : State) (wvs : List Nat) (f : MatCmd → Option MatCmd) : State :=
  { s with quarters := tbMap (fun _ q => { q with queue := q.queue.filterMap fun m =>
      if m.op == .mmax && m.meet.isEmpty && wvs.contains m.wave then f m else some m }) s.quarters }
/-- R258: the waves that parked at the MMAX go on. -/
def releaseMeet (s : State) (wv : Nat) : State := onWave s wv fun w => endWait (stepCollective w w.ctl.waitSplit)
/-- R258: the mismatch trap of a wave that parked at the MMAX; one that an earlier such trap has ended takes none. -/
def meetTrap (s : State) (k : Nat) : State := match tbGet? s.waves k with
  | none => s
  | some w => settleSlots (takeTrap s k { split := w.ctl.waitSplit, code := 0x0C, tpc := (getSplit w w.ctl.waitSplit).pc }) k
/-- R258: all four have issued: they meet, or all take the mismatch trap. -/
def meetMmax (s : State) (me : Nat) (wvs : List Nat) : State × Eff :=
  let cmds := wvs.filterMap (openMmax s)
  let c0 := cmds.headD { op := .mmax, wave := me }
  let others := wvs.filter (· != me)
  if cmds.all fun m => m.acc == c0.acc && sameDomain m.tag c0.tag then
    (others.foldl releaseMeet (mapMmax s wvs fun m => some { m with meet := wvs }), .done)
  else
    let s1 := others.foldl meetTrap (mapMmax s wvs fun _ => none)
    (s1, if (tbGet? s1.waves me).isSome then .trap 0x0C 0 0 else .moved)
def execMmax (y : Bool) (d : AccReg) (a b : VReg) (s : State) : Result' :=
  issue s y (withTypes s (curTag s d) (matUse [(a.val, 16), (b.val, 8)] [] [] [] true)) (fun c s =>
    let w := waveAt s c.wv
    let tag := slotTag s c d
    let mid := if w.width ≠ 32 ∨ !roleCovers (launchOf s w).block w.role then some (.trap 0x0C 0 0) else none
    withSlot c s tag mid fun s =>
      let m := { newCmd c s .mmax d.val tag with a := capture c a.val 16, b := capture c b.val 8 }
      let s1 := pushCmd s w.quarter m
      let wvs := roleWavesOf s1 w
      if wvs.length = 4 ∧ wvs.all (fun k => (openMmax s1 k).isSome) then meetMmax s1 c.wv wvs else (s1, .wait .meet))

/-! MRDA (R256): its values are known when the array reaches it. -/
/-- R256: 32 outputs a tile, packed in pairs. -/
def mrdaPacked (m : MatCmd) : Bool := tagEt m.tag != 7 && (modeET m.mode == 5 || modeET m.mode == 6)
def execMrda (y : Bool) (d : VReg) (a : AccReg) (b : SReg) (s : State) : Result' :=
  issue s y (matUse [] [(d.val, 16)] [b.val] [b.val] true) (fun c s =>
    let tag := slotTag s c a
    withSlot c s tag none fun s =>
      let m := { newCmd c s .mrda a.val tag with col := bitsOf (sca c b).toNat 32 2, res := s.nextId }
      let rows := (List.range 16).map fun k => rowOf c.view c.split.frame (d.val + k)
      let keys := (maskList m.lanes).flatMap fun i => rows.map fun r => laneKey r i
      let s1 := pushResult s c.wv { unit := .matrix, ready := false, known := false, rows := rows, keys := keys,
                                    scalars := [b.val], sca := [(b.val, BitVec.ofNat 64 tag)] }
      (pushCmd s1 (waveAt s1 c.wv).quarter m, .done))

/-! Arithmetic of the array (R77, R78). -/
/-- R249: signedness of B's elements. -/
def bSigned (mode : Lane) : Bool := modeET mode != 8 && modeET mode != 10
/-- Element (position, feature) of A in tile t. -/
def aElem (m : MatCmd) (t p f : Nat) : Nat :=
  let et := tagEt m.tag
  elemAt (tileW et) (spGet 0 m.a (f / tilePer et * 128 + 32 * t + p)).toNat (f % tilePer et)
/-- Element (feature, output) of B, typed by `m`, from the captured block `b`. -/
def bElem (m : MatCmd) (b : Sparse Lane) (f j : Nat) : Nat :=
  let wd := bWidth m.tag m.mode
  elemAt wd (spGet 0 b (j / (32 / wd) * 128 + f)).toNat (j % (32 / wd))
def plusZero : FVal → FVal
  | .fin _ 0 _ => .fin false 0 0
  | v => v
/-- An entry with the flags and the overflow bit of its step. -/
structure AccVal where
  v : Nat
  fl : Flags := 0
  ov : Bool := false
  deriving DecidableEq, Repr
/-- R77, R78: one step: acc plus products of elements of A and B. An infinity times zero is invalid whatever the other terms hold (R68; log 9). -/
def accStep (m : MatCmd) (acc : AccVal) (ps : List (Nat × Nat)) : AccVal :=
  if tagEt m.tag = 7 then
    let wd := bWidth m.tag m.mode
    let bv (x : Nat) : Int := if bSigned m.mode then signedOf wd x else (x : Int)
    let sum := ps.foldl (fun (a : Int) p => a + signedOf 8 p.1 * bv p.2) (signedOf 36 acc.v)
    let lo : Int := -(2 ^ 35 : Nat)
    let hi : Int := (2 ^ 35 : Nat) - 1
    let v := if sum < lo then lo else if hi < sum then hi else sum
    { acc with v := wrapTo 36 v, ov := acc.ov || decide (v ≠ sum) }
  else
    let F := etFmt (tagEt m.tag)
    let r := sumF f36 0 false (decodeF f36 acc.v :: ps.map fun p => plusZero (mulF (decodeF F p.1) (decodeF F p.2)))
    { acc with v := r.bits, fl := acc.fl ||| r.flags }
/-- The products, four at a time. -/
def accSteps (m : MatCmd) : Nat → List (Nat × Nat) → AccVal → AccVal
  | 0, _, acc => acc
  | fuel + 1, ps, acc => if ps.isEmpty then acc else accSteps m fuel (ps.drop 4) (accStep m acc (ps.take 4))
/-- One entry of a slot updated by products. -/
def applyEntry (m : MatCmd) (p col : Nat) (ps : List (Nat × Nat)) (a : AccSlot) : AccSlot :=
  let r := accSteps m 8 ps { v := spGet 0 a.entries (64 * p + col) }
  { a with entries := spSet 0 a.entries (64 * p + col) r.v, flags := a.flags ||| r.fl, ov := a.ov || r.ov }
/-- R257: the features of row p of tile t with output j. -/
def denseRow (m : MatCmd) (b : Sparse Lane) (t p j : Nat) : List (Nat × Nat) := (List.range 32).map fun f => (aElem m t p f, bElem m b f j)
/-- R257: A × B of tile t into the columns from `col` on. -/
def denseTile (m : MatCmd) (b : Sparse Lane) (t col : Nat) (a : AccSlot) : AccSlot :=
  (List.range 32).foldl (fun a p => (List.range 16).foldl (fun a j => applyEntry m p (col + j) (denseRow m b t p j) a) a) a

/-! The commands. -/
def setEntries (f : Nat → Nat → Option Nat) (a : AccSlot) : AccSlot :=
  (List.range 32).foldl (fun a p => (List.range 64).foldl (fun a col => match f p col with
    | some v => { a with entries := spSet 0 a.entries (64 * p + col) v, bad := a.bad.filter (· != 64 * p + col) }
    | none => a) a) a
/-- R255: an element of MWRA in the slot's form. -/
def mwraElem (tag x : Nat) : Nat := if tagEt tag = 7 then wrapTo 36 (signedOf 32 x) else (cvtFF f32 f36 0 x).bits
/-- R255: which element of block a goes to a column of row p. -/
def mwraCol (m : MatCmd) (p col : Nat) : Option Nat :=
  let t := (col / 16 + 4 - m.col) % 4
  if t < m.width / 32 then some (mwraElem m.tag (spGet 0 m.a (col % 16 * 128 + 32 * t + p)).toNat) else none
def clearSlot (a : AccSlot) : AccSlot := { a with flags := 0, ov := false }
/-- R256: one element of the window, with its flags. -/
def mrdaElem (m : MatCmd) (a : AccSlot) (t p j w : Nat) : Nat × Flags :=
  let v := spGet 0 a.entries (64 * p + (16 * m.col + t * w + j) % 64)
  if tagEt m.tag = 7 then
    let x := signedOf 36 v
    let lo : Int := -(2 ^ 31 : Nat)
    let hi : Int := (2 ^ 31 : Nat) - 1
    let c := if x < lo then lo else if hi < x then hi else x
    (wrapTo 32 c, flagIf (decide (c ≠ x)) flSA)
  else
    let F := if w = 32 then etFmt (modeET m.mode) else f32
    let r := cvtFF f36 F (modeRM m.mode) v
    (r.bits, r.flags)
/-- R256: register d + k of a lane. -/
def mrdaLane (m : MatCmd) (a : AccSlot) (k i : Nat) : Nat × Flags :=
  if mrdaPacked m then packElems 16 2 fun e => mrdaElem m a (i / 32) (i % 32) (2 * k + e) 32
  else mrdaElem m a (i / 32) (i % 32) k 16
/-- R256: the values and flags of an MRDA's result. -/
def mrdaFill (m : MatCmd) (a : AccSlot) (r : Result) : Result :=
  let vals := (maskList m.lanes).flatMap fun i => (List.range 16).map fun k => (laneKey (r.rows.getD k 0) i, mrdaLane m a k i)
  let kept := vals.filter fun v => r.keys.contains v.1
  { r with
    ready := true, known := true
    vec := kept.foldl (fun x v => spSet 0 x v.1 (BitVec.ofNat 32 v.2.1)) []
    flags := vals.foldl (fun f v => f ||| v.2.2) (a.flags ||| flagIf a.ov flSA) }

/-! Entries with an uncorrectable error (R412). -/
/-- An event of a matrix command: it waits to be raised, or, once its wave has ended, ends the launch. -/
def tellMatrix (k : Nat) (m : MatCmd) (s : State) (e : Imprecise) : State :=
  if (tbGet? s.waves m.wave).isNone then match (quarterAt s k).accHolder with
    | some g => faultEnd (tellPoison s (launchAt s (groupAt s g).launch).island m.who e) g { code := e.code, who := m.who, pc := m.pc }
    | none => s
  else onWave s m.wave fun w => { w with evt := { w.evt with imprecise := w.evt.imprecise ++ [e] } }
def matrixEvent (m : MatCmd) (code kind aux2 : Nat) : Imprecise :=
  { split := m.split, code := code, kind := kind, pc := m.pc, lanes := m.lanes, opened := m.opened, aux2 := aux2 }
/-- R412: the slot of a command as the array reads the entries `hit`: those with an error are free values, and each leaves its event. -/
def readSlot (s : State) (k : Nat) (m : MatCmd) (hit : Nat → Bool) : State × AccSlot :=
  let a := accSlot (quarterAt s k) m.acc
  let es := a.bad.filter hit
  if es.isEmpty then (s, a)
  else (es.foldl (fun s e => tellMatrix k m s (matrixEvent m 0x12 13 (2 ^ 31 + k % 4 * 2 ^ 13 + m.acc * 2 ^ 11 + e))) { s with free := s.free + 1 },
    { a with entries := es.foldl (fun x e => spSet 0 x e (wrapTo 36 (Config.anyValue s.free e))) a.entries, bad := a.bad.filter fun e => !hit e })
/-- R256: the entries of the window of an MRDA. -/
def mrdaReads (m : MatCmd) (e : Nat) : Bool := decide ((e % 64 + 64 - 16 * m.col) % 64 < m.width / 32 * (if mrdaPacked m then 32 else 16))

def popCmd (s : State) (k : Nat) : State := let q := quarterAt s k; putQuarter s k { q with queue := q.queue.drop 1 }
/-- R257, R258: the quarters of the waves that met, when each has its MMAX at the head of its queue. -/
def meetReady (s : State) (m : MatCmd) (k : Nat) : Bool :=
  m.meet.length == 4 && (List.range 4).all fun q => match (quarterAt s (k / 4 * 4 + q)).queue.head? with
    | some x => x.op == .mmax && x.meet == m.meet
    | none => false
/-- R258: the array of one quarter performs its own A times the four B blocks. -/
def runMmax (bs : List (Sparse Lane)) (s : State) (k : Nat) : State :=
  match (quarterAt s k).queue.head? with
  | none => s
  | some m =>
    let r := readSlot s k m fun _ => true
    popCmd (putAcc r.1 k m.acc ((List.range 4).foldl (fun a q => denseTile m (bs.getD q []) 0 (16 * q) a) r.2)) k
/-- R253: the command at the head of a quarter's queue is performed; an MMAQ starts. -/
def runCommand (q : Nat) (s : State) : State :=
  match (quarterAt s q).queue with
  | [] => s
  | m :: rest =>
    let a := accSlot (quarterAt s q) m.acc
    match m.op with
    | .mzero => popCmd (putAcc s q m.acc { clearSlot a with entries := [], bad := [] }) q
    | .mwra => popCmd (putAcc s q m.acc (setEntries (mwraCol m) (clearSlot a))) q
    | .mma =>
      let r := readSlot s q m fun e => decide (e % 64 < m.width / 32 * 16)
      popCmd (putAcc r.1 q m.acc ((List.range (m.width / 32)).foldl (fun a t => denseTile m m.b t (16 * t) a) r.2)) q
    | .mmax =>
      if meetReady s m q then
        let ks := (List.range 4).map fun j => q / 4 * 4 + j
        let bs := ks.map fun k => ((quarterAt s k).queue.head?.elim [] (·.b))
        ks.foldl (runMmax bs) s
      else s
    | .mmaq =>
      let x := quarterAt s q
      putQuarter s q { x with queue := { m with started := true } :: rest }
    | .mrda =>
      let p := readSlot s q m (mrdaReads m)
      let s1 := onWave p.1 m.wave fun w => { w with out := w.out.map fun r => if r.id = m.res then mrdaFill m p.2 r else r }
      popCmd s1 q
/-- MATRIX_COMMAND_EXECUTE (R253). -/
def execMatrixCommandExecute (q : Nat) (s : State) : Result' := event (runCommand q s)
/-- R120: before registers are saved, the commands up to the last outstanding MRDA of a quarter are performed, as far as none of them waits for
the feed or for another quarter (those are saved, R254). -/
def drainQueue (q : Nat) : Nat → State → State
  | 0, s => s
  | fuel + 1, s => match (quarterAt s q).queue with
    | [] => s
    | m :: rest =>
      if (m :: rest).any (fun x => x.op == .mrda) && m.op != .mmaq && (m.op != .mmax || meetReady s m q) then drainQueue q fuel (runCommand q s) else s

/-! The feed (R262 to R264). -/
/-- R264: whether an entry fits the slot. -/
def entryFits (m : MatCmd) (e : FeedRow) : Bool := (e.tag == 0 || sameDomain e.tag m.tag) && e.esz == b2n (tagEt m.tag == 7)
def bitmapFeatures (bm : Nat) : List Nat := (List.range 32).filter fun f => bitOf bm f
/-- R262: one entry is applied. -/
def applyRow (m : MatCmd) (e : FeedRow) (a : AccSlot) : AccSlot :=
  let fs := bitmapFeatures e.bitmap
  if m.width / 32 ≤ e.tile then a
  else (List.range 16).foldl (fun a j =>
    applyEntry m e.pos (16 * e.tile + j) ((List.range fs.length).map fun i => (e.elems.getD i 0, bElem m m.b (fs.getD i 0) j)) a) a
/-- R262, R264: one entry is consumed. -/
def consumeRow (k : Nat) (m : MatCmd) (s : State) (e : FeedRow) : State :=
  if !entryFits m e then tellMatrix k m s (matrixEvent m 0x0E 0 0)
  else if e.bitmap = 0 then
    let c := coreAt s (k / 4)
    putCore s (k / 4) { c with skipped := (c.skipped + 1) % 2 ^ 64 }
  else
    let r := readSlot s k m fun x => decide (x / 64 = e.pos) && decide (x % 64 / 16 = e.tile) && decide (e.tile < m.width / 32)
    putAcc r.1 k m.acc (applyRow m e r.2)
/-- MMAQ_PASS (R262, R263): up to 16 entries that an MMAQ still owes are consumed and applied. -/
def execMmaqPass (q : Nat) (s : State) : Result' :=
  match (quarterAt s q).queue with
  | [] => event s
  | m :: rest =>
    if m.op == .mmaq && m.started then
      let x := quarterAt s q
      let n := min (min m.owed 16) x.feed.length
      let m' := { m with owed := m.owed - n }
      let s1 := putQuarter s q { x with feed := x.feed.drop n, queue := if m'.owed = 0 then rest else m' :: rest }
      event ((x.feed.take n).foldl (consumeRow q m) s1)
    else event s

/-! Layout records and B loads (R265 to R267). -/
def defaultLayout : List Nat := leBytes 4 (2 ^ 20) ++ leBytes 4 2 ++ leBytes 4 32 ++ leBytes 4 4 ++ leBytes 4 0 ++ leBytes 4 (2 + 32 * 2 ^ 16) ++
  leBytes 4 (8 + 2 ^ 16) ++ leBytes 4 0
def layEsz (r : List Nat) : Nat := 2 ^ bitsOf (recGet r 0 4) 20 2
def layBase (r : List Nat) : Nat := bitsOf (recGet r 0 4) 0 19
def layStride (r : List Nat) (k : Nat) : Int := signedOf 32 (recGet r (4 + 4 * k) 4)
def layExtent (r : List Nat) (k : Nat) : Nat := recGet r (20 + 2 * k) 2
def layoutLegal (r : List Nat) : Bool :=
  bitsOf (recGet r 0 4) 22 10 == 0 && bitsOf (recGet r 0 4) 19 1 == 0 && recGet r 28 4 == 0 && bitsOf (recGet r 0 4) 20 2 != 3 &&
  ((List.range 4).all fun k => layExtent r k != 0) &&
  layExtent r 0 * layExtent r 1 * layExtent r 2 * layExtent r 3 == 1024 / layEsz r
def execMlayout (y : Bool) (a : SReg) (s : State) : Result' :=
  issue s y (useSr a) (fun c s =>
    let w := waveAt s c.wv
    let g := groupAt s w.group
    let v := (sca c a).toNat
    let off := v % 2 ^ 19
    if off % 32 ≠ 0 then (s, .trap 0x03 0 off)
    else if v ≠ off ∨ g.limit * 128 < off + 32 ∨ engineRange g off 32 then (s, .trap 0x02 0 (if v ≠ off then v else off))
    else
      let x : Acc := { lane := 0, addr := off, res := .spad (g.base * 128 + off) }
      let poisoned := accPoison s g.core 32 x
      let r := spadSeen s g.core (g.base * 128 + off) 32
      let s1 := if poisoned then onWave s c.wv fun w =>
          { w with evt := { w.evt with imprecise := w.evt.imprecise ++ noLanes (poisonEvents 0 s c g.core 32 [x]) } }
        else s
      if layoutLegal r then (leaveSlots (onWave s1 c.wv fun w => { noteReads w c.sp [spadKey off] with layout := r }) c.wv, .done)
      else (s1, .trap 0x01 0 0))

/-- R266: the offset of element N. -/
def mldbOff (r : List Nat) (v : Nat) (N : Nat) : Int :=
  let e (k : Nat) : Nat := layExtent r k
  let i0 := N % e 0
  let i1 := N / e 0 % e 1
  let i2 := N / (e 0 * e 1) % e 2
  let i3 := N / (e 0 * e 1 * e 2)
  (layBase r : Int) + (v % 2 ^ 19 : Nat) + i0 * layStride r 0 + i1 * layStride r 1 + i2 * layStride r 2 + i3 * layStride r 3
def layoutOf (w : Wave) : List Nat := if w.layout.isEmpty then defaultLayout else w.layout
def execMldb (y : Bool) (d : VReg) (b : SReg) (s : State) : Result' :=
  issue s y (matUse [] [(d.val, 8)] [b.val] [] true) (fun c s =>
    let w := waveAt s c.wv
    let g := groupAt s w.group
    let r := layoutOf w
    let v := (sca c b).toNat
    let e := layEsz r
    let offs := (List.range (1024 / e)).map (mldbOff r v)
    let bad (o : Int) : Bool := decide (o < 0) || decide ((g.limit * 128 : Nat) < o + e) || engineRange g o.toNat e
    match offs.find? fun o => decide (o % (e : Int) ≠ 0) with
    | some o => (s, .trap 0x03 0 (wrapTo 64 o))
    | none =>
      if v ≠ v % 2 ^ 19 then (s, .trap 0x02 0 (wrapTo 64 (offs.headD 0)))
      else match offs.find? bad with
        | some o =>
          let eng := (offs.filter fun (x : Int) => decide (0 ≤ x) && decide (x + (e : Int) ≤ ((g.limit * 128 : Nat) : Int)) && engineRange g x.toNat e).map Int.toNat
          (s, .trap 0x02 0 (if eng.contains o.toNat && decide (0 ≤ o) then (minBy id eng).getD 0 else wrapTo 64 o))
        | none =>
          let k := 4 / e
          let pos (n m : Nat) : Nat := (offs.getD (n * k + m) 0).toNat
          let word (n : Nat) : Nat := leNat ((List.range k).flatMap fun m => spadSeen s g.core (g.base * 128 + pos n m) e)
          let lanes := (List.range 32).filter fun i => !mbit w.ctl.exited i
          let elems := lanes.flatMap fun f => (List.range 8).map fun j =>
            (laneKey (rowOf c.view c.split.frame (d.val + j)) f, BitVec.ofNat 32 (word (32 * j + f)))
          let more := (List.range 8).foldl (fun a j =>
            a + (passRounds g.swz e ((List.range 32).flatMap fun f => (List.range k).map fun m => pos (32 * j + f) m) - 1)) 0
          let core := coreAt s g.core
          let s1 := putCore s g.core { core with conflicts := (core.conflicts + more) % 2 ^ 64 }
          let xs : List Acc := offs.map fun o => { lane := 0, addr := o.toNat, res := .spad (g.base * 128 + o.toNat) }
          let s2 := onWave s1 c.wv fun w => noteReads w c.sp (accKeys xs).eraseDups
          let res : Result :=
            { rows := (List.range 8).map (fun j => rowOf c.view c.split.frame (d.val + j)), keys := elems.map (·.1),
              vec := elems.foldl (fun m p => spSet 0 m p.1 p.2) [], imprecise := poisonEvents 0 s c g.core e xs }
          (pushResult s2 c.wv res, .done))

end Sys2Proof.Machine
end

