-- ==== Sys2Proof/Machine/WorkGraph.lean ====
section
/-!
DEFINITION. Work graphs (18: R330 to R347): appends, batches, successor counters, faulted tasks, termination, and the instructions APND to
WQUIET, opcodes 0xD9 to 0xDD.
-/
namespace Sys2Proof.Machine

/-! Bindings (R332, R333). -/
def gHiwat (g : Graph) : Nat := bitsOf (recGet g.desc 8 4) 16 16
def gNodes (g : Graph) : Nat := bitsOf (recGet g.desc 12 4) 0 6
def gGid (g : Graph) : Nat := bitsOf (recGet g.desc 12 4) 8 3
def gTable (g : Graph) : Nat := recGet g.desc 16 8
def gDone (g : Graph) : Nat := recGet g.desc 24 8
def nodeR (g : Graph) (n : Nat) : Nat := (g.nodes.getD n (0, 0, 0)).2.1
def nodeTimeout (g : Graph) (n : Nat) : Nat := (g.nodes.getD n (0, 0, 0)).2.2
def graphOf (s : State) (isl gid : Nat) : Option Graph := tbGet? (islandAt s isl).graphs gid
def putGraph (s : State) (isl gid : Nat) (g : Graph) : State :=
  let i := islandAt s isl
  putIsland s isl { i with graphs := tbPut i.graphs gid g }
/-- The node is one of a bound graph. -/
def nodeBound (s : State) (isl gid n : Nat) : Bool := match graphOf s isl gid with
  | none => false
  | some g => decide (n < gNodes g)
/-- R330, R336: free blocks of the pool. -/
def freeBlocks (g : Graph) : List Nat := (List.range (gPooln g)).filter fun b => !g.used.contains b
def blockAddr (g : Graph) (b : Nat) : Nat := (gPool g + 64 * b) % 2 ^ 64
/-- R340. -/
def hiPriority (g : Graph) : Bool := decide (gHiwat g ≤ g.used.length)
def mapList (n : Nat) (f : NodeList → NodeList) (g : Graph) : Graph := { g with lists := g.lists.set n (f (g.lists.getD n {})) }

/-! Batches (R338, R339). -/
/-- R341: a batch of up to R records leaves the head of the list. -/
def takeBatch (now R : Nat) (l : NodeList) : NodeList :=
  let rest := l.recs.drop R
  { l with recs := rest, formed := l.formed ++ [{ num := l.nextBatch, blocks := l.recs.take R }], nextBatch := (l.nextBatch + 1) % 2 ^ 32,
           timer := if rest.isEmpty then none else some now }
/-- R338: batches form while the list holds R records, or any with TIMEOUT 0. -/
def formBatches (now R timeout : Nat) : Nat → NodeList → NodeList
  | 0, l => l
  | fuel + 1, l =>
    if R ≤ l.recs.length ∨ (timeout = 0 ∧ !l.recs.isEmpty) then formBatches now R timeout fuel (takeBatch now R l) else l
/-- R336, R339: a record joins a list. -/
def joinList (now b : Nat) (rec : List Nat) (l : NodeList) : NodeList :=
  { l with recs := l.recs ++ [(b, rec)], timer := if l.recs.isEmpty then some now else l.timer }

/-! Quiescence (R346). -/
/-- Resident batches of a graph; a task that is still to be parked counts, a parked one does not. -/
def graphResident (s : State) (isl gid : Nat) : Nat := (s.groups.filter fun e => match e.2.node with
  | some n => n.graph == gid && !n.parked && (launchAt s e.2.launch).island == isl
  | none => false).length + ((islandAt s isl).parkQ.filter fun t => t.graph == gid).length
def graphFormed (g : Graph) : Nat := (g.lists.map fun l => l.formed.length).foldl (· + ·) 0
def graphRecords (g : Graph) : Nat := (g.lists.map fun l => l.recs.length).foldl (· + ·) 0
/-- R330: appends in flight. -/
def inFlight (s : State) (isl gid : Nat) : Bool :=
  (islandAt s isl).succ.any (fun x => x.graph == gid) ||
    s.waves.any fun e => !e.2.apnd.recs.isEmpty && e.2.apnd.graph == gid && islandOf s e.2 == isl
def isQuiet (s : State) (isl gid : Nat) (g : Graph) : Bool :=
  graphRecords g == 0 && graphFormed g == 0 && graphResident s isl gid == 0 && !inFlight s isl gid
/-- An engine of the hub die that acts for an island: it translates as the island's lowest core would, with privilege. -/
def hubAsker (s : State) (isl : Nat) : Asker :=
  let cl := ((List.range 32).find? fun k => bitOf (islClusters (islandAt s isl)) k).getD 0
  { core := 8 * cl, isl := isl, priv := true }
/-- Bytes that the hub die writes for an island; nothing where they cannot be reached. -/
def hubWrite (s : State) (isl va : Nat) (bytes : List Nat) : State :=
  let q := hubAsker s isl
  let (s1, xs) := locate q 1 (segsOf va bytes.length) s
  if (firstBad xs).isSome then s1 else engineWriteAll 0 q xs bytes s1
/-- R207, R210: what the hub die reads for an island lies in a line that an engine owns or a commit locks. -/
def hubHeld (s : State) (isl va n : Nat) : Bool :=
  let q := hubAsker s isl
  let (s1, xs) := locate q 0 (segsOf va n) s
  xs.any (segWait s1 q.core s1.nextId)
/-- Bytes that the hub die reads for an island; none where they cannot be reached. -/
def hubRead (s : State) (isl va n : Nat) : State × Option (List Nat) :=
  let q := hubAsker s isl
  let (s1, xs) := locate q 0 (segsOf va n) s
  if (firstBad xs).isSome || xs.any (segPoison s1 q) then (s1, none) else (s1, some (xs.flatMap (sceneBytes s1 q)))
/-- R346: the detector looks at one graph. -/
def graphCheck (isl : Nat) (s : State) (gid : Nat) : State := match graphOf s isl gid with
  | none => s
  | some g =>
    let q := isQuiet s isl gid g
    if q = g.quiet then s
    else
      let s1 := putGraph s isl gid { g with quiet := q }
      if q && gDone g != 0 then hubWrite s1 isl (gDone g) (leBytes 8 1) else s1
def graphSweep (s : State) (isl : Nat) : State := ((islandAt s isl).graphs.map (·.1)).foldl (graphCheck isl) s

/-! Appends (R336, R337). -/
/-- R331: NODE, bits 13:8 of bytes 20 to 23. -/
def withNode (rec : List Nat) (node : Nat) : List Nat :=
  let w := recGet rec 20 4
  recPut rec 20 4 (w - bitsOf w 8 6 * 2 ^ 8 + node % 64 * 2 ^ 8)
inductive AppRes where
  | done
  /-- No block is free. -/
  | full
  /-- A line of the block is owned or locked. -/
  | held
  | absent (addr level : Nat)
  /-- With the translation word (R354), 0 where no walk stopped. -/
  | denied (addr trans : Nat)
  deriving DecidableEq, Repr
/-- The record takes a free block, which one is open, and joins its node's list. -/
def appendOne (s : State) (isl gid node : Nat) (q : Asker) (wv : Nat) (rec : List Nat) : State × AppRes := match graphOf s isl gid with
  | none => (s, .denied 0 0)
  | some g =>
    let fr := freeBlocks g
    if fr.isEmpty then (s, .full)
    else
      let b := fr.getD (Config.anyValue s.free (2 ^ 23) % fr.length) 0
      let (s1, xs) := locate q 1 (segsOf (blockAddr g b) 64) s
      match firstBad xs with
      | some x => match failOf x with
        | .absent a l => (s1, .absent a l)
        | .denied a r l => (s1, .denied a (transWord 5 1 r l))
        | .range a => (s1, .denied a 0)
      | none =>
        if xs.any (segWait s1 q.core s1.nextId) then (s, .held)
        else
          let r := withNode rec node
          let s2 := engineWriteAll wv q xs r { s1 with free := s1.free + 1 }
          let now := s.dev.cycle
          let step (l : NodeList) : NodeList := formBatches now (nodeR g node) (nodeTimeout g node) 1 (joinList now b r l)
          (putGraph s2 isl gid { mapList node step { g with used := b :: g.used } with quiet := false }, .done)
/-- The next record of the APND of a wave. -/
def appendNext (s : State) (wv : Nat) : State × AppRes :=
  let w := waveAt s wv
  match w.apnd.recs with
  | [] => (s, .done)
  | r :: rest =>
    match appendOne s (islandOf s w) w.apnd.graph w.apnd.node (askerOf s wv) wv r with
    | (s1, .done) => (onWave s1 wv fun w => { w with apnd := { w.apnd with recs := rest } }, .done)
    | (s1, .absent a l) =>
      let (s2, slot) := placeWaiting s1 (islandOf s w)
        { code := 0x0F, who := whoWord w w.ctl.waitSplit, addr := a, pc := w.apnd.pc, trans := transWord 5 1 0 l, block := (launchOf s w).addr }
      (onWave s2 wv fun w => { w with apnd := { w.apnd with fault := some slot } }, .absent a l)
    | x => x
/-- Records appended one after another until one has to wait. -/
def appendRun (wv : Nat) : Nat → State → State × AppRes
  | 0, s => (s, .done)
  | fuel + 1, s => match appendNext s wv with
    | (s1, .done) => if (waveAt s1 wv).apnd.recs.isEmpty then (s1, .done) else appendRun wv fuel s1
    | r => r
/-- The APND is over, or given up. -/
def endAppend (wv : Nat) (s : State) : State := onWave s wv fun w => { w with apnd := {} }

/-- The record of a lane: words of the registers from a on. -/
def laneRecord (c : Ctx) (a : VReg) (n i : Nat) : List Nat := (List.range n).flatMap fun k => leBytes 4 (vget c.view c.split.frame (a.val + k) i).toNat
/-- The lanes of the write mask that are no helpers. -/
def realLanes (c : Ctx) : List Nat := maskList (c.wm &&& ~~~ c.view.ctl.helpers)
/-- APND (R336, R337). -/
def execApnd (y : Bool) (a : VReg) (b : SReg) (s : State) : Result' :=
  issue s y { vr := [(a.val, 16)], sr := [b.val], closes := true } (fun c s =>
    let v := (sca c b).toNat
    let w := waveAt s c.wv
    let isl := islandOf s w
    let node := bitsOf v 0 6
    let gid := bitsOf v 6 3
    if bitsOf v 9 55 ≠ 0 then (s, .trap 0x01 0 0)
    else if !nodeBound s isl gid node then (s, .trap 0x02 0 0)
    else if !releaseClear s c.wv then (s, .wait .release)
    else
      let recs := (realLanes c).map (laneRecord c a 16)
      let s1 := onWave (releasePush s (coreOf w) isl 5) c.wv fun w => { w with apnd := { graph := gid, node := node, pc := c.split.pc, recs := recs } }
      if recs.isEmpty then (leaveSlots (endAppend c.wv s1) c.wv, .done)
      else match appendRun c.wv recs.length s1 with
        | (s2, .done) => (leaveSlots (endAppend c.wv s2) c.wv, .done)
        | (s2, .denied x tw) => (graphSweep (endAppend c.wv s2) isl, .denied 0x02 tw x)
        | (s2, _) => (graphCheck isl s2 gid, .doneWait .append))
/-- APPEND_RECORD (R336): the next record of an APND that waits. -/
def execAppendRecord (wv : Nat) (s : State) : Result' := match tbGet? s.waves wv with
  | none => event s
  | some w =>
    if w.ctl.wait ≠ .append ∨ w.apnd.fault.isSome ∨ (groupAt s w.group).away then event s
    else match appendNext s wv with
      | (s1, .done) =>
        event (if (waveAt s1 wv).apnd.recs.isEmpty then onWave (endAppend wv s1) wv endWait else s1)
      | (s1, .denied x tw) =>
        let t : Trap := { split := w.ctl.waitSplit, code := 0x02, tpc := w.apnd.pc, taddr := x, trans := tw }
        event (settleSlots (takeTrap (graphSweep (endAppend wv s1) (islandOf s w)) wv t) wv)
      | (s1, _) => event s1
/-- BATCH_TIMER_EXPIRY (R338, R339). -/
def execBatchTimerExpiry (island graph node : Nat) (s : State) : Result' := match graphOf s island graph with
  | none => event s
  | some g =>
    let l := g.lists.getD node {}
    match l.timer with
    | none => event s
    | some t =>
      if !l.recs.isEmpty && decide (t + nodeTimeout g node ≤ s.dev.cycle) then
        event (putGraph s island graph (mapList node (takeBatch s.dev.cycle (nodeR g node)) g))
      else event s

/-! Successor counters (R343). -/
def useOne (a : SReg) : Usage := { useSr a with closes := true }
/-- The access of TDONE: an atomic decrement at the home agent, and a device-scope release there (R204). -/
def tdoneAct (c : Ctx) (s : State) (xs : List Acc) : State :=
  let w := waveAt s c.wv
  let core := coreOf w
  let isl := islandOf s w
  match xs with
  | [] => s
  | x :: _ =>
    let s0 := releasePush s core isl 5
    let r := readAcc core isl 8 2 s0 x
    let v := if accPoisonAt 2 s0 core 8 x then freeValue c.free 0 8 else r.2
    let old := v % 2 ^ 32
    let word := v / 2 ^ 32 % 2 ^ 32
    let s1 := (accLines [x]).foldl (recordStore w.fenced (some 5) core)
      (if old = 0 then r.1 else writeAcc c.wv core isl 2 false (leBytes 4 (old - 1)) r.1 x)
    let s2 := onWave s1 c.wv fun w => { w with evt := { w.evt with imprecise := w.evt.imprecise ++ noLanes (poisonEvents 2 s0 c core 8 [x]) } }
    if old = 0 then placeEvent s2 isl { kind := 7, who := whoWord w c.sp, addr := x.addr }
    else if old = 1 then
      let i := islandAt s2 isl
      let gid := bitsOf word 6 3
      let s3 := putIsland s2 isl { i with succ := i.succ ++
        [{ counter := x.addr, graph := gid, node := bitsOf word 0 6, core := core, priv := privileged s w, who := whoWord w c.sp,
           pc := c.split.pc, block := (launchOf s w).addr }] }
      graphCheck isl s3 gid
    else s2
/-- TDONE (R343). -/
def execTdone (y : Bool) (a : SReg) (s : State) : Result' :=
  issue s y (useOne a) (fun c s =>
    let va := (sca c a).toNat
    if va = 0 then (leaveSlots s c.wv, .done)
    else if !releaseClear s c.wv then (s, .wait .release)
    else match asScalar s c.wv fun s => accessWith c s .global 2 64 [(0, va)] (tdoneAct c) with
      | (s1, .done) => (leaveSlots s1 c.wv, .done)
      | r => r)

def succAsker (isl : Nat) (x : Successor) : Asker := { core := x.core, isl := isl, priv := x.priv }
/-- R343, R403: the event of a successor that cannot be appended. -/
def succError (s : State) (isl : Nat) (x : Successor) : State :=
  placeEvent s isl { kind := 8, who := x.who, addr := x.counter, aux := x.node + x.graph * 2 ^ 6 }
/-- R212, R403: the record of a successor has been read from a poisoned line: its bytes are free values, and the event is placed at once, for the
wave may have gone on (DESIGN CHOICE, log 26). -/
def succPoison (isl : Nat) (x : Successor) (s : State) (line : Nat) : State :=
  placeEvent s isl { kind := 10, cause := 0x12, who := x.who, addr := line, aux := x.pc }
/-- The place of the oldest successor append of a graph. -/
def succIdx (i : Island) (gid : Nat) : Nat := (i.succ.findIdx? fun x => x.graph == gid).getD i.succ.length
def dropSucc (s : State) (isl gid : Nat) : State :=
  let i := islandAt s isl
  putIsland s isl { i with succ := dropAt i.succ (succIdx i gid) }
/-- A page that the append needs is not present. -/
def succFault (s : State) (isl : Nat) (x : Successor) (access a l : Nat) : State :=
  let (s1, slot) := placeWaiting s isl { code := 0x0F, who := x.who, addr := a, pc := x.pc, trans := transWord 5 access 0 l, block := x.block }
  let i := islandAt s1 isl
  putIsland s1 isl { i with succ := i.succ.set (succIdx i x.graph) { x with fault := some slot } }
/-- SUCCESSOR_APPEND (R343): the oldest successor append of a graph. -/
def execSuccessorAppend (island graph : Nat) (s : State) : Result' := match (islandAt s island).succ.find? fun x => x.graph == graph with
  | none => event s
  | some x =>
    if x.fault.isSome then event s
    else
      let give (s : State) : Result' := event (graphCheck island (succError (dropSucc s island graph) island x) graph)
      if !nodeBound s island x.graph x.node then give s
      else
        let q := succAsker island x
        match readRun s q ((x.counter + 64) % 2 ^ 64) 64 with
        | (s1, .failed (.absent a l)) => event (succFault s1 island x 0 a l)
        | (s1, .failed _) => give s1
        | (_, .held) => event s
        | (s1, .bytes r bad) => match appendOne s1 island x.graph x.node q 0 r with
          | (s2, .done) => event (graphCheck island (dropSucc (bad.foldl (succPoison island x) s2) island graph) graph)
          | (s2, .absent a l) => event (succFault s2 island x 1 a l)
          | (s2, .denied _ _) => give s2
          | (_, _) => event s

/-! Faulted tasks (R345, R362). -/
def parkSlots (t : ParkedTask) : Nat := 1 + (t.blocks.length - 15 + 15) / 16
/-- R345: the header of a control block. -/
def parkHeader (t : ParkedTask) : List Nat :=
  leBytes 4 t.code ++ leBytes 4 (t.node + t.graph * 2 ^ 8 + t.blocks.length * 2 ^ 16) ++ leBytes 8 t.taddr ++ leBytes 8 t.pc ++ List.replicate 40 0
def padTo (n : Nat) (l : List Nat) : List Nat := l ++ List.replicate (n - l.length) 0
/-- The bytes of a control block, slot by slot. -/
def cutSlots : Nat → List Nat → List (List Nat)
  | 0, _ => []
  | n + 1, l => padTo 1024 (l.take 1024) :: cutSlots n (l.drop 1024)
def parkImage (t : ParkedTask) : List (List Nat) := cutSlots (parkSlots t) (parkHeader t ++ t.blocks.flatMap fun b => padTo 64 b.2)
/-- R341, R345: blocks of records go back to the pool. -/
def freePool (isl gid : Nat) (bs : List Nat) (s : State) : State := match graphOf s isl gid with
  | none => s
  | some g => putGraph s isl gid { g with used := g.used.filter fun b => !bs.contains b }
/-- TASK_CONTROL_BLOCK_WRITE (R345, R362, R404): the oldest task to be parked, once the fault queue and q4 have room for it. -/
def execTaskControlBlockWrite (island : Nat) (s : State) : Result' :=
  let i := islandAt s island
  match i.parkQ with
  | [] => event s
  | t :: rest =>
    if i.fqWait.isEmpty && q4Room i && decide (fqUsed i + parkSlots t ≤ fqSize i) then
      let slot := fqSlot i i.fqTail
      let s1 := putIsland s island { i with parkQ := rest }
      let s2 := (parkImage t).foldl (fun s b => (putFaultSlot s island b).1) s1
      let s3 := placeEvent s2 island { kind := 11, cause := t.code, who := t.who, aux := slot }
      let s4 := freePool island t.graph (t.blocks.map (·.1)) s3
      let s5 := match graphOf s4 island t.graph with
        | none => s4
        | some g => putGraph s4 island t.graph { g with faulted := true }
      event (graphCheck island s5 t.graph)
    else event s

/-! WLCFG and WQUIET (R335, R347). -/
/-- R335 order 2 of a descriptor with POOL ≠ 0. -/
def descLegal (g : Graph) : Bool :=
  bitsOf (recGet g.desc 12 4) 6 2 == 0 && bitsOf (recGet g.desc 12 4) 11 21 == 0 && recGet g.desc 32 32 == 0 &&
  decide (4 ≤ gPooln g) && decide (1 ≤ gHiwat g) && decide (gHiwat g ≤ gPooln g) && decide (1 ≤ gNodes g) &&
  gPool g % 64 == 0 && gTable g % 16 == 0 && gDone g % 8 == 0
/-- The same, where POOL = 0. -/
def unbindLegal (g : Graph) : Bool :=
  bitsOf (recGet g.desc 12 4) 6 2 == 0 && bitsOf (recGet g.desc 12 4) 11 21 == 0 && recGet g.desc 32 32 == 0
/-- R335 order 3. -/
def graphBusy (s : State) (isl : Nat) (g : Graph) : Bool := match graphOf s isl (gGid g) with
  | none => false
  | some old => !isQuiet s isl (gGid g) old
def poolMeets (a b : Graph) : Bool :=
  decide (gPool a < gPool b + 68 * gPooln b) && decide (gPool b < gPool a + 68 * gPooln a)
def poolTaken (s : State) (isl : Nat) (g : Graph) : Bool := (islandAt s isl).graphs.any fun e => e.1 != gGid g && poolMeets g e.2
/-- R333, R335: an entry of the node table. -/
def nodeEntryLegal (r : List Nat) : Bool :=
  let x := bitsOf (recGet r 8 4) 0 4
  decide (1 ≤ x) && decide (x ≤ 8) && recGet r 12 4 == 0
def nodeEntry (r : List Nat) : Nat × Nat × Nat := (recGet r 0 8, bitsOf (recGet r 8 4) 0 4, bitsOf (recGet r 8 4) 4 28)
/-- The entries of the node table from `va` on. -/
def readNodes (c : Ctx) (k : State → List (Nat × Nat × Nat) → State × Eff) :
    Nat → Nat → List (Nat × Nat × Nat) → State → State × Eff
  | 0, _, acc, s => k s acc
  | n + 1, va, acc, s => readRecord c s va 16 16 fun s1 r =>
    if nodeEntryLegal r then readNodes c k n ((va + 16) % 2 ^ 64) (acc ++ [nodeEntry r]) s1 else (s1, .trap 0x01 0 0)
/-- R335: the binding takes effect. -/
def bindGraph (s : State) (isl : Nat) (bare : Bool) (g : Graph) (ns : List (Nat × Nat × Nat)) : State :=
  putGraph s isl (gGid g) { desc := g.desc, nodes := ns, lists := List.replicate (gNodes g) {}, bare := bare }
def unbindGraph (s : State) (isl gid : Nat) : State :=
  let i := islandAt s isl
  putIsland s isl { i with graphs := tbErase i.graphs gid }
def execWlcfg (y : Bool) (a : SReg) (s : State) : Result' :=
  issue s y (useOne a) (fun c s => readRecord c s (sca c a).toNat 64 64 fun s r =>
    let isl := islandOf s (waveAt s c.wv)
    let g : Graph := { desc := r }
    if gPool g = 0 then
      if !unbindLegal g then (s, .trap 0x01 0 0)
      else if graphBusy s isl g then (s, .trap 0x02 0 0)
      else (leaveSlots (unbindGraph s isl (gGid g)) c.wv, .done)
    else if !descLegal g then (s, .trap 0x01 0 0)
    else if graphBusy s isl g || poolTaken s isl g then (s, .trap 0x02 0 0)
    else readNodes c (fun s ns => (leaveSlots (bindGraph s isl (!privileged s (waveAt s c.wv)) g ns) c.wv, .done)) (gNodes g) (gTable g) [] s)

/-- R347: the answer of the detector. -/
def quietWord (s : State) (isl gid : Nat) (g : Graph) : Nat :=
  graphRecords g % 2 ^ 32 + (graphFormed g + graphResident s isl gid) % 2 ^ 16 * 2 ^ 32 + b2n g.faulted * 2 ^ 62 + b2n (isQuiet s isl gid g) * 2 ^ 63
def execWquiet (y : Bool) (d : SReg) (s : State) : Result' :=
  issue s y { sr := [d.val], sw := [d.val] } (fun c s =>
    let v := (sca c d).toNat
    let w := waveAt s c.wv
    let isl := islandOf s w
    if bitsOf v 3 61 ≠ 0 then (s, .trap 0x01 0 0)
    else match graphOf s isl (bitsOf v 0 3) with
      | none => (s, .trap 0x02 0 0)
      | some g =>
        let s1 := onWave s c.wv fun w => sset w d.val (BitVec.ofNat 64 (quietWord s isl (bitsOf v 0 3) g))
        (leaveSlots (if isQuiet s isl (bitsOf v 0 3) g then invalidateClean s1 (coreOf w) else s1) c.wv, .done))

/-! LAUNCH (R344, R238, R239). -/
def queueSize (i : Island) (cls : Nat) : Nat := 2 ^ islQueueLog i cls
def queueUsed (i : Island) (cls : Nat) : Nat := (i.tails.getD cls 0 + 2 ^ 32 - i.heads.getD cls 0) % 2 ^ 32
def queueEntry (i : Island) (cls j : Nat) : Nat := islQueueBase i cls + 128 * (j % queueSize i cls)
/-- R344: the block enters the queue whole, and TAIL advances; `bare` where an unprivileged wave launches it (R1). -/
def enqueue (s : State) (isl cls : Nat) (bare : Bool) (b : List Nat) : State :=
  let i := islandAt s isl
  let t := i.tails.getD cls 0
  let pa := queueEntry i cls t
  let s1 := clearPoison (homeWrite (recallLine s (pa / 128)) pa b) (pa / 128)
  let i1 := islandAt s1 isl
  putIsland s1 isl { i1 with tails := i1.tails.set cls ((t + 1) % 2 ^ 32), bare := if bare then (cls, t) :: i1.bare else i1.bare }
/-- R344: LAUNCH with the block that it read at its issue; while it waits, its wave keeps the block. -/
def launchBody (c : Ctx) (s : State) (b : List Nat) : State × Eff :=
  let w := waveAt s c.wv
  let isl := islandOf s w
  let cls := blClass b
  let keep (b : List Nat) (s : State) : State := onWave s c.wv fun w => { w with block := b }
  if cls = 3 ∨ cls < (launchOf s w).cls ∨ (blPriv b ∧ !privileged s w) then (keep [] s, .trap 0x02 0 0)
  else if !releaseClear s c.wv then (keep b s, .wait .release)
  else if queueSize (islandAt s isl) cls ≤ queueUsed (islandAt s isl) cls then (keep b s, .wait (.launchQueue cls))
  else (leaveSlots (enqueue (releasePush (keep [] s) (coreOf w) isl 5) isl cls (!privileged s w) b) c.wv, .done)
/-- LAUNCH (R344). -/
def execLaunch (y : Bool) (a : SReg) (s : State) : Result' :=
  issue s y (useOne a) (fun c s =>
    if (waveAt s c.wv).block.isEmpty then readRecord c s (sca c a).toNat 128 128 (launchBody c)
    else launchBody c s (waveAt s c.wv).block)

end Sys2Proof.Machine
end

