-- ==== Sys2Proof/Machine/QueueInstr.lean ====
section
/-!
DEFINITION. The queue instructions QPUSH, QPOP, QPEEK and QCNT, opcodes 0xD3 to 0xD6 (17: R319, R326, R328; 14: R259 to R261; 18: R342;
22: R404). R51 says which queue takes which.
-/
namespace Sys2Proof.Machine

/-! QPUSH. -/
/-- R319: one descriptor for each lane; the wave stays parked until each has an entry. -/
def pushBeams (a : VReg) (c : Ctx) (s : State) : State × Eff :=
  let w := waveAt s c.wv
  let g := groupAt s w.group
  match g.scene with
  | none => (s, .trap 0x02 0 0)
  | some _ =>
    if g.bcfg = 0 then (s, .trap 0x02 0 0)
    else
      let word (i k : Nat) : Nat := (vget c.view c.split.frame (a.val + k) i).toNat
      let one (i : Nat) : BeamRoot :=
        { wave := c.wv, split := c.sp, who := whoWord w c.sp, pc := c.split.pc, desc := (List.range 16).map (word i),
          past := pastNow s (coreOf w) }
      let rs := (realLanes c).map one
      (putGroup s w.group { g with roots := g.roots ++ rs }, if rs.isEmpty then .done else .doneWait .pool)

/-- R259: the element size of an untagged push. -/
def pushEt (mode : Lane) : Nat := if modeET mode = 5 ∨ modeET mode = 6 then modeET mode else 7
/-- R259: the entry of one lane. -/
def pushRow (c : Ctx) (a : VReg) (i : Nat) : FeedRow :=
  let et := pushEt c.split.mode
  let row := (List.range 32).map fun f => tileElem c a.val et 0 f i
  { tag := 0, tile := i / 32, pos := i % 32, esz := b2n (decide (et = 7)), bitmap := rowBitmap et row, elems := rowStored et row, wave := c.wv }
/-- R259: the place of a wave's QPUSH among the producers of its quarter: that of its first issue. -/
def pushOrder (s : State) (wv : Nat) (w : Wave) : Nat := (((quarterAt s w.quarter).line.find? fun e => e.2 == wv).map (·.1)).getD s.nextId
/-- R259: room for n entries, and no earlier producer of the quarter with entries still to push. -/
def feedReady (s : State) (wv : Nat) (w : Wave) (n : Nat) : Bool :=
  let order := pushOrder s wv w
  decide ((quarterAt s w.quarter).feed.length + n ≤ 128) && !lineAhead s w.quarter order &&
    !((coreAt s (coreOf w)).pipe.any fun j => j.isFeed && j.quarter == w.quarter && !j.rows.isEmpty && decide (j.cmd < order))
def pushFeed (a : VReg) (c : Ctx) (s : State) : State × Eff :=
  let w := waveAt s c.wv
  let rows := (realLanes c).map (pushRow c a)
  let q := quarterAt s w.quarter
  let others := q.line.filter fun e => e.2 != c.wv
  if !holdsSlots s w then (s, .trap 0x02 0 0)
  else if rows.isEmpty then (s, .done)
  else if !feedReady s c.wv w rows.length then
    (putQuarter { s with nextId := s.nextId + 1 } w.quarter { q with line := (pushOrder s c.wv w, c.wv) :: others }, .wait (.feedRoom rows.length))
  else (putQuarter s w.quarter { q with feed := q.feed ++ rows, line := others }, .done)
/-- QPUSH (R319, R259). -/
def execQpush (y : Bool) (q : Fin 8) (a : VReg) (s : State) : Result' :=
  issue s y { vr := [(a.val, 16)], blk16 := if q.val = 2 then tileRegs (pushEt (curMode s)) else 16,
              legal := q.val == 0 || q.val == 2, closes := true, feed := q.val == 2 } fun c s =>
    if q.val = 0 then pushBeams a c s else pushFeed a c s

/-! QPOP q1 (R326). -/
def fragX (r : List Nat) : Nat := bitsOf (r.getD 0 0) 0 15
def fragY (r : List Nat) : Nat := bitsOf (r.getD 0 0) 15 15
def fragSlot (r : List Nat) : Nat := fragX r % 2 + 2 * (fragY r % 2)
def sameQuad (r h : List Nat) : Bool := fragX r / 2 == fragX h / 2 && fragY r / 2 == fragY h / 2
/-- A quad group: its four slots. -/
abbrev QuadGroup := List (Option (List Nat))
/-- R326: the next records, up to 32, in order: one whose slot of the quad is free moves into it. -/
def packQuad (h : List Nat) : Nat → List (List Nat) → QuadGroup → QuadGroup × List (List Nat)
  | 0, rest, g => (g, rest)
  | _ + 1, [], g => (g, [])
  | n + 1, r :: t, g =>
    if sameQuad r h && (g.getD (fragSlot r) none).isNone then packQuad h n t (g.set (fragSlot r) (some r))
    else
      let k := packQuad h n t g
      (k.1, r :: k.2)
/-- R326: groups for a list of quads. -/
def packQuads : List Nat → List (List Nat) → List (Nat × QuadGroup) × List (List Nat)
  | [], q => ([], q)
  | _ :: _, [] => ([], [])
  | k :: ks, h :: t =>
    let g := packQuad h 32 t ((List.replicate 4 none).set (fragSlot h) (some h))
    let r := packQuads ks g.2
    ((k, g.1) :: r.1, r.2)
/-- R326: the record of a hole. -/
def holeRecord (g : QuadGroup) (j : Nat) : List Nat :=
  let r := (g.findSome? id).getD []
  let px := fragX r / 2 * 2 + j % 2
  let py := fragY r / 2 * 2 + j / 2
  [px + py * 2 ^ 15, r.getD 1 0, r.getD 2 0, 0, 1, r.getD 5 0, 0x80008000, r.getD 7 0]
def emptyRecord : List Nat := [0xFFFFFFFF, 0, 0, 0, 0, 0, 0, 0]
/-- The quads of which no lane has exited. -/
def openQuads (w : Wave) : List Nat :=
  (List.range (w.width / 4)).filter fun k => (List.range 4).all fun j => !mbit w.ctl.exited (4 * k + j)
/-- R326: lane, record, and whether the lane becomes a helper. -/
def quadLanes (w : Wave) (q1 : List (List Nat)) (gs : List (Nat × QuadGroup)) : List (Nat × List Nat × Bool) :=
  if q1.isEmpty then ((List.range w.width).filter fun i => !mbit w.ctl.exited i).map fun i => (i, emptyRecord, true)
  else (openQuads w).flatMap fun k => (List.range 4).map fun j => match gs.find? fun p => p.1 == k with
    | some p => match p.2.getD j none with
      | some r => (4 * k + j, r, false)
      | none => (4 * k + j, holeRecord p.2 j, true)
    | none => (4 * k + j, emptyRecord, true)
def maskOfList (l : List Nat) : Mask := l.foldl (fun m i => m ||| 1#128 <<< i) 0
/-- A result of n words for each lane, in registers d to d + n - 1. -/
def wordsResult (c : Ctx) (d n : Nat) (vals : List (Nat × List Nat)) : Result :=
  let rows := (List.range n).map fun k => rowOf c.view c.split.frame (d + k)
  let elems := vals.flatMap fun p => (List.range n).map fun k => (laneKey (rowOf c.view c.split.frame (d + k)) p.1, BitVec.ofNat 32 (p.2.getD k 0))
  { unit := .queue, rows := rows, keys := elems.map (·.1), vec := elems.foldl (fun m e => spSet 0 m e.1 e.2) [] }
def popFragments (d : VReg) (c : Ctx) (s : State) : State × Eff :=
  let w := waveAt s c.wv
  let g := groupAt s w.group
  if g.q1.isEmpty && !g.beams.isEmpty then (s, .wait .fragment)
  else
    let (gs, rest) := packQuads (openQuads w) g.q1
    let lanes := quadLanes w g.q1 gs
    let r := wordsResult c d.val 8 (lanes.map fun x => (x.1, x.2.1))
    let bits := maskOfList ((lanes.filter fun x => x.2.2).map (·.1))
    (pushResult (putGroup s w.group { g with q1 := rest }) c.wv { r with helpers := some (maskOfList (lanes.map (·.1)), bits) }, .done)

/-! QPOP q3 and q4. -/
/-- R342: which lanes take a record, in order; the others of the write mask receive zero. -/
def popRecords (d : VReg) (c : Ctx) (s : State) : State × Eff :=
  let w := waveAt s c.wv
  let gr := groupAt s w.group
  match gr.node with
  | none => (s, .trap 0x02 0 0)
  | some t =>
    let isl := islandOf s w
    match graphOf s isl t.graph with
    | none => (pushResult s c.wv (wordsResult c d.val 16 ((maskList c.wm).map fun i => (i, []))), .done)
    | some g =>
      let l := g.lists.getD t.node {}
      let lanes := realLanes c
      let got := l.recs.take lanes.length
      let rest := l.recs.drop lanes.length
      let words (i : Nat) : List Nat := wordsOf 16 (((lanes.zip got).find? fun p => p.1 == i).elim [] (·.2.2))
      let l' : NodeList := { l with recs := rest, timer := if rest.isEmpty then none else l.timer }
      let s1 := putGraph s isl t.graph (mapList t.node (fun _ => l') g)
      let s2 := putGroup s1 w.group { gr with node := some { t with blocks := t.blocks ++ got } }
      (pushResult s2 c.wv (wordsResult c d.val 16 ((maskList c.wm).map fun i => (i, words i))), .done)
/-- R404: one event record for each lane of the write mask. -/
def popRecordsOut (d : VReg) (c : Ctx) (s : State) : State × Eff :=
  let isl := islandOf s (waveAt s c.wv)
  let lanes := maskList c.wm
  let got := (islandAt s isl).q4.take lanes.length
  let words (i : Nat) : List Nat := ((lanes.zip got).find? fun p => p.1 == i).elim [] fun p => evWords isl p.2
  (pushResult (popEvents s isl lanes.length) c.wv (wordsResult c d.val 8 (lanes.map fun i => (i, words i))), .done)
/-- How many registers a QPOP writes. -/
def popRun (q : Nat) : Nat := if q = 3 then 16 else 8
/-- QPOP (R326, R342, R404). -/
def execQpop (y : Bool) (d : VReg) (q : Fin 8) (s : State) : Result' :=
  issue s y
    { vw := [(d.val, popRun q.val)], legal := q.val == 1 || q.val == 3 || q.val == 4, priv := q.val == 4, closes := true,
      collective := q.val == 1, skipExec := q.val == 1, allLanes := q.val == 1 }
    fun c s => if q.val = 1 then popFragments d c s else if q.val = 3 then popRecords d c s else popRecordsOut d c s

/-! QPEEK and QCNT (R328, R260, R342, R404). -/
/-- R261: q2 belongs to the holder of the slots. -/
def queueDenied (s : State) (w : Wave) (q : Nat) : Bool := q == 2 && !holdsSlots s w
def nodeListOf (s : State) (w : Wave) : Option (Graph × NodeList) := (groupAt s w.group).node.bind fun t =>
  (graphOf s (islandOf s w) t.graph).map fun g => (g, g.lists.getD t.node {})
def peekWord (s : State) (w : Wave) (q : Nat) : Nat :=
  let g := groupAt s w.group
  match q with
  | 0 => if g.bcfg = 0 then 0 else poolFree g * 2 ^ 32 + (bcEntries g.bcfg - poolFree g)
  | 1 => match g.q1 with
    | [] => 0
    | r :: _ => r.getD 0 0 + 2 ^ 47
  | 2 => match (quarterAt s w.quarter).feed with
    | [] => 0
    | e :: _ => e.tag % 2 ^ 32 + e.pos * 2 ^ 32 + e.tile * 2 ^ 37 + e.elems.length * 2 ^ 40 + e.esz * 2 ^ 46 + 2 ^ 47
  | 3 => match nodeListOf s w with
    | none => 0
    | some p => p.2.recs.length % 2 ^ 32 + (freeBlocks p.1).length % 2 ^ 16 * 2 ^ 32 + 2 ^ 63
  | _ => match (islandAt s (islandOf s w)).q4 with
    | [] => 0
    | r :: _ => (evWords (islandOf s w) r).getD 0 0 + 2 ^ 47
def countWord (s : State) (w : Wave) (q : Nat) : Nat :=
  let g := groupAt s w.group
  match q with
  | 0 => if g.bcfg = 0 then 0 else g.beams.length
  | 1 => g.q1.length
  | 2 => (quarterAt s w.quarter).feed.length
  | 3 => (nodeListOf s w).elim 0 fun p => p.2.recs.length
  | _ => (islandAt s (islandOf s w)).q4.length
def useQueue (d : SReg) (q : Nat) : Usage := { useSw d with legal := decide (q < 5), priv := q == 4, feed := q == 2 }
/-- QPEEK: its scalar joins the outstanding-write set (R94). -/
def execQpeek (y : Bool) (d : SReg) (q : Fin 8) (s : State) : Result' :=
  issue s y (useQueue d q.val) fun c s =>
    let w := waveAt s c.wv
    if queueDenied s w q.val then (s, .trap 0x02 0 0)
    else (pushResult s c.wv { unit := .queue, scalars := [d.val], sca := [(d.val, BitVec.ofNat 64 (peekWord s w q.val))] }, .done)
/-- QCNT. -/
def execQcnt (y : Bool) (d : SReg) (q : Fin 8) (s : State) : Result' :=
  issue s y (useQueue d q.val) fun c s =>
    let w := waveAt s c.wv
    if queueDenied s w q.val then (s, .trap 0x02 0 0)
    else (onWave s c.wv fun v => sset v d.val (BitVec.ofNat 64 (countWord s w q.val)), .done)

end Sys2Proof.Machine
end

