-- ==== Sys2Proof/Machine/Distributor.lean ====
section
/-!
DEFINITION. The distributor (13: R238 to R243; 01: R30, R36, R37; 04: R85; 19: R358 to R360, R440; 15: R295): doorbells, queue entries,
placement, real-time instances, group moves, and the end of a group.
-/
namespace Sys2Proof.Machine

/-! Doorbells (R238, R239). -/
/-- R238: the island has a launch queue of this class. -/
def hasQueue (i : Island) (cls : Nat) : Bool := islValid i && decide (islClass i ≤ cls) && decide (cls < 3)
def doorbellAddr (isl cls : Nat) : Nat := 0x100000 + isl * 0x10000 + 8 * cls
/-- R239, R361, R403: a launch-queue error. -/
def queueError (s : State) (isl addr cls : Nat) : State := placeEvent s isl { kind := 4, addr := addr, aux := cls }
/-- R426: an outside access wakes a device that dozes. -/
def wakeRequest (s : State) : State := if s.dev.pwrState = 1 then putDev s { s.dev with pwrReq := 0 } else s
/-- R239: a value written to a doorbell. -/
def ringDoorbell (island cls tail : Nat) (s : State) : State :=
  let i := islandAt s island
  if 2 ≤ s.dev.pwrState ∨ !hasQueue i cls then s
  else
    let t := tail % 2 ^ 32
    let ahead := (t + 2 ^ 32 - i.heads.getD cls 0) % 2 ^ 32
    let s1 := wakeRequest s
    if queueSize i cls < ahead ∨ ahead < queueUsed i cls then queueError s1 island (doorbellAddr island cls) cls
    else putIsland s1 island { i with tails := i.tails.set cls t }
/-- LAUNCH_DOORBELL_WRITE (R239). -/
def execLaunchDoorbellWrite (island cls tail : Nat) (s : State) : Result' := event (ringDoorbell island cls tail s)

/-! Queue entries (R240). -/
/-- R14, R359: the island holds a cluster on every compute die. -/
def onEveryDie (i : Island) : Bool := (List.range 4).all fun d => (List.range 8).any fun k => bitOf (islClusters i) (8 * d + k)
/-- The launch of a queue whose entry HEAD has not passed. -/
def queueLaunch (s : State) (isl cls : Nat) : Option (Nat × Launch) :=
  s.launches.find? fun e => e.2.island == isl && e.2.cls == cls && !e.2.isNode && !e.2.headMoved
def moveHead (s : State) (isl cls : Nat) : State :=
  let i := islandAt s isl
  putIsland s isl { i with heads := i.heads.set cls ((i.heads.getD cls 0 + 1) % 2 ^ 32), bare := i.bare.filter (· != (cls, i.heads.getD cls 0)) }
/-- LAUNCH_ENTRY_READ (R240, R359, R243): the entry at HEAD; a malformed one is skipped with a fault record, and so is one in a poisoned line or in
another island's sealed carve-out (DESIGN CHOICE, log 26). The read waits while its line is owned or locked (R207, R210). -/
def execLaunchEntryRead (island cls : Nat) (s : State) : Result' :=
  let i := islandAt s island
  if !hasQueue i cls ∨ i.heads.getD cls 0 = i.tails.getD cls 0 ∨ (queueLaunch s island cls).isSome ∨ s.dev.pwrState ≠ 0 ∨
      (lineWait s (queueEntry i cls (i.heads.getD cls 0) / 128)).isSome then event s
  else
    let pa := queueEntry i cls (i.heads.getD cls 0)
    let s1 := recallLine s (pa / 128)
    let b := homeBytes s1 pa 128
    if isPoisoned s1 (pa / 128) || sealedFrom s1 island pa || !blockGood b cls (islPrivQ i) (onEveryDie i) then
      event (moveHead (placeFault s1 island { code := 0x24, addr := pa, block := pa }).1 island cls)
    else
      let l : Launch := { island := island, cls := cls, block := b, addr := pa, r0 := s.dev.cycle, running := !blRt b,
                          bare := i.bare.contains (cls, i.heads.getD cls 0) }
      event (putLaunch { s1 with nextId := s1.nextId + 1 } s1.nextId l)

/-! Real-time instances (R243). -/
/-- Release m of a periodic launch. -/
def releaseAt (l : Launch) (m : Nat) : Nat := l.r0 + m * blPeriod l.block
def startInstance (m : Nat) (l : Launch) : Launch :=
  { l with running := true, inst := m, deadline := releaseAt l m + blDeadline l.block, next := 0, resident := 0, finished := 0,
           merged := 0, late := false, fault := false, recorded := false }
def releaseDue (s : State) (l : Launch) : Bool :=
  blRt l.block && !l.isNode && decide (l.released < blRepeat l.block) && decide (releaseAt l l.released ≤ s.dev.cycle)
/-- REAL_TIME_RELEASE (R243): a release starts an instance, or merges into the deferred one. -/
def execRealTimeRelease (launch : Nat) (s : State) : Result' := match tbGet? s.launches launch with
  | none => event s
  | some l =>
    if releaseDue s l then
      let l1 := if l.running then { l with merged := l.merged + 1 } else startInstance l.released l
      event (putLaunch s launch { l1 with released := l.released + 1 })
    else event s
def missDue (s : State) (l : Launch) : Bool := blRt l.block && !l.isNode && l.running && !l.late && decide (l.deadline ≤ s.dev.cycle)
/-- DEADLINE_MISS (R243, R403). -/
def execDeadlineMiss (launch : Nat) (s : State) : Result' := match tbGet? s.launches launch with
  | none => event s
  | some l =>
    if missDue s l then event (placeEvent (putLaunch s launch { l with late := true }) l.island { kind := 5, addr := l.addr, aux := l.inst })
    else event s

/-! Room on a core (R30, R85, R241). -/
def groupsOn (s : State) (core : Nat) : List (Nat × Group) := s.groups.filter fun e => e.2.core == core && !e.2.away
/-- Resident waves of a quarter. -/
def wavesOnQuarter (s : State) (k : Nat) : List Wave := (s.waves.filter fun e => e.2.quarter == k && !(groupAt s e.2.group).away).map (·.2)
/-- R345: the rows of the stopped waves of a quarter. -/
def stoppedOn (s : State) (k : Nat) : List Nat := s.groups.flatMap fun e => match e.2.node with
  | some t => if e.2.away then [] else (t.stopped.filter fun x => x.1 == k).map (·.2)
  | none => []
def quarterFits (s : State) (b : List Nat) (core q : Nat) : Bool :=
  let rows := (wavesOnQuarter s (core * 4 + q)).map waveRows ++ stoppedOn s (core * 4 + q)
  decide (rows.length + wavesOn b q ≤ 32) && decide (rows.sum + rowsOn b q ≤ 2048) &&
    !(blAcc b && wavesOn b q != 0 && (quarterAt s (core * 4 + q)).accHolder.isSome)
/-- The lowest scratchpad base, in 128-byte units, at which a grant fits. -/
def spadBase (s : State) (core grant : Nat) : Option Nat :=
  let gs := (groupsOn s core).map (·.2)
  let free (x : Nat) : Bool := decide (x + grant ≤ 4096) && gs.all fun g => !touches x grant g.base g.grant
  (0 :: gs.map fun g => g.base + g.grant).foldl (fun best x => if free x then match best with
    | none => some x
    | some y => some (min x y) else best) none
def coreFits (s : State) (b : List Nat) (core : Nat) : Bool :=
  ((List.range 4).all (quarterFits s b core)) && (spadBase s core (blScratch b)).isSome
/-- R36: the island that holds a cluster in its table entry. -/
def ownerOf (s : State) (cl : Nat) : Option Nat :=
  (s.islands.find? fun e => islValid e.2 && bitOf (islClusters e.2) cl).map (·.1)
/-- R36: a real-time island with nothing released and nothing resident. -/
def islandIdle (s : State) (isl : Nat) : Bool :=
  !(s.launches.any fun e => e.2.island == isl && (e.2.running || e.2.isNode)) && ((islandAt s isl).graphs.all fun e => graphFormed e.2 == 0)
/-- R36, R410: system software may lend the cluster: its real-time island is idle, and it holds no context. -/
def mayLend (s : State) (cl isl : Nat) : Bool := match ownerOf s cl with
  | none => false
  | some o => o != isl && islClass (islandAt s o) == 0 && decide (0 < islClass (islandAt s isl)) && islandIdle s o &&
      (clusterAt s cl).lent.isNone && (clusterAt s cl).saved.isNone &&
      !(s.groups.any fun e => e.2.core / 8 == cl)
/-- R35, R36, R408: groups of the island may start on the cluster. -/
def clusterOpen (s : State) (isl cl : Nat) : Bool :=
  let c := clusterAt s cl
  c.reclaim.isNone && (match c.lent with
    | some x => x == isl
    | none => ownsCluster s isl cl || mayLend s cl isl)
def canHost (s : State) (isl : Nat) (b : List Nat) (core : Nat) : Bool :=
  decide (core < 256) && islValid (islandAt s isl) && clusterOpen s isl (core / 8) && coreFits s b core

/-! Order (R37, R240, R340). -/
def launchWaits (l : Launch) : Bool := !l.isNode && l.running && !l.fault && decide (l.next < launchTotal l)
/-- R210: the read of a node's block waits for a line that an engine owns or a commit locks. -/
def nodeHeld (s : State) (isl : Nat) (g : Graph) (n : Nat) : Bool := hubHeld s isl (g.nodes.getD n (0, 0, 0)).1 128
/-- The block of a node, and whether it can serve. -/
def nodeBlock (s : State) (isl : Nat) (g : Graph) (n : Nat) : State × Option (List Nat) :=
  let a := (g.nodes.getD n (0, 0, 0)).1
  if a % 128 ≠ 0 then (s, none)
  else match hubRead s isl a 128 with
    | (s1, none) => (s1, none)
    | (s1, some b) => (s1, if nodeBlockGood b (hasQueue (islandAt s isl)) (islPrivQ (islandAt s isl)) then some b else none)
/-- Classes of the formed batches of an island, with whether their graph has priority. -/
def batchesWaiting (s : State) (isl : Nat) : List (Nat × Bool) := (islandAt s isl).graphs.flatMap fun e =>
  (List.range e.2.lists.length).filterMap fun n =>
    if (e.2.lists.getD n {}).formed.isEmpty || nodeHeld s isl e.2 n then none else (nodeBlock s isl e.2 n).2.map fun b => (blClass b, hiPriority e.2)
/-- R240: a group of a higher class of the island waits. -/
def higherWaits (s : State) (isl cls : Nat) : Bool :=
  (s.launches.any fun e => e.2.island == isl && decide (e.2.cls < cls) && launchWaits e.2) ||
    (batchesWaiting s isl).any fun p => decide (p.1 < cls)
/-- R340: a formed batch of a graph with priority waits in this class. -/
def priorityWaits (s : State) (isl cls : Nat) : Bool := (batchesWaiting s isl).any fun p => p.1 == cls && p.2
/-! Making a group resident. -/
/-- R391: the counters of a core on which no wave has been resident: its slots have had no holder on any clock. -/
def vacantStalls (s : State) : Sparse Nat := [8, 9, 10, 11].foldl (fun m n => spSet 0 m n ((s.dev.cycle - s.dev.bootCycle) % 2 ^ 64)) []
/-- R30, R83: the records of a core, its quarters and its cluster are listed. -/
def listCore (s : State) (core : Nat) : State :=
  let s1 := (List.range 4).foldl (fun s q =>
    let k := core * 4 + q
    if (tbGet? s.quarters k).isSome then s else putQuarter s k { slots := List.replicate 8 none, accs := List.replicate 4 {} }) s
  let s2 := if (tbGet? s1.cores core).isSome then s1 else putCore s1 core { stalls := vacantStalls s }
  if (tbGet? s2.clusters (core / 8)).isSome then s2 else putCluster s2 (core / 8) {}
/-- What distinguishes a group that is placed. -/
structure NewGroup where
  launch : Nat
  core : Nat
  index : Nat
  /-- R358: the index that its backing stores follow. -/
  store : Nat
  x : Nat
  y : Nat
  z : Nat
  member : Nat := 0
  atoll : Nat := 1
  task : Option NodeTask := none
  /-- R341: s4 of each wave, and its entry where the record names one. -/
  recs : List (Nat × Nat) := []
  bare : Bool := false
  deriving DecidableEq, Repr
/-- R63: the scalars that a wave starts with. -/
def firstScalars (b : List Nat) (g : NewGroup) (p : WavePlan) : Sparse Scalar :=
  let put (m : Sparse Scalar) (r v : Nat) : Sparse Scalar := spSet 0 m r (BitVec.ofNat 64 v)
  put (put (put (put [] 1 (blArg b)) 2 (g.x + g.y * 2 ^ 21 + g.z * 2 ^ 42)) 3 (p.num + p.role * 2 ^ 8)) 4 (g.recs.getD p.num (0, 0)).1
/-- R31, R63, R83, R98, R358: a wave as it starts. -/
def newWave (b : List Nat) (g : NewGroup) (id now : Nat) (p : WavePlan) : Wave :=
  let w := blWidth b
  let entry := (g.recs.getD p.num (0, 0)).2
  let store := blBstore b + (g.store * waveTotal b + p.num) * blBsize b
  { group := id, quarter := g.core * 4 + p.quarter, num := p.num, role := p.role, width := w,
    regs := { sca := firstScalars b g p },
    win := { rows := p.rows, records := [{}], bstore := store, bsize := blBsize b, own := store, ownSize := blBsize b, bare := g.bare },
    ctl := { splits := [{ valid := true, pc := if entry = 0 then p.entry else entry, lanes := maskLow w }, {}, {}, {}] },
    evt := { trapvec := blTrapvec b }, tim := { age := now, ready := true } }
/-- R85: the accumulator slots of a quarter pass to a group. -/
def grantAccs (core q id : Nat) (s : State) : State :=
  putQuarter s (core * 4 + q) { quarterAt s (core * 4 + q) with accs := List.replicate 4 {}, accHolder := some id, queue := [], feed := [], line := [] }
/-- R165: the scratchpad of a group is zero at residency. -/
def zeroSpad (s : State) (core lo hi : Nat) : State :=
  let c := coreAt s core
  putCore s core { c with spad := spKeep (fun k => decide (k < lo) || decide (hi ≤ k)) c.spad,
                          spadPoison := c.spadPoison.filter fun w => decide (4 * w < lo) || decide (hi ≤ 4 * w) }
def addWaves (b : List Nat) (g : NewGroup) (id : Nat) : List WavePlan → State → State
  | [], s => s
  | p :: t, s => addWaves b g id t (putWave { s with nextId := s.nextId + 1 } s.nextId (newWave b g id s.dev.cycle p))
/-- R30: the group becomes resident, and its waves start together; its start is an acquire (R337). What ended waves have left on the core is gone. -/
def addGroup (b : List Nat) (g : NewGroup) (s : State) : State :=
  let s0 := listCore s g.core
  let id := s0.nextId
  let plans := wavePlans b
  let base := (spadBase s0 g.core (blScratch b)).getD 0
  let s1 := invalidateClean (zeroSpad s0 g.core (base * 128) ((base + blScratch b) * 128)) g.core
  let s2 := if blAcc b then (List.range 4).foldl (fun s q => if wavesOn b q = 0 then s else grantAccs g.core q id s) s1 else s1
  let gr : Group :=
    { launch := g.launch, core := g.core, index := g.index, gx := g.x, gy := g.y, gz := g.z, base := base, grant := blScratch b,
      limit := blScratch b, phases := List.replicate 16 false, waves := (List.range plans.length).map fun k => id + 1 + k, order := id,
      member := g.member, atoll := g.atoll, node := g.task }
  addWaves b g id plans (putGroup { s2 with nextId := id + 1, ended := s2.ended.filter fun e => coreOf e.2 != g.core } id gr)
/-- R36: the cluster counts as lent once a group of another island starts on it. -/
def noteLent (s : State) (isl cl : Nat) : State :=
  if ownsCluster s isl cl then s else putCluster s cl { clusterAt s cl with lent := some isl }

/-! Groups of launches (R22, R23, R240 to R242). -/
def groupOfIndex (l : Launch) (id core n : Nat) : NewGroup :=
  { launch := id, core := core, index := n, store := n, bare := l.bare, x := n % lbX l, y := n / lbX l % lbY l, z := n / (lbX l * lbY l) }
/-- R16, R241: the die that SCRN asks for. -/
def screenDie (g : NewGroup) : Nat := g.x % 2 + 2 * (g.y % 2)
/-- R23, R30, R241: the members of the next atoll fit on the cores from `core` on. -/
def launchFits (s : State) (l : Launch) (id core : Nat) : Bool :=
  let n := blAtoll l.block
  decide (core % 8 + n ≤ 8) && (List.range n).all fun k =>
    canHost s l.island l.block (core + k) && (!blScrn l.block || (core + k) / 64 == screenDie (groupOfIndex l id (core + k) (l.next + k)))
/-- R240: HEAD moves past the entry when the last group of its last instance has become resident. -/
def passEntry (s : State) (id : Nat) : State :=
  let l := launchAt s id
  let last := !blRt l.block || (l.inst + 1 == blRepeat l.block)
  if !l.headMoved && launchTotal l ≤ l.next && last then moveHead (putLaunch s id { l with headMoved := true }) l.island l.cls else s
/-- R243: release instances are placed by deadline, then by island, then by entry; an entry read earlier has the lower handle. -/
def placeKey (e : Nat × Launch) : Nat := (e.2.deadline * 8 + e.2.island) * 2 ^ 64 + e.1
/-- R243: a real-time instance whose groups come first: one of the same island, or one that has room now. -/
def deadlineWaits (s : State) (id : Nat) (l : Launch) : Bool :=
  blRt l.block && !l.isNode && s.launches.any fun e => blRt e.2.block && launchWaits e.2 && decide (placeKey e < placeKey (id, l)) &&
    (e.2.island == l.island || (List.range 256).any (launchFits s e.2 e.1))
def placeLaunch (s : State) (id core : Nat) (l : Launch) : State :=
  let n := blAtoll l.block
  let s1 := (List.range n).foldl (fun s k =>
    addGroup l.block { groupOfIndex l id (core + k) (l.next + k) with member := k, atoll := n } s) (noteLent s l.island (core / 8))
  passEntry (putLaunch s1 id { l with next := l.next + n, resident := l.resident + n }) id

/-! Batches (R341, R440). -/
def recEntry (r : List Nat) : Nat := recGet r 0 8
def entryBad (r : List Nat) : Bool := recEntry r % 4 != 0 || bitsOf (recEntry r) 57 7 != 0
/-- R341: residency indices that resident groups of the block hold. -/
def heldIndices (s : State) (isl addr : Nat) : List Nat := s.groups.filterMap fun e => match e.2.node with
  | some t => if (launchAt s e.2.launch).island = isl ∧ (launchAt s e.2.launch).addr = addr then some t.res else none
  | none => none
def freeIndex (s : State) (isl addr X : Nat) : Option Nat :=
  let h := heldIndices s isl addr
  (List.range (min X (h.length + 1))).find? fun r => !h.contains r
def dropBatch (s : State) (isl gid n : Nat) (g : Graph) : State := putGraph s isl gid (mapList n (fun l => { l with formed := l.formed.drop 1 }) g)
/-- R341, R345: the batch becomes a faulted task. -/
def parkBatch (s : State) (isl gid n : Nat) (g : Graph) (x : Batch) : State :=
  let s1 := dropBatch s isl gid n g
  let i := islandAt s1 isl
  graphCheck isl (putIsland s1 isl { i with parkQ := i.parkQ ++ [{ graph := gid, node := n, code := 0x24, blocks := x.blocks }] }) gid
def placeBatch (s : State) (isl gid n core : Nat) (g : Graph) (x : Batch) (b : List Nat) (r : Nat) : State :=
  let addr := (g.nodes.getD n (0, 0, 0)).1
  let l : Launch := { island := isl, cls := blClass b, block := b, addr := addr, next := 1, resident := 1, isNode := true, bare := g.bare }
  let s1 := noteLent (dropBatch s isl gid n g) isl (core / 8)
  let s2 := putLaunch { s1 with nextId := s1.nextId + 1 } s1.nextId l
  addGroup b
    { launch := s1.nextId, core := core, index := x.num, store := r, bare := g.bare, x := x.num % 2 ^ 21, y := n, z := gid,
      task := some { graph := gid, node := n, batch := x.num, res := r, blocks := x.blocks },
      recs := x.blocks.map fun k => (blockAddr g k.1, recEntry k.2) } s2
/-- GROUP_RESIDENCY (R30, R37, R240 to R242, R340, R341). -/
def execGroupResidency (what : Placing) (core : Nat) (s : State) : Result' := match what with
  | .launch id => match tbGet? s.launches id with
    | none => event s
    | some l =>
      if launchWaits l && !higherWaits s l.island l.cls && !priorityWaits s l.island l.cls && !deadlineWaits s id l && launchFits s l id core then
        event (placeLaunch s id core l)
      else event s
  | .batch isl gid n => match graphOf s isl gid with
    | none => event s
    | some g => match (g.lists.getD n {}).formed with
      | [] => event s
      | x :: _ => if nodeHeld s isl g n then event s else match nodeBlock s isl g n with
        | (s, none) => event (parkBatch s isl gid n g x)
        | (s, some b) =>
          if decide (waveTotal b < x.blocks.length) || x.blocks.any (fun k => entryBad k.2) then event (parkBatch s isl gid n g x)
          else match freeIndex s isl (g.nodes.getD n (0, 0, 0)).1 (blX b) with
            | none => event s
            | some r =>
              if !higherWaits s isl (blClass b) && (hiPriority g || !priorityWaits s isl (blClass b)) && canHost s isl b core then
                event (placeBatch s isl gid n core g x b r)
              else event s

/-! Moves (R242). -/
def groupWaves (s : State) (g : Nat) : List (Nat × Wave) := s.waves.filter fun e => e.2.group == g
/-- R395, R345: the group has been stopped by a fault. -/
def groupFaulted (s : State) (g : Nat) : Bool :=
  (launchAt s (groupAt s g).launch).fault || ((groupAt s g).node.elim false fun t => t.parked)
/-- R242, R295, R236: nothing of the group's waves is under way in an engine. Rows of a faulted group that q2 has no room for are dropped
(log 28). -/
def enginesIdle (s : State) (g : Nat) : Bool :=
  let gr := groupAt s g
  let c := coreAt s gr.core
  !(c.pipe.any fun j => gr.waves.contains j.wave && (j.res != 0 || (!j.rows.isEmpty && !groupFaulted s g))) &&
    ((allCopies s).all fun d => copyEnded d || !(gr.waves.contains d.wave || d.dests.contains g))
/-- R242: an atoll of the island waits, and no cluster has adjacent cores with room for it. -/
def atollStuck (s : State) (isl : Nat) : Bool := s.launches.any fun e =>
  e.2.island == isl && decide (1 < blAtoll e.2.block) && launchWaits e.2 && !((List.range 256).any (launchFits s e.2 e.1))
/-- R242: a group that may move. -/
def mayMove (s : State) (g : Nat) : Bool :=
  let gr := groupAt s g
  let l := launchAt s gr.launch
  (tbGet? s.groups g).isSome && gr.atoll == 1 && l.cls != 0 && !gr.away && (clusterAt s (gr.core / 8)).reclaim.isNone && atollStuck s l.island
/-- R242, R329: results, engine commands, tile-pipe work and rays of the group are complete. -/
def moveQuiet (s : State) (g : Nat) : Bool :=
  let gr := groupAt s g
  enginesIdle s g && !((coreAt s gr.core).pipe.any fun j => gr.waves.contains j.wave) && !rayBusy gr &&
    ((groupWaves s g).all fun e => e.2.out.isEmpty && e.2.commits == 0 && !((quarterAt s e.2.quarter).queue.any fun m => m.wave == e.1))
/-- R242: the group may move now. -/
def movable (s : State) (g : Nat) : Bool := mayMove s g && moveQuiet s g
/-- Whether what the group holds fits on another core. -/
def moveFits (s : State) (g core : Nat) : Bool :=
  let gr := groupAt s g
  let b := (launchAt s gr.launch).block
  core != gr.core && core / 8 == gr.core / 8 && (clusterAt s (core / 8)).reclaim.isNone && coreFits s b core
/-- The group's scratchpad, at its new base. -/
def moveSpad (s : State) (gr : Group) (core base : Nat) : State :=
  let c := coreAt s gr.core
  let lo := gr.base * 128
  let hi := lo + gr.grant * 128
  let mine := c.spad.filter fun e => decide (lo ≤ e.1) && decide (e.1 < hi)
  let bad := c.spadPoison.filter fun w => decide (lo ≤ 4 * w) && decide (4 * w < hi)
  let s1 := zeroSpad (zeroSpad s gr.core lo hi) core (base * 128) ((base + gr.grant) * 128)
  let d := coreAt s1 core
  putCore s1 core { d with spad := mine.foldl (fun m e => spSet 0 m (e.1 - lo + base * 128) e.2) d.spad,
                           spadPoison := d.spadPoison ++ bad.map fun w => w - gr.base * 32 + base * 32 }
def moveQuarter (s : State) (g old new : Nat) : State :=
  let q := quarterAt s old
  if q.accHolder = some g then
    let s1 := putQuarter s new { quarterAt s new with accs := q.accs, accHolder := some g, feed := q.feed, queue := q.queue, line := q.line }
    putQuarter s1 old { q with accs := List.replicate 4 {}, accHolder := none, feed := [], queue := [], line := [] }
  else s
/-- R242: the move itself: dirty bytes are pushed, and the context goes over. -/
def moveGroup (s : State) (g core : Nat) : State :=
  let gr := groupAt s g
  let s0 := listCore s core
  let base := (spadBase s0 core gr.grant).getD 0
  let s1 := (groupWaves s0 g).foldl (fun s e => putQuarter s e.2.quarter (vacate e.1 (quarterAt s e.2.quarter))) s0
  let s2 := invalidateClean (releasePush s1 gr.core (launchAt s gr.launch).island 5) core
  let s3 := moveSpad s2 gr core base
  let s4 := (List.range 4).foldl (fun s q => moveQuarter s g (gr.core * 4 + q) (core * 4 + q)) s3
  let mine := (coreAt s4 gr.core).copies.filter fun c => gr.waves.contains c.wave
  let s5 := setCopies s4 gr.core ((coreAt s4 gr.core).copies.filter fun c => !gr.waves.contains c.wave)
  let s6 := setCopies s5 core ((coreAt s5 core).copies ++ mine)
  let s7 : State := { s6 with
    nextId := s6.nextId + 1
    waves := tbMap (fun _ w =>
      if w.group = g then { w with quarter := core * 4 + w.quarter % 4, tim := { w.tim with age := s.dev.cycle } } else w) s6.waves }
  let place (x : Nat × Nat) : Nat × Nat := (core * 4 + x.1 % 4, x.2)
  putGroup s7 g { gr with core := core, base := base, order := s6.nextId, moving := none,
                          node := gr.node.map fun t => { t with stopped := t.stopped.map place } }
/-- ATOLL_GROUP_MOVE (R242): the waves halt until what is outstanding is complete; then the group moves. A move that no atoll needs any more is
given up. -/
def execAtollGroupMove (g core : Nat) (s : State) : Result' := match tbGet? s.groups g with
  | none => event s
  | some gr =>
    if movable s g && moveFits s g core then event (moveGroup s g core)
    else event (putGroup s g { gr with moving := if mayMove s g && moveFits s g core then some core else none })

/-! The end of a group (R295, R341, R360). -/
/-- The command at the head of a queue can never run, now that the group's waves have been stopped: an MMAQ that nothing feeds, or an MMAX whose
partners have gone (log 28). -/
def queueStuck (s : State) (k : Nat) : Bool := match (quarterAt s k).queue with
  | [] => true
  | m :: _ =>
    (m.op == .mmaq && m.started && (quarterAt s k).feed.isEmpty &&
      !((coreAt s (k / 4)).pipe.any fun j => j.isFeed && j.quarter == k && !j.rows.isEmpty)) ||
      (m.op == .mmax && m.meet.isEmpty)
def heldQuarters (s : State) (g : Nat) : List Nat := (s.quarters.filter fun e => e.2.accHolder == some g).map (·.1)
/-- R345, R404: what the fault of a group still waits for: its control block, or room in q4 for the event of its launch. -/
def faultOpen (s : State) (g : Nat) : Bool :=
  let l := launchAt s (groupAt s g).launch
  let i := islandAt s l.island
  (i.parkQ.any fun t => t.group == some g) || (l.fault && i.q4wait.any fun r => r.kind == 12 && r.addr == l.addr)
/-- R209, R211, R360: the stores of the group's waves are performed, and what they have poisoned is reported. -/
def storesDone (s : State) (g : Nat) : Bool :=
  let gr := groupAt s g
  !(s.dev.commits.any fun k => gr.waves.contains k.wave) && !(s.dev.unreported.any fun p => p.2 == (launchAt s gr.launch).island)
/-- R295, R254, R360: every wave has ended, every command has settled, and every store is performed. -/
def groupOver (s : State) (g : Nat) : Bool :=
  (liveWaves s g).isEmpty && enginesIdle s g && !faultOpen s g && storesDone s g &&
    (heldQuarters s g).all fun k => (quarterAt s k).queue.isEmpty || (groupFaulted s g && queueStuck s k)
/-- R98: a wave that has ended leaves nothing that can be relied on in its backing store: the bytes of each page of it become free values. -/
def loseStore (isl : Nat) (w : Wave) (s : State) : State :=
  let first := w.win.own / 4096
  let page (s : State) (k : Nat) : State :=
    let lo := max w.win.own (4096 * (first + k))
    let n := min (w.win.own + w.win.ownSize) (4096 * (first + k) + 4096) - lo
    match (resolveGlobal s (coreOf w) isl 0 true 1 lo).2 with
    | .mem pa _ => putDev { s with free := s.free + 1 }
        { s.dev with veils := { base := pa, size := n, key := 2 ^ 40 + s.free } :: s.dev.veils.filter fun v => v.base != pa || v.size != n }
    | _ => s
  (List.range ((w.win.own % 4096 + w.win.ownSize + 4095) / 4096)).foldl page s
def loseStores (g : Nat) (s : State) : State :=
  (groupAt s g).waves.foldl (fun t k => ((tbGet? s.ended k).map fun w => loseStore (launchAt s (groupAt s g).launch).island w t).getD t) s
/-- What the group held on its core is freed. Commands that have failed stay where another group's ring still holds the failure (R288). -/
def dropGroup (s : State) (g : Nat) : State :=
  let gr := groupAt s g
  let s1 := (heldQuarters s g).foldl (fun s k =>
    putQuarter s k { quarterAt s k with accs := List.replicate 4 {}, accHolder := none, queue := [], feed := [], line := [] }) s
  let told (d : CopyCmd) : CopyCmd := if gr.waves.contains d.wave then { d with told := true } else d
  let clean (c : Core) : Core := { c with copies := c.copies.map told, pipe := c.pipe.filter fun j => !gr.waves.contains j.wave }
  let s2 : State := { s1 with cores := tbMap (fun _ c => clean c) s1.cores }
  let isl := (launchAt s gr.launch).island
  let s3 := if gr.away then pushSlice s2 gr.core isl else releasePush s2 gr.core isl 6
  let s4 := loseStores g s3
  sweepCopies { s4 with groups := tbErase s4.groups g }
/-- R360: the completion word. -/
def completionWord (l : Launch) : Nat := (l.inst + 1) % 2 ^ 32 + b2n (l.fault || l.recorded) * 2 ^ 62 + b2n l.late * 2 ^ 63
/-- R360: the completion word, then the interrupt. -/
def signalEnd (s : State) (l : Launch) : State :=
  let s1 := if blCompl l.block = 0 then s else hubWrite s l.island (blCompl l.block) (leBytes 8 (completionWord l))
  if bitOf (blMsi l.block) 15 then putDev s1 { s1.dev with msix := s1.dev.msix ++ [bitsOf (blMsi l.block) 0 11] } else s1
def endLaunch (s : State) (id : Nat) : State :=
  let l := launchAt s id
  let s1 := if l.headMoved then s else moveHead s l.island l.cls
  { s1 with launches := tbErase s1.launches id }
/-- R243: the deferred instance starts, with one overrun event. -/
def startDeferred (s : State) (id : Nat) (l : Launch) : State :=
  placeEvent (putLaunch s id (startInstance (l.released - 1) l)) l.island { kind := 6, addr := l.addr, aux := l.merged }
/-- R243, R360: an instance, or an ordinary launch, has ended. -/
def endInstance (s : State) (id : Nat) : State :=
  let l := launchAt s id
  let s1 := signalEnd s l
  if !blRt l.block then endLaunch s1 id
  else if l.merged ≠ 0 then startDeferred s1 id l
  else if l.released = blRepeat l.block then endLaunch s1 id
  else putLaunch s1 id { l with running := false }
/-- R408: a cluster under reclaim whose last group has ended is free. -/
def drainedCluster (s : State) (cl : Nat) : State :=
  let c := clusterAt s cl
  if c.reclaim.isSome && !(s.groups.any fun e => e.2.core / 8 == cl && !e.2.away) then
    putCluster s cl { c with lent := none, reclaim := none }
  else s
/-- GROUP_END (R295, R341, R346, R360). -/
def execGroupEnd (g : Nat) (s : State) : Result' := match tbGet? s.groups g with
  | none => event s
  | some gr =>
    if !groupOver s g then event s
    else
      let l := launchAt s gr.launch
      let s1 := dropGroup s g
      let s2 := putLaunch s1 gr.launch { l with finished := l.finished + 1, resident := l.resident - 1 }
      let s3 := match gr.node with
        | some t => { freePool l.island t.graph (t.blocks.map (·.1)) s2 with launches := tbErase s2.launches gr.launch }
        | none => if launchTotal l ≤ l.next && (groupsOf s2 gr.launch).isEmpty then endInstance s2 gr.launch else s2
      event (graphSweep (drainedCluster s3 (gr.core / 8)) l.island)

end Sys2Proof.Machine
end

