-- ==== Sys2Proof/Decode.lean ====
section
/-!
DEFINITION. Decoding an instruction word (R42 to R53 orders 1 to 3) and, after it, the encoder.
The decoder is total on 32-bit words and rejects by name; the encoder writes the words of R43 and R49 to R50.
-/
namespace Sys2Proof

/-- Why a word is no instruction: the first failing check of R53 orders 1 to 3. Each is the illegal-instruction trap. -/
inductive DecodeError where
  /-- R49, R53 order 1: the opcode is reserved. -/
  | reservedOpcode (op : Nat)
  /-- R45, R48, R50 to R52, R53 order 2: a field value outside its legal set. -/
  | illegalField (op : Nat)
  /-- R47, R53 order 3: a run that crosses g31 or passes w95. -/
  | runBoundary (op : Nat)
  /-- Fewer than four bytes, or a size that is not one word (R42). -/
  | notAWord
  deriving DecidableEq, Repr

/-- The `n`-bit field of `w` that starts at bit `lo`. -/
def field (w lo n : Nat) : Nat := w / 2 ^ lo % 2 ^ n
/-- R48: the field must be zero. -/
def zero (w lo n : Nat) : Bool := field w lo n == 0
def vecAt (w lo : Nat) : VReg := Fin.ofNat 128 (w / 2 ^ lo)
def scaAt (w lo : Nat) : SReg := Fin.ofNat 64 (w / 2 ^ lo)
def eightAt (w lo : Nat) : Fin 8 := Fin.ofNat 8 (w / 2 ^ lo)
def fourAt (w lo : Nat) : Fin 4 := Fin.ofNat 4 (w / 2 ^ lo)
def bitAt (w lo : Nat) : Bool := field w lo 1 == 1
/-- R42: the opcode is in bits 30:23. -/
def opcodeOf (w : Nat) : Nat := field w 23 8
/-- R42: the switch marker is bit 31. -/
def markerOf (w : Nat) : Bool := bitAt w 31
/-- R45, R46: with k = 01 operand b is a scalar, so bit 8 is clear. -/
def bopOk (w : Nat) : Bool := !(field w 0 2 == 1) || zero w 8 1
/-- R46: the b,k operand. -/
def bopAt (w : Nat) : BOp :=
  if field w 0 2 = 0 then .vec (vecAt w 2)
  else if field w 0 2 = 1 then .sca (scaAt w 2)
  else if field w 0 2 = 2 then .xlane (vecAt w 2)
  else .quad (vecAt w 2)

/-- A field check, then the instruction. -/
def fieldsThen (ok : Bool) (i : Instr) (w : Nat) : Except DecodeError Instr :=
  if ok then .ok i else .error (.illegalField (opcodeOf w))

/-- R50, field use of AND, BFI, BFX, DOT2F, DOT4, DOT8 and others. -/
def decVVB (c : Bool → VReg → VReg → BOp → Instr) (w : Nat) : Except DecodeError Instr :=
  fieldsThen (bopOk w) (c (markerOf w) (vecAt w 16) (vecAt w 9) (bopAt w)) w
/-- R50, field use of BREV, CLZ, FABS, FCLASS, FCOSPI, FCVTI and others. -/
def decVV (c : Bool → VReg → VReg → Instr) (w : Nat) : Except DecodeError Instr :=
  fieldsThen (zero w 0 9) (c (markerOf w) (vecAt w 16) (vecAt w 9)) w
/-- R50, field use of FCMPEQ, FCMPLE, FCMPLT, FCMPUN, ICMPEQ, ICMPLE and others. -/
def decMVB (c : Bool → MReg → VReg → BOp → Instr) (w : Nat) : Except DecodeError Instr :=
  fieldsThen (zero w 19 4 && bopOk w) (c (markerOf w) (eightAt w 16) (vecAt w 9) (bopAt w)) w
/-- R50, field use of SADD, SAND, SMUL, SOR, SSEQ, SSHL and others. -/
def decSSS (c : Bool → SReg → SReg → SReg → Instr) (w : Nat) : Except DecodeError Instr :=
  fieldsThen (zero w 0 2 && zero w 22 1 && zero w 15 1 && zero w 8 1) (c (markerOf w) (scaAt w 16) (scaAt w 9) (scaAt w 2)) w
/-- R50, field use of SMOV. -/
def decSS (c : Bool → SReg → SReg → Instr) (w : Nat) : Except DecodeError Instr :=
  fieldsThen (zero w 0 9 && zero w 22 1 && zero w 15 1) (c (markerOf w) (scaAt w 16) (scaAt w 9)) w
/-- R50, field use of REDADD, REDMAX, REDMIN, VTOS. -/
def decSV (c : Bool → SReg → VReg → Instr) (w : Nat) : Except DecodeError Instr :=
  fieldsThen (zero w 0 9 && zero w 22 1) (c (markerOf w) (scaAt w 16) (vecAt w 9)) w
/-- R50, field use of FCVT. -/
def decFCVT (c : Bool → VReg → VReg → Fin 128 → Instr) (w : Nat) : Except DecodeError Instr :=
  fieldsThen (zero w 0 2) (c (markerOf w) (vecAt w 16) (vecAt w 9) (Fin.ofNat 128 (w / 2 ^ 2))) w
/-- R50, field use of MAND, MANDN, MOR, MXOR. -/
def decMMM (c : Bool → MReg → MReg → MReg → Instr) (w : Nat) : Except DecodeError Instr :=
  fieldsThen (zero w 0 2 && zero w 19 4 && zero w 12 4 && zero w 5 4) (c (markerOf w) (eightAt w 16) (eightAt w 9) (eightAt w 2)) w
/-- R50, field use of MTOS. -/
def decMTOS (c : Bool → SReg → MReg → Bool → Instr) (w : Nat) : Except DecodeError Instr :=
  fieldsThen (zero w 1 8 && zero w 22 1 && zero w 12 4) (c (markerOf w) (scaAt w 16) (eightAt w 9) (bitAt w 0)) w
/-- R50, field use of STOM. -/
def decSTOM (c : Bool → MReg → SReg → Bool → Instr) (w : Nat) : Except DecodeError Instr :=
  fieldsThen (zero w 1 8 && zero w 19 4 && zero w 15 1) (c (markerOf w) (eightAt w 16) (scaAt w 9) (bitAt w 0)) w
/-- R50, field use of MFIRST, MPOPC. -/
def decSM (c : Bool → SReg → MReg → Instr) (w : Nat) : Except DecodeError Instr :=
  fieldsThen (zero w 0 9 && zero w 22 1 && zero w 12 4) (c (markerOf w) (scaAt w 16) (eightAt w 9)) w
/-- R50, field use of SHFL. -/
def decVVV (c : Bool → VReg → VReg → VReg → Instr) (w : Nat) : Except DecodeError Instr :=
  fieldsThen (zero w 0 2) (c (markerOf w) (vecAt w 16) (vecAt w 9) (vecAt w 2)) w
/-- R50, field use of SHFLX. -/
def decVVS (c : Bool → VReg → VReg → SReg → Instr) (w : Nat) : Except DecodeError Instr :=
  fieldsThen (zero w 0 2 && zero w 8 1) (c (markerOf w) (vecAt w 16) (vecAt w 9) (scaAt w 2)) w
/-- R50, field use of QSWAP. -/
def decQSWAP (c : Bool → VReg → VReg → Fin 4 → Instr) (w : Nat) : Except DecodeError Instr :=
  fieldsThen (zero w 2 7) (c (markerOf w) (vecAt w 16) (vecAt w 9) (Fin.ofNat 4 (w / 2 ^ 0))) w
/-- R50, field use of BATCH, MRD, RDLINK. -/
def decSD (c : Bool → SReg → Instr) (w : Nat) : Except DecodeError Instr :=
  fieldsThen (zero w 0 16 && zero w 22 1) (c (markerOf w) (scaAt w 16)) w
/-- R50, field use of BCFG, BSCN, BWAIT, LAUNCH, MLAYOUT, MWR and others. -/
def decSA (c : Bool → SReg → Instr) (w : Nat) : Except DecodeError Instr :=
  fieldsThen (zero w 0 9 && zero w 16 7 && zero w 15 1) (c (markerOf w) (scaAt w 9)) w
/-- R50, field use of WQUIET. -/
def decSDA (c : Bool → SReg → Instr) (w : Nat) : Except DecodeError Instr :=
  fieldsThen (zero w 0 9 && zero w 22 1 && field w 9 7 == field w 16 7) (c (markerOf w) (scaAt w 16)) w
/-- R50, field use of THSET. -/
def decTHSET (c : Bool → ThReg → SReg → SReg → Instr) (w : Nat) : Except DecodeError Instr :=
  fieldsThen (zero w 0 2 && zero w 19 4 && zero w 15 1 && zero w 8 1) (c (markerOf w) (eightAt w 16) (scaAt w 9) (scaAt w 2)) w
/-- R50, field use of CALLX, JMPX. -/
def decVA (c : Bool → VReg → Instr) (w : Nat) : Except DecodeError Instr :=
  fieldsThen (zero w 0 9 && zero w 16 7) (c (markerOf w) (vecAt w 9)) w
/-- R50, field use of EXIT, MERGE, NOP, REGEND, REGION, RET and others. -/
def decNONE (c : Bool → Instr) (w : Nat) : Except DecodeError Instr :=
  fieldsThen (zero w 0 23) (c (markerOf w) ) w
/-- R50, field use of THR. -/
def decTHR (c : Bool → VReg → VReg → ThReg → Instr) (w : Nat) : Except DecodeError Instr :=
  fieldsThen (zero w 0 2 && zero w 5 4) (c (markerOf w) (vecAt w 16) (vecAt w 9) (eightAt w 2)) w
/-- R50, field use of MMA, MMAX. -/
def decAVV (c : Bool → AccReg → VReg → VReg → Instr) (w : Nat) : Except DecodeError Instr :=
  fieldsThen (zero w 0 2 && zero w 18 5) (c (markerOf w) (fourAt w 16) (vecAt w 9) (vecAt w 2)) w
/-- R50, field use of MMAQ. -/
def decAV (c : Bool → AccReg → VReg → Instr) (w : Nat) : Except DecodeError Instr :=
  fieldsThen (zero w 0 2 && zero w 9 7 && zero w 18 5) (c (markerOf w) (fourAt w 16) (vecAt w 2)) w
/-- R50, field use of MZERO. -/
def decAS (c : Bool → AccReg → SReg → Instr) (w : Nat) : Except DecodeError Instr :=
  fieldsThen (zero w 0 9 && zero w 18 5 && zero w 15 1) (c (markerOf w) (fourAt w 16) (scaAt w 9)) w
/-- R50, field use of MRDA. -/
def decVAS (c : Bool → VReg → AccReg → SReg → Instr) (w : Nat) : Except DecodeError Instr :=
  fieldsThen (zero w 0 2 && zero w 11 5 && zero w 8 1) (c (markerOf w) (vecAt w 16) (fourAt w 9) (scaAt w 2)) w
/-- R50, field use of MWRA. -/
def decAVS (c : Bool → AccReg → VReg → SReg → Instr) (w : Nat) : Except DecodeError Instr :=
  fieldsThen (zero w 0 2 && zero w 18 5 && zero w 8 1) (c (markerOf w) (fourAt w 16) (vecAt w 9) (scaAt w 2)) w
/-- R50, field use of RARRV. -/
def decSAB (c : Bool → SReg → SReg → Instr) (w : Nat) : Except DecodeError Instr :=
  fieldsThen (zero w 0 2 && zero w 16 7 && zero w 15 1 && zero w 8 1) (c (markerOf w) (scaAt w 9) (scaAt w 2)) w
/-- R50, field use of APND. -/
def decVAB (c : Bool → VReg → SReg → Instr) (w : Nat) : Except DecodeError Instr :=
  fieldsThen (zero w 0 2 && zero w 16 7 && zero w 8 1) (c (markerOf w) (vecAt w 9) (scaAt w 2)) w
/-- R50, field use of ANDI, IADDI, ORI, XORI. -/
def decVVI (c : Bool → VReg → VReg → BitVec 9 → Instr) (w : Nat) : Except DecodeError Instr :=
  fieldsThen (true) (c (markerOf w) (vecAt w 16) (vecAt w 9) (BitVec.ofNat 9 (w / 2 ^ 0))) w
/-- R50, field use of SHLI, SHRI, SRAI. -/
def decVVN (c : Bool → VReg → VReg → Fin 32 → Instr) (w : Nat) : Except DecodeError Instr :=
  fieldsThen (zero w 5 4) (c (markerOf w) (vecAt w 16) (vecAt w 9) (Fin.ofNat 32 (w / 2 ^ 0))) w
/-- R50, field use of SADDI. -/
def decSSI (c : Bool → SReg → SReg → BitVec 9 → Instr) (w : Nat) : Except DecodeError Instr :=
  fieldsThen (zero w 22 1 && zero w 15 1) (c (markerOf w) (scaAt w 16) (scaAt w 9) (BitVec.ofNat 9 (w / 2 ^ 0))) w
/-- R50, field use of PACK, UNPK. -/
def decVVE (c : Bool → VReg → VReg → Fin 8 → Instr) (w : Nat) : Except DecodeError Instr :=
  fieldsThen (zero w 3 6) (c (markerOf w) (vecAt w 16) (vecAt w 9) (Fin.ofNat 8 (w / 2 ^ 0))) w
/-- R50, field use of QBCAST. -/
def decQBC (c : Bool → VReg → VReg → Fin 4 → Instr) (w : Nat) : Except DecodeError Instr :=
  fieldsThen (zero w 2 7) (c (markerOf w) (vecAt w 16) (vecAt w 9) (Fin.ofNat 4 (w / 2 ^ 0))) w
/-- R50, field use of LDU, STU. -/
def decLDU (c : Bool → SReg → SReg → Fin 8 → BitVec 6 → Instr) (w : Nat) : Except DecodeError Instr :=
  fieldsThen (zero w 22 1 && zero w 15 1) (c (markerOf w) (scaAt w 16) (scaAt w 9) (Fin.ofNat 8 (w / 2 ^ 6)) (BitVec.ofNat 6 (w / 2 ^ 0))) w
/-- R50, field use of MOVI, MOVIH. -/
def decVI (c : Bool → VReg → BitVec 16 → Instr) (w : Nat) : Except DecodeError Instr :=
  fieldsThen (true) (c (markerOf w) (vecAt w 16) (BitVec.ofNat 16 (w / 2 ^ 0))) w
/-- R50, field use of SMOVI, SMOVK. -/
def decSI (c : Bool → SReg → BitVec 16 → Instr) (w : Nat) : Except DecodeError Instr :=
  fieldsThen (zero w 22 1) (c (markerOf w) (scaAt w 16) (BitVec.ofNat 16 (w / 2 ^ 0))) w
/-- R50, field use of MSET, MSETH, TRAP. -/
def decI (c : Bool → BitVec 16 → Instr) (w : Nat) : Except DecodeError Instr :=
  fieldsThen (zero w 16 7) (c (markerOf w) (BitVec.ofNat 16 (w / 2 ^ 0))) w
/-- R50, field use of RDSPEC. -/
def decRDSPEC (c : Bool → VReg → Fin 16 → Instr) (w : Nat) : Except DecodeError Instr :=
  fieldsThen (zero w 4 12) (c (markerOf w) (vecAt w 16) (Fin.ofNat 16 (w / 2 ^ 0))) w
/-- R50, field use of FRAME. -/
def decFRAME (c : Bool → Fin 32 → Fin 64 → Fin 32 → Instr) (w : Nat) : Except DecodeError Instr :=
  fieldsThen (zero w 16 7) (c (markerOf w) (Fin.ofNat 32 (w / 2 ^ 0)) (Fin.ofNat 64 (w / 2 ^ 5)) (Fin.ofNat 32 (w / 2 ^ 11))) w
/-- R50, field use of BAR, BARARV, BARWT. -/
def decBAR (c : Bool → Fin 16 → Instr) (w : Nat) : Except DecodeError Instr :=
  fieldsThen (zero w 4 12 && zero w 16 7) (c (markerOf w) (Fin.ofNat 16 (w / 2 ^ 0))) w
/-- R50, field use of BRALL, BRANY, IF. -/
def decMO (c : Bool → MReg → BitVec 16 → Instr) (w : Nat) : Except DecodeError Instr :=
  fieldsThen (zero w 19 4) (c (markerOf w) (eightAt w 16) (BitVec.ofNat 16 (w / 2 ^ 0))) w
/-- R50, field use of ELSE, ENDLOOP, LOOP. -/
def decO (c : Bool → BitVec 16 → Instr) (w : Nat) : Except DecodeError Instr :=
  fieldsThen (zero w 16 7) (c (markerOf w) (BitVec.ofNat 16 (w / 2 ^ 0))) w
/-- R50, field use of ENDIF. -/
def decENDIF (c : Bool → Instr) (w : Nat) : Except DecodeError Instr :=
  fieldsThen (zero w 0 23) (c (markerOf w) ) w
/-- R50, field use of BRK, CONT. -/
def decMN (c : Bool → MReg → Fin 64 → Instr) (w : Nat) : Except DecodeError Instr :=
  fieldsThen (zero w 6 10 && zero w 19 4) (c (markerOf w) (eightAt w 16) (Fin.ofNat 64 (w / 2 ^ 0))) w
/-- R50, field use of BRS. -/
def decSO (c : Bool → SReg → BitVec 16 → Instr) (w : Nat) : Except DecodeError Instr :=
  fieldsThen (zero w 22 1) (c (markerOf w) (scaAt w 16) (BitVec.ofNat 16 (w / 2 ^ 0))) w
/-- R50, field use of CALL, JMP. -/
def decJ (c : Bool → BitVec 23 → Instr) (w : Nat) : Except DecodeError Instr :=
  fieldsThen (true) (c (markerOf w) (BitVec.ofNat 23 (w / 2 ^ 0))) w
/-- R50, field use of LD, LDA, LDS, ST, STREL, STS. -/
def decMEM (c : Bool → VReg → VReg → SReg → Fin 8 → Instr) (w : Nat) : Except DecodeError Instr :=
  fieldsThen (true) (c (markerOf w) (vecAt w 16) (vecAt w 9) (scaAt w 3) (Fin.ofNat 8 (w / 2 ^ 0))) w
/-- R50, field use of ATOM, ATOMS. -/
def decATOM (c : Bool → VReg → VReg → SReg → Fin 4 → Bool → Instr) (w : Nat) : Except DecodeError Instr :=
  fieldsThen (true) (c (markerOf w) (vecAt w 16) (vecAt w 9) (scaAt w 3) (Fin.ofNat 4 (w / 2 ^ 1)) (bitAt w 0)) w
/-- R50, field use of FENCE. -/
def decFENCE (c : Bool → Fin 8 → Instr) (w : Nat) : Except DecodeError Instr :=
  fieldsThen (zero w 3 20) (c (markerOf w) (Fin.ofNat 8 (w / 2 ^ 0))) w
/-- R50, field use of CFLUSH, CINV. -/
def decCF (c : Bool → VReg → SReg → Instr) (w : Nat) : Except DecodeError Instr :=
  fieldsThen (zero w 0 3 && zero w 16 7) (c (markerOf w) (vecAt w 9) (scaAt w 3)) w
/-- R50, field use of PREF. -/
def decPREF (c : Bool → VReg → SReg → Fin 8 → Instr) (w : Nat) : Except DecodeError Instr :=
  fieldsThen (zero w 16 7) (c (markerOf w) (vecAt w 9) (scaAt w 3) (Fin.ofNat 8 (w / 2 ^ 0))) w
/-- R50, field use of MLDB. -/
def decMLDB (c : Bool → VReg → SReg → Instr) (w : Nat) : Except DecodeError Instr :=
  fieldsThen (zero w 0 3 && zero w 9 7) (c (markerOf w) (vecAt w 16) (scaAt w 3)) w
/-- R50, field use of HAAR, IHAAR, TBIAS, TRECON. -/
def decTILE (c : Bool → VReg → VReg → SReg → Instr) (w : Nat) : Except DecodeError Instr :=
  fieldsThen (zero w 0 3) (c (markerOf w) (vecAt w 16) (vecAt w 9) (scaAt w 3)) w
/-- R50, field use of TACT. -/
def decTACT (c : Bool → VReg → VReg → SReg → Fin 8 → Instr) (w : Nat) : Except DecodeError Instr :=
  fieldsThen (true) (c (markerOf w) (vecAt w 16) (vecAt w 9) (scaAt w 3) (Fin.ofNat 8 (w / 2 ^ 0))) w
/-- R50, field use of TST. -/
def decTST (c : Bool → VReg → SReg → SReg → Fin 8 → Instr) (w : Nat) : Except DecodeError Instr :=
  fieldsThen (zero w 15 1) (c (markerOf w) (vecAt w 16) (scaAt w 9) (scaAt w 3) (Fin.ofNat 8 (w / 2 ^ 0))) w
/-- R50, field use of TLD. -/
def decTLD (c : Bool → VReg → SReg → SReg → Instr) (w : Nat) : Except DecodeError Instr :=
  fieldsThen (zero w 0 3 && zero w 15 1) (c (markerOf w) (vecAt w 16) (scaAt w 9) (scaAt w 3)) w
/-- R50, field use of TLDQ. -/
def decTLDQ (c : Bool → SReg → SReg → Instr) (w : Nat) : Except DecodeError Instr :=
  fieldsThen (zero w 0 3 && zero w 16 7 && zero w 15 1) (c (markerOf w) (scaAt w 9) (scaAt w 3)) w
/-- R50, field use of CPY. -/
def decCPY (c : Bool → SReg → SReg → SReg → Instr) (w : Nat) : Except DecodeError Instr :=
  fieldsThen (zero w 0 3 && zero w 22 1 && zero w 15 1) (c (markerOf w) (scaAt w 16) (scaAt w 9) (scaAt w 3)) w
/-- R50, field use of CPYG, CPYS. -/
def decCPYG (c : Bool → SReg → VReg → SReg → Fin 8 → Instr) (w : Nat) : Except DecodeError Instr :=
  fieldsThen (zero w 22 1) (c (markerOf w) (scaAt w 16) (vecAt w 9) (scaAt w 3) (Fin.ofNat 8 (w / 2 ^ 0))) w
/-- R50, field use of CPYB, CPYM. -/
def decCPYB (c : Bool → SReg → SReg → SReg → Fin 8 → Instr) (w : Nat) : Except DecodeError Instr :=
  fieldsThen (zero w 22 1 && zero w 15 1) (c (markerOf w) (scaAt w 16) (scaAt w 9) (scaAt w 3) (Fin.ofNat 8 (w / 2 ^ 0))) w
/-- R50, field use of QPUSH. -/
def decQPUSH (c : Bool → Fin 8 → VReg → Instr) (w : Nat) : Except DecodeError Instr :=
  fieldsThen (zero w 3 6 && zero w 16 7) (c (markerOf w) (Fin.ofNat 8 (w / 2 ^ 0)) (vecAt w 9)) w
/-- R50, field use of QPOP. -/
def decQPOP (c : Bool → VReg → Fin 8 → Instr) (w : Nat) : Except DecodeError Instr :=
  fieldsThen (zero w 3 13) (c (markerOf w) (vecAt w 16) (Fin.ofNat 8 (w / 2 ^ 0))) w
/-- R50, field use of QCNT, QPEEK. -/
def decQS (c : Bool → SReg → Fin 8 → Instr) (w : Nat) : Except DecodeError Instr :=
  fieldsThen (zero w 3 13 && zero w 22 1) (c (markerOf w) (scaAt w 16) (Fin.ofNat 8 (w / 2 ^ 0))) w
/-- R50, field use of CWRD, CWWR. -/
def decCW (c : Bool → SReg → Fin 4096 → Instr) (w : Nat) : Except DecodeError Instr :=
  fieldsThen (zero w 0 4 && zero w 22 1) (c (markerOf w) (scaAt w 16) (Fin.ofNat 4096 (w / 2 ^ 4))) w
/-- R50, field use of SPCFG, SRCFG. -/
def decF (c : Bool → SReg → Instr) (w : Nat) : Except DecodeError Instr :=
  fieldsThen (zero w 0 16 && zero w 22 1) (c (markerOf w) (scaAt w 16)) w

/-- R49, row 0x0_ of the opcode map. -/
def opcodes0 : List (Nat × (Nat → Except DecodeError Instr)) := [
  (0x01, decVVB .iadd),
  (0x02, decVVB .isub),
  (0x03, decVVB .imul),
  (0x04, decVVB .imulh),
  (0x05, decVVB .imad),
  (0x06, decVVB .imin),
  (0x07, decVVB .imax),
  (0x08, decVV .iabs),
  (0x09, decVVB .and),
  (0x0A, decVVB .or),
  (0x0B, decVVB .xor),
  (0x0C, decVVB .shl),
  (0x0D, decVVB .shr),
  (0x0E, decVVB .sra),
  (0x0F, decVVB .bfx)]
/-- R49, row 0x1_ of the opcode map. -/
def opcodes1 : List (Nat × (Nat → Except DecodeError Instr)) := [
  (0x10, decVVB .bfi),
  (0x11, decVV .popc),
  (0x12, decVV .clz),
  (0x13, decVV .brev),
  (0x14, decVVB .sel),
  (0x15, decMVB .icmpeq),
  (0x16, decMVB .icmpne),
  (0x17, decMVB .icmplt),
  (0x18, decMVB .icmple),
  (0x19, decVV .mov),
  (0x1A, decVI .movi),
  (0x1B, decVI .movih),
  (0x1C, decVVI .iaddi),
  (0x1D, decVVN .shli),
  (0x1E, decVVN .shri),
  (0x1F, decVVN .srai)]
/-- R49, row 0x2_ of the opcode map. -/
def opcodes2 : List (Nat × (Nat → Except DecodeError Instr)) := [
  (0x20, decVVI .andi),
  (0x21, decVVI .ori),
  (0x22, decVVI .xori),
  (0x28, decSSS .sadd),
  (0x29, decSSS .ssub),
  (0x2A, decSSS .smul),
  (0x2B, decSSS .sand),
  (0x2C, decSSS .sor),
  (0x2D, decSSS .sxor),
  (0x2E, decSSS .sshl),
  (0x2F, decSSS .sshr)]
/-- R49, row 0x3_ of the opcode map. -/
def opcodes3 : List (Nat × (Nat → Except DecodeError Instr)) := [
  (0x30, decSSS .ssra),
  (0x31, decSS .smov),
  (0x32, decSI .smovi),
  (0x33, decSI .smovk),
  (0x34, decSSI .saddi),
  (0x35, decSSS .sseq),
  (0x36, decSSS .sslt),
  (0x37, decSSS .ssltu),
  (0x38, decSV .vtos)]
/-- R49, row 0x4_ of the opcode map. -/
def opcodes4 : List (Nat × (Nat → Except DecodeError Instr)) := [
  (0x40, decVVB .fadd),
  (0x41, decVVB .fsub),
  (0x42, decVVB .fmul),
  (0x43, decVVB .ffma),
  (0x44, decVVB .fmin),
  (0x45, decVVB .fmax),
  (0x46, decVV .fabs),
  (0x47, decVV .fneg),
  (0x48, decMVB .fcmpeq),
  (0x49, decMVB .fcmplt),
  (0x4A, decMVB .fcmple),
  (0x4B, decMVB .fcmpun),
  (0x4C, decVV .frcp),
  (0x4D, decVV .frsq),
  (0x4E, decVV .fsqrt),
  (0x4F, decVV .fexp2)]
/-- R49, row 0x5_ of the opcode map. -/
def opcodes5 : List (Nat × (Nat → Except DecodeError Instr)) := [
  (0x50, decVV .flog2),
  (0x51, decVV .fsinpi),
  (0x52, decVV .fcospi),
  (0x53, decFCVT .fcvt),
  (0x54, decVV .icvtf),
  (0x55, decVV .fcvti),
  (0x56, decVV .fclass),
  (0x57, decVVB .fscale),
  (0x58, decVV .frnd),
  (0x59, decVVB .dot4),
  (0x5A, decVVB .dot8),
  (0x5B, decVVB .dot2f),
  (0x5C, decVVB .qscale),
  (0x5D, decVVE .pack),
  (0x5E, decVVE .unpk)]
/-- R49, row 0x6_ of the opcode map. -/
def opcodes6 : List (Nat × (Nat → Except DecodeError Instr)) := [
  (0x60, decMMM .mand),
  (0x61, decMMM .mor),
  (0x62, decMMM .mxor),
  (0x63, decMMM .mandn),
  (0x64, decMTOS .mtos),
  (0x65, decSTOM .stom),
  (0x66, decSM .mpopc),
  (0x67, decSM .mfirst),
  (0x68, decVVV .shfl),
  (0x69, decVVS .shflx),
  (0x6A, decQSWAP .qswap),
  (0x6B, decQBC .qbcast),
  (0x6C, decSV .redadd),
  (0x6D, decSV .redmin),
  (0x6E, decSV .redmax),
  (0x6F, decVV .scanadd)]
/-- R49, row 0x7_ of the opcode map. -/
def opcodes7 : List (Nat × (Nat → Except DecodeError Instr)) := [
  (0x70, decI .mset),
  (0x71, decI .mseth),
  (0x72, decSD .mrd),
  (0x73, decSA .mwr),
  (0x74, decRDSPEC .rdspec),
  (0x75, decCW .cwrd),
  (0x76, decCW .cwwr),
  (0x77, decTHSET .thset)]
/-- R49, row 0x8_ of the opcode map. -/
def opcodes8 : List (Nat × (Nat → Except DecodeError Instr)) := [
  (0x80, decMO .ifM),
  (0x81, decO .elseM),
  (0x82, decENDIF .endif),
  (0x83, decO .loop),
  (0x84, decMN .brk),
  (0x85, decMN .cont),
  (0x86, decO .endloop),
  (0x87, decJ .jmp),
  (0x88, decSO .brs),
  (0x89, decMO .brany),
  (0x8A, decMO .brall),
  (0x8B, decVA .jmpx),
  (0x8C, decNONE .merge),
  (0x8D, decNONE .exit),
  (0x8E, decNONE .nop),
  (0x8F, decNONE .yield)]
/-- R49, row 0x9_ of the opcode map. -/
def opcodes9 : List (Nat × (Nat → Except DecodeError Instr)) := [
  (0x90, decJ .call),
  (0x91, decVA .callx),
  (0x92, decNONE .ret),
  (0x93, decFRAME .frame),
  (0x94, decNONE .wflush),
  (0x95, decSD .rdlink),
  (0x96, decSA .wrlink),
  (0x97, decI .trap),
  (0x98, decNONE .tret),
  (0x99, decNONE .region),
  (0x9A, decNONE .regend),
  (0x9B, decBAR .bar),
  (0x9C, decBAR .bararv),
  (0x9D, decBAR .barwt),
  (0x9E, decSA .tmset)]
/-- R49, row 0xA_ of the opcode map. -/
def opcodesA : List (Nat × (Nat → Except DecodeError Instr)) := [
  (0xA0, decMEM .ld),
  (0xA1, decMEM .st),
  (0xA2, decMEM .lds),
  (0xA3, decMEM .sts),
  (0xA4, decLDU .ldu),
  (0xA5, decLDU .stu),
  (0xA6, decATOM .atom),
  (0xA7, decATOM .atoms),
  (0xA8, decMEM .lda),
  (0xA9, decMEM .strel),
  (0xAA, decFENCE .fence),
  (0xAB, decCF .cflush),
  (0xAC, decCF .cinv),
  (0xAD, decPREF .pref),
  (0xAE, decF .srcfg),
  (0xAF, decF .spcfg)]
/-- R49, row 0xB_ of the opcode map. -/
def opcodesB : List (Nat × (Nat → Except DecodeError Instr)) := [
  (0xB0, decTILE .haar),
  (0xB1, decTILE .ihaar),
  (0xB2, decTHR .thr),
  (0xB3, decTST .tst),
  (0xB4, decTLD .tld),
  (0xB5, decTLDQ .tldq),
  (0xB6, decTILE .tbias),
  (0xB7, decTILE .trecon),
  (0xB8, decTACT .tact)]
/-- R49, row 0xC_ of the opcode map. -/
def opcodesC : List (Nat × (Nat → Except DecodeError Instr)) := [
  (0xC0, decAVV .mma),
  (0xC1, decAVV .mmax),
  (0xC2, decAV .mmaq),
  (0xC3, decAS .mzero),
  (0xC4, decVAS .mrda),
  (0xC5, decAVS .mwra),
  (0xC6, decSA .mlayout),
  (0xC7, decMLDB .mldb),
  (0xC8, decCPY .cpy),
  (0xC9, decCPYG .cpyg),
  (0xCA, decCPYG .cpys),
  (0xCB, decCPYB .cpyb),
  (0xCC, decCPYB .cpym),
  (0xCD, decSD .batch),
  (0xCE, decSA .bwait),
  (0xCF, decSA .rnginit)]
/-- R49, row 0xD_ of the opcode map. -/
def opcodesD : List (Nat × (Nat → Except DecodeError Instr)) := [
  (0xD0, decSA .rwait),
  (0xD1, decSA .rrel),
  (0xD2, decSAB .rarrv),
  (0xD3, decQPUSH .qpush),
  (0xD4, decQPOP .qpop),
  (0xD5, decQS .qpeek),
  (0xD6, decQS .qcnt),
  (0xD7, decSA .bscn),
  (0xD8, decSA .bcfg),
  (0xD9, decVAB .apnd),
  (0xDA, decSA .tdone),
  (0xDB, decSA .launch),
  (0xDC, decSA .wlcfg),
  (0xDD, decSDA .wquiet)]

/-- R49: the opcode map; opcodes not listed are reserved. -/
def opcodeMap : List (Nat × (Nat → Except DecodeError Instr)) :=
  opcodes0 ++ opcodes1 ++ opcodes2 ++ opcodes3 ++ opcodes4 ++ opcodes5 ++ opcodes6 ++ opcodes7 ++ opcodes8 ++ opcodes9 ++ opcodesA ++ opcodesB ++ opcodesC ++ opcodesD

/-- R53 orders 1 to 3, on the 32 bits of a word. -/
def decode (w : Nat) : Except DecodeError Instr :=
  match opcodeMap.lookup (opcodeOf w) with
  | none => .error (.reservedOpcode (opcodeOf w))
  | some f =>
    match f w with
    | .error e => .error e
    | .ok i =>
      if !fieldsOk i then .error (.illegalField (opcodeOf w))
      else if !runsOk i then .error (.runBoundary (opcodeOf w))
      else .ok i

/-- R42: a word is four little-endian bytes; decoding answers the instruction and the bytes after it. -/
def decodeBytes : List Nat → Except DecodeError (Instr × List Nat)
  | b0 :: b1 :: b2 :: b3 :: rest =>
    match decode (b0 % 256 + b1 % 256 * 2 ^ 8 + b2 % 256 * 2 ^ 16 + b3 % 256 * 2 ^ 24) with
    | .ok i => .ok (i, rest)
    | .error e => .error e
  | _ => .error .notAWord

/-- The bytes of the word `w` as the hardware stores them (R42): little-endian. -/
def wordBytes (w : Nat) : List Nat :=
  [w % 256, w / 2 ^ 8 % 256, w / 2 ^ 16 % 256, w / 2 ^ 24 % 256]

/-- The instruction that the decoder reads from a table row of `nbits` bits whose bits are `w`; an event row has no bits. -/
def decodeTableWord (nbits w : Nat) : Option Instr :=
  if nbits = 0 || 32 < nbits then none
  else match decodeBytes (wordBytes (w % 2 ^ nbits)) with
    | .ok (i, _) => some i
    | .error _ => none

/-! The encoder (R43, R49, R50). -/

/-- Bits 31 and 30:23. -/
def wordBase (op : Nat) (y : Bool) : Nat := y.toNat * 2 ^ 31 + op * 2 ^ 23
/-- Bits 8:0 of a b,k operand. -/
def bopBits : BOp → Nat
  | .vec r => r.val * 4
  | .sca r => r.val * 4 + 1
  | .xlane r => r.val * 4 + 2
  | .quad r => r.val * 4 + 3

def encVVB (op : Nat) (y : Bool) (d : VReg) (a : VReg) (b : BOp) : Nat :=
  wordBase op y + d.val * 2 ^ 16 + a.val * 2 ^ 9 + bopBits b
def encVV (op : Nat) (y : Bool) (d : VReg) (a : VReg) : Nat :=
  wordBase op y + d.val * 2 ^ 16 + a.val * 2 ^ 9
def encMVB (op : Nat) (y : Bool) (d : MReg) (a : VReg) (b : BOp) : Nat :=
  wordBase op y + d.val * 2 ^ 16 + a.val * 2 ^ 9 + bopBits b
def encSSS (op : Nat) (y : Bool) (d : SReg) (a : SReg) (b : SReg) : Nat :=
  wordBase op y + d.val * 2 ^ 16 + a.val * 2 ^ 9 + b.val * 2 ^ 2
def encSS (op : Nat) (y : Bool) (d : SReg) (a : SReg) : Nat :=
  wordBase op y + d.val * 2 ^ 16 + a.val * 2 ^ 9
def encSV (op : Nat) (y : Bool) (d : SReg) (a : VReg) : Nat :=
  wordBase op y + d.val * 2 ^ 16 + a.val * 2 ^ 9
def encFCVT (op : Nat) (y : Bool) (d : VReg) (a : VReg) (ty : Fin 128) : Nat :=
  wordBase op y + d.val * 2 ^ 16 + a.val * 2 ^ 9 + ty.val * 2 ^ 2
def encMMM (op : Nat) (y : Bool) (d : MReg) (a : MReg) (b : MReg) : Nat :=
  wordBase op y + d.val * 2 ^ 16 + a.val * 2 ^ 9 + b.val * 2 ^ 2
def encMTOS (op : Nat) (y : Bool) (d : SReg) (a : MReg) (hi : Bool) : Nat :=
  wordBase op y + d.val * 2 ^ 16 + a.val * 2 ^ 9 + hi.toNat * 2 ^ 0
def encSTOM (op : Nat) (y : Bool) (d : MReg) (a : SReg) (hi : Bool) : Nat :=
  wordBase op y + d.val * 2 ^ 16 + a.val * 2 ^ 9 + hi.toNat * 2 ^ 0
def encSM (op : Nat) (y : Bool) (d : SReg) (a : MReg) : Nat :=
  wordBase op y + d.val * 2 ^ 16 + a.val * 2 ^ 9
def encVVV (op : Nat) (y : Bool) (d : VReg) (a : VReg) (b : VReg) : Nat :=
  wordBase op y + d.val * 2 ^ 16 + a.val * 2 ^ 9 + b.val * 2 ^ 2
def encVVS (op : Nat) (y : Bool) (d : VReg) (a : VReg) (b : SReg) : Nat :=
  wordBase op y + d.val * 2 ^ 16 + a.val * 2 ^ 9 + b.val * 2 ^ 2
def encQSWAP (op : Nat) (y : Bool) (d : VReg) (a : VReg) (k : Fin 4) : Nat :=
  wordBase op y + d.val * 2 ^ 16 + a.val * 2 ^ 9 + k.val * 2 ^ 0
def encSD (op : Nat) (y : Bool) (d : SReg) : Nat :=
  wordBase op y + d.val * 2 ^ 16
def encSA (op : Nat) (y : Bool) (a : SReg) : Nat :=
  wordBase op y + a.val * 2 ^ 9
def encSDA (op : Nat) (y : Bool) (d : SReg) : Nat :=
  wordBase op y + d.val * 2 ^ 16 + d.val * 2 ^ 9
def encTHSET (op : Nat) (y : Bool) (d : ThReg) (a : SReg) (b : SReg) : Nat :=
  wordBase op y + d.val * 2 ^ 16 + a.val * 2 ^ 9 + b.val * 2 ^ 2
def encVA (op : Nat) (y : Bool) (a : VReg) : Nat :=
  wordBase op y + a.val * 2 ^ 9
def encNONE (op : Nat) (y : Bool) : Nat :=
  wordBase op y
def encTHR (op : Nat) (y : Bool) (d : VReg) (a : VReg) (th : ThReg) : Nat :=
  wordBase op y + d.val * 2 ^ 16 + a.val * 2 ^ 9 + th.val * 2 ^ 2
def encAVV (op : Nat) (y : Bool) (d : AccReg) (a : VReg) (b : VReg) : Nat :=
  wordBase op y + d.val * 2 ^ 16 + a.val * 2 ^ 9 + b.val * 2 ^ 2
def encAV (op : Nat) (y : Bool) (d : AccReg) (b : VReg) : Nat :=
  wordBase op y + d.val * 2 ^ 16 + b.val * 2 ^ 2
def encAS (op : Nat) (y : Bool) (d : AccReg) (a : SReg) : Nat :=
  wordBase op y + d.val * 2 ^ 16 + a.val * 2 ^ 9
def encVAS (op : Nat) (y : Bool) (d : VReg) (a : AccReg) (b : SReg) : Nat :=
  wordBase op y + d.val * 2 ^ 16 + a.val * 2 ^ 9 + b.val * 2 ^ 2
def encAVS (op : Nat) (y : Bool) (d : AccReg) (a : VReg) (b : SReg) : Nat :=
  wordBase op y + d.val * 2 ^ 16 + a.val * 2 ^ 9 + b.val * 2 ^ 2
def encSAB (op : Nat) (y : Bool) (a : SReg) (b : SReg) : Nat :=
  wordBase op y + a.val * 2 ^ 9 + b.val * 2 ^ 2
def encVAB (op : Nat) (y : Bool) (a : VReg) (b : SReg) : Nat :=
  wordBase op y + a.val * 2 ^ 9 + b.val * 2 ^ 2
def encVVI (op : Nat) (y : Bool) (d : VReg) (a : VReg) (i : BitVec 9) : Nat :=
  wordBase op y + d.val * 2 ^ 16 + a.val * 2 ^ 9 + i.toNat * 2 ^ 0
def encVVN (op : Nat) (y : Bool) (d : VReg) (a : VReg) (n : Fin 32) : Nat :=
  wordBase op y + d.val * 2 ^ 16 + a.val * 2 ^ 9 + n.val * 2 ^ 0
def encSSI (op : Nat) (y : Bool) (d : SReg) (a : SReg) (i : BitVec 9) : Nat :=
  wordBase op y + d.val * 2 ^ 16 + a.val * 2 ^ 9 + i.toNat * 2 ^ 0
def encVVE (op : Nat) (y : Bool) (d : VReg) (a : VReg) (e : Fin 8) : Nat :=
  wordBase op y + d.val * 2 ^ 16 + a.val * 2 ^ 9 + e.val * 2 ^ 0
def encQBC (op : Nat) (y : Bool) (d : VReg) (a : VReg) (l : Fin 4) : Nat :=
  wordBase op y + d.val * 2 ^ 16 + a.val * 2 ^ 9 + l.val * 2 ^ 0
def encLDU (op : Nat) (y : Bool) (d : SReg) (a : SReg) (z : Fin 8) (i : BitVec 6) : Nat :=
  wordBase op y + d.val * 2 ^ 16 + a.val * 2 ^ 9 + z.val * 2 ^ 6 + i.toNat * 2 ^ 0
def encVI (op : Nat) (y : Bool) (d : VReg) (i : BitVec 16) : Nat :=
  wordBase op y + d.val * 2 ^ 16 + i.toNat * 2 ^ 0
def encSI (op : Nat) (y : Bool) (d : SReg) (i : BitVec 16) : Nat :=
  wordBase op y + d.val * 2 ^ 16 + i.toNat * 2 ^ 0
def encI (op : Nat) (y : Bool) (i : BitVec 16) : Nat :=
  wordBase op y + i.toNat * 2 ^ 0
def encRDSPEC (op : Nat) (y : Bool) (d : VReg) (sel : Fin 16) : Nat :=
  wordBase op y + d.val * 2 ^ 16 + sel.val * 2 ^ 0
def encFRAME (op : Nat) (y : Bool) (nin : Fin 32) (nloc : Fin 64) (nout : Fin 32) : Nat :=
  wordBase op y + nin.val * 2 ^ 0 + nloc.val * 2 ^ 5 + nout.val * 2 ^ 11
def encBAR (op : Nat) (y : Bool) (n : Fin 16) : Nat :=
  wordBase op y + n.val * 2 ^ 0
def encMO (op : Nat) (y : Bool) (m : MReg) (o : BitVec 16) : Nat :=
  wordBase op y + m.val * 2 ^ 16 + o.toNat * 2 ^ 0
def encO (op : Nat) (y : Bool) (o : BitVec 16) : Nat :=
  wordBase op y + o.toNat * 2 ^ 0
def encENDIF (op : Nat) (y : Bool) : Nat :=
  wordBase op y
def encMN (op : Nat) (y : Bool) (m : MReg) (n : Fin 64) : Nat :=
  wordBase op y + m.val * 2 ^ 16 + n.val * 2 ^ 0
def encSO (op : Nat) (y : Bool) (x : SReg) (o : BitVec 16) : Nat :=
  wordBase op y + x.val * 2 ^ 16 + o.toNat * 2 ^ 0
def encJ (op : Nat) (y : Bool) (o : BitVec 23) : Nat :=
  wordBase op y + o.toNat * 2 ^ 0
def encMEM (op : Nat) (y : Bool) (d : VReg) (a : VReg) (s : SReg) (z : Fin 8) : Nat :=
  wordBase op y + d.val * 2 ^ 16 + a.val * 2 ^ 9 + s.val * 2 ^ 3 + z.val * 2 ^ 0
def encATOM (op : Nat) (y : Bool) (d : VReg) (a : VReg) (s : SReg) (ord : Fin 4) (wide : Bool) : Nat :=
  wordBase op y + d.val * 2 ^ 16 + a.val * 2 ^ 9 + s.val * 2 ^ 3 + ord.val * 2 ^ 1 + wide.toNat * 2 ^ 0
def encFENCE (op : Nat) (y : Bool) (z : Fin 8) : Nat :=
  wordBase op y + z.val * 2 ^ 0
def encCF (op : Nat) (y : Bool) (a : VReg) (s : SReg) : Nat :=
  wordBase op y + a.val * 2 ^ 9 + s.val * 2 ^ 3
def encPREF (op : Nat) (y : Bool) (a : VReg) (s : SReg) (z : Fin 8) : Nat :=
  wordBase op y + a.val * 2 ^ 9 + s.val * 2 ^ 3 + z.val * 2 ^ 0
def encMLDB (op : Nat) (y : Bool) (d : VReg) (s : SReg) : Nat :=
  wordBase op y + d.val * 2 ^ 16 + s.val * 2 ^ 3
def encTILE (op : Nat) (y : Bool) (d : VReg) (a : VReg) (s : SReg) : Nat :=
  wordBase op y + d.val * 2 ^ 16 + a.val * 2 ^ 9 + s.val * 2 ^ 3
def encTACT (op : Nat) (y : Bool) (d : VReg) (a : VReg) (s : SReg) (fn : Fin 8) : Nat :=
  wordBase op y + d.val * 2 ^ 16 + a.val * 2 ^ 9 + s.val * 2 ^ 3 + fn.val * 2 ^ 0
def encTST (op : Nat) (y : Bool) (d : VReg) (a : SReg) (s : SReg) (th : Fin 8) : Nat :=
  wordBase op y + d.val * 2 ^ 16 + a.val * 2 ^ 9 + s.val * 2 ^ 3 + th.val * 2 ^ 0
def encTLD (op : Nat) (y : Bool) (d : VReg) (a : SReg) (s : SReg) : Nat :=
  wordBase op y + d.val * 2 ^ 16 + a.val * 2 ^ 9 + s.val * 2 ^ 3
def encTLDQ (op : Nat) (y : Bool) (a : SReg) (s : SReg) : Nat :=
  wordBase op y + a.val * 2 ^ 9 + s.val * 2 ^ 3
def encCPY (op : Nat) (y : Bool) (d : SReg) (a : SReg) (s : SReg) : Nat :=
  wordBase op y + d.val * 2 ^ 16 + a.val * 2 ^ 9 + s.val * 2 ^ 3
def encCPYG (op : Nat) (y : Bool) (d : SReg) (a : VReg) (s : SReg) (q : Fin 8) : Nat :=
  wordBase op y + d.val * 2 ^ 16 + a.val * 2 ^ 9 + s.val * 2 ^ 3 + q.val * 2 ^ 0
def encCPYB (op : Nat) (y : Bool) (d : SReg) (a : SReg) (s : SReg) (q : Fin 8) : Nat :=
  wordBase op y + d.val * 2 ^ 16 + a.val * 2 ^ 9 + s.val * 2 ^ 3 + q.val * 2 ^ 0
def encQPUSH (op : Nat) (y : Bool) (q : Fin 8) (a : VReg) : Nat :=
  wordBase op y + q.val * 2 ^ 0 + a.val * 2 ^ 9
def encQPOP (op : Nat) (y : Bool) (d : VReg) (q : Fin 8) : Nat :=
  wordBase op y + d.val * 2 ^ 16 + q.val * 2 ^ 0
def encQS (op : Nat) (y : Bool) (d : SReg) (q : Fin 8) : Nat :=
  wordBase op y + d.val * 2 ^ 16 + q.val * 2 ^ 0
def encCW (op : Nat) (y : Bool) (d : SReg) (w : Fin 4096) : Nat :=
  wordBase op y + d.val * 2 ^ 16 + w.val * 2 ^ 4
def encF (op : Nat) (y : Bool) (d : SReg) : Nat :=
  wordBase op y + d.val * 2 ^ 16

/-- The word of an instruction; an event row has none. -/
def encode : Instr → Option Nat
  | .iadd y d a b => some (encVVB 0x01 y d a b)
  | .isub y d a b => some (encVVB 0x02 y d a b)
  | .imul y d a b => some (encVVB 0x03 y d a b)
  | .imulh y d a b => some (encVVB 0x04 y d a b)
  | .imad y d a b => some (encVVB 0x05 y d a b)
  | .imin y d a b => some (encVVB 0x06 y d a b)
  | .imax y d a b => some (encVVB 0x07 y d a b)
  | .iabs y d a => some (encVV 0x08 y d a)
  | .and y d a b => some (encVVB 0x09 y d a b)
  | .or y d a b => some (encVVB 0x0A y d a b)
  | .xor y d a b => some (encVVB 0x0B y d a b)
  | .shl y d a b => some (encVVB 0x0C y d a b)
  | .shr y d a b => some (encVVB 0x0D y d a b)
  | .sra y d a b => some (encVVB 0x0E y d a b)
  | .bfx y d a b => some (encVVB 0x0F y d a b)
  | .bfi y d a b => some (encVVB 0x10 y d a b)
  | .popc y d a => some (encVV 0x11 y d a)
  | .clz y d a => some (encVV 0x12 y d a)
  | .brev y d a => some (encVV 0x13 y d a)
  | .sel y d a b => some (encVVB 0x14 y d a b)
  | .icmpeq y d a b => some (encMVB 0x15 y d a b)
  | .icmpne y d a b => some (encMVB 0x16 y d a b)
  | .icmplt y d a b => some (encMVB 0x17 y d a b)
  | .icmple y d a b => some (encMVB 0x18 y d a b)
  | .mov y d a => some (encVV 0x19 y d a)
  | .movi y d i => some (encVI 0x1A y d i)
  | .movih y d i => some (encVI 0x1B y d i)
  | .iaddi y d a i => some (encVVI 0x1C y d a i)
  | .shli y d a n => some (encVVN 0x1D y d a n)
  | .shri y d a n => some (encVVN 0x1E y d a n)
  | .srai y d a n => some (encVVN 0x1F y d a n)
  | .andi y d a i => some (encVVI 0x20 y d a i)
  | .ori y d a i => some (encVVI 0x21 y d a i)
  | .xori y d a i => some (encVVI 0x22 y d a i)
  | .sadd y d a b => some (encSSS 0x28 y d a b)
  | .ssub y d a b => some (encSSS 0x29 y d a b)
  | .smul y d a b => some (encSSS 0x2A y d a b)
  | .sand y d a b => some (encSSS 0x2B y d a b)
  | .sor y d a b => some (encSSS 0x2C y d a b)
  | .sxor y d a b => some (encSSS 0x2D y d a b)
  | .sshl y d a b => some (encSSS 0x2E y d a b)
  | .sshr y d a b => some (encSSS 0x2F y d a b)
  | .ssra y d a b => some (encSSS 0x30 y d a b)
  | .smov y d a => some (encSS 0x31 y d a)
  | .smovi y d i => some (encSI 0x32 y d i)
  | .smovk y d i => some (encSI 0x33 y d i)
  | .saddi y d a i => some (encSSI 0x34 y d a i)
  | .sseq y d a b => some (encSSS 0x35 y d a b)
  | .sslt y d a b => some (encSSS 0x36 y d a b)
  | .ssltu y d a b => some (encSSS 0x37 y d a b)
  | .vtos y d a => some (encSV 0x38 y d a)
  | .fadd y d a b => some (encVVB 0x40 y d a b)
  | .fsub y d a b => some (encVVB 0x41 y d a b)
  | .fmul y d a b => some (encVVB 0x42 y d a b)
  | .ffma y d a b => some (encVVB 0x43 y d a b)
  | .fmin y d a b => some (encVVB 0x44 y d a b)
  | .fmax y d a b => some (encVVB 0x45 y d a b)
  | .fabs y d a => some (encVV 0x46 y d a)
  | .fneg y d a => some (encVV 0x47 y d a)
  | .fcmpeq y d a b => some (encMVB 0x48 y d a b)
  | .fcmplt y d a b => some (encMVB 0x49 y d a b)
  | .fcmple y d a b => some (encMVB 0x4A y d a b)
  | .fcmpun y d a b => some (encMVB 0x4B y d a b)
  | .frcp y d a => some (encVV 0x4C y d a)
  | .frsq y d a => some (encVV 0x4D y d a)
  | .fsqrt y d a => some (encVV 0x4E y d a)
  | .fexp2 y d a => some (encVV 0x4F y d a)
  | .flog2 y d a => some (encVV 0x50 y d a)
  | .fsinpi y d a => some (encVV 0x51 y d a)
  | .fcospi y d a => some (encVV 0x52 y d a)
  | .fcvt y d a ty => some (encFCVT 0x53 y d a ty)
  | .icvtf y d a => some (encVV 0x54 y d a)
  | .fcvti y d a => some (encVV 0x55 y d a)
  | .fclass y d a => some (encVV 0x56 y d a)
  | .fscale y d a b => some (encVVB 0x57 y d a b)
  | .frnd y d a => some (encVV 0x58 y d a)
  | .dot4 y d a b => some (encVVB 0x59 y d a b)
  | .dot8 y d a b => some (encVVB 0x5A y d a b)
  | .dot2f y d a b => some (encVVB 0x5B y d a b)
  | .qscale y d a b => some (encVVB 0x5C y d a b)
  | .pack y d a e => some (encVVE 0x5D y d a e)
  | .unpk y d a e => some (encVVE 0x5E y d a e)
  | .mand y d a b => some (encMMM 0x60 y d a b)
  | .mor y d a b => some (encMMM 0x61 y d a b)
  | .mxor y d a b => some (encMMM 0x62 y d a b)
  | .mandn y d a b => some (encMMM 0x63 y d a b)
  | .mtos y d a hi => some (encMTOS 0x64 y d a hi)
  | .stom y d a hi => some (encSTOM 0x65 y d a hi)
  | .mpopc y d a => some (encSM 0x66 y d a)
  | .mfirst y d a => some (encSM 0x67 y d a)
  | .shfl y d a b => some (encVVV 0x68 y d a b)
  | .shflx y d a b => some (encVVS 0x69 y d a b)
  | .qswap y d a k => some (encQSWAP 0x6A y d a k)
  | .qbcast y d a l => some (encQBC 0x6B y d a l)
  | .redadd y d a => some (encSV 0x6C y d a)
  | .redmin y d a => some (encSV 0x6D y d a)
  | .redmax y d a => some (encSV 0x6E y d a)
  | .scanadd y d a => some (encVV 0x6F y d a)
  | .mset y i => some (encI 0x70 y i)
  | .mseth y i => some (encI 0x71 y i)
  | .mrd y d => some (encSD 0x72 y d)
  | .mwr y a => some (encSA 0x73 y a)
  | .rdspec y d sel => some (encRDSPEC 0x74 y d sel)
  | .cwrd y d w => some (encCW 0x75 y d w)
  | .cwwr y d w => some (encCW 0x76 y d w)
  | .thset y d a b => some (encTHSET 0x77 y d a b)
  | .ifM y m o => some (encMO 0x80 y m o)
  | .elseM y o => some (encO 0x81 y o)
  | .endif y => some (encENDIF 0x82 y)
  | .loop y o => some (encO 0x83 y o)
  | .brk y m n => some (encMN 0x84 y m n)
  | .cont y m n => some (encMN 0x85 y m n)
  | .endloop y o => some (encO 0x86 y o)
  | .jmp y o => some (encJ 0x87 y o)
  | .brs y x o => some (encSO 0x88 y x o)
  | .brany y m o => some (encMO 0x89 y m o)
  | .brall y m o => some (encMO 0x8A y m o)
  | .jmpx y a => some (encVA 0x8B y a)
  | .merge y => some (encNONE 0x8C y)
  | .exit y => some (encNONE 0x8D y)
  | .nop y => some (encNONE 0x8E y)
  | .yield y => some (encNONE 0x8F y)
  | .call y o => some (encJ 0x90 y o)
  | .callx y a => some (encVA 0x91 y a)
  | .ret y => some (encNONE 0x92 y)
  | .frame y nin nloc nout => some (encFRAME 0x93 y nin nloc nout)
  | .wflush y => some (encNONE 0x94 y)
  | .rdlink y d => some (encSD 0x95 y d)
  | .wrlink y a => some (encSA 0x96 y a)
  | .trap y i => some (encI 0x97 y i)
  | .tret y => some (encNONE 0x98 y)
  | .region y => some (encNONE 0x99 y)
  | .regend y => some (encNONE 0x9A y)
  | .bar y n => some (encBAR 0x9B y n)
  | .bararv y n => some (encBAR 0x9C y n)
  | .barwt y n => some (encBAR 0x9D y n)
  | .tmset y a => some (encSA 0x9E y a)
  | .ld y d a s z => some (encMEM 0xA0 y d a s z)
  | .st y d a s z => some (encMEM 0xA1 y d a s z)
  | .lds y d a s z => some (encMEM 0xA2 y d a s z)
  | .sts y d a s z => some (encMEM 0xA3 y d a s z)
  | .ldu y d a z i => some (encLDU 0xA4 y d a z i)
  | .stu y d a z i => some (encLDU 0xA5 y d a z i)
  | .atom y d a s ord wide => some (encATOM 0xA6 y d a s ord wide)
  | .atoms y d a s ord wide => some (encATOM 0xA7 y d a s ord wide)
  | .lda y d a s z => some (encMEM 0xA8 y d a s z)
  | .strel y d a s z => some (encMEM 0xA9 y d a s z)
  | .fence y z => some (encFENCE 0xAA y z)
  | .cflush y a s => some (encCF 0xAB y a s)
  | .cinv y a s => some (encCF 0xAC y a s)
  | .pref y a s z => some (encPREF 0xAD y a s z)
  | .srcfg y d => some (encF 0xAE y d)
  | .spcfg y d => some (encF 0xAF y d)
  | .haar y d a s => some (encTILE 0xB0 y d a s)
  | .ihaar y d a s => some (encTILE 0xB1 y d a s)
  | .thr y d a th => some (encTHR 0xB2 y d a th)
  | .tst y d a s th => some (encTST 0xB3 y d a s th)
  | .tld y d a s => some (encTLD 0xB4 y d a s)
  | .tldq y a s => some (encTLDQ 0xB5 y a s)
  | .tbias y d a s => some (encTILE 0xB6 y d a s)
  | .trecon y d a s => some (encTILE 0xB7 y d a s)
  | .tact y d a s fn => some (encTACT 0xB8 y d a s fn)
  | .mma y d a b => some (encAVV 0xC0 y d a b)
  | .mmax y d a b => some (encAVV 0xC1 y d a b)
  | .mmaq y d b => some (encAV 0xC2 y d b)
  | .mzero y d a => some (encAS 0xC3 y d a)
  | .mrda y d a b => some (encVAS 0xC4 y d a b)
  | .mwra y d a b => some (encAVS 0xC5 y d a b)
  | .mlayout y a => some (encSA 0xC6 y a)
  | .mldb y d s => some (encMLDB 0xC7 y d s)
  | .cpy y d a s => some (encCPY 0xC8 y d a s)
  | .cpyg y d a s q => some (encCPYG 0xC9 y d a s q)
  | .cpys y d a s q => some (encCPYG 0xCA y d a s q)
  | .cpyb y d a s q => some (encCPYB 0xCB y d a s q)
  | .cpym y d a s q => some (encCPYB 0xCC y d a s q)
  | .batch y d => some (encSD 0xCD y d)
  | .bwait y a => some (encSA 0xCE y a)
  | .rnginit y a => some (encSA 0xCF y a)
  | .rwait y a => some (encSA 0xD0 y a)
  | .rrel y a => some (encSA 0xD1 y a)
  | .rarrv y a b => some (encSAB 0xD2 y a b)
  | .qpush y q a => some (encQPUSH 0xD3 y q a)
  | .qpop y d q => some (encQPOP 0xD4 y d q)
  | .qpeek y d q => some (encQS 0xD5 y d q)
  | .qcnt y d q => some (encQS 0xD6 y d q)
  | .bscn y a => some (encSA 0xD7 y a)
  | .bcfg y a => some (encSA 0xD8 y a)
  | .apnd y a b => some (encVAB 0xD9 y a b)
  | .tdone y a => some (encSA 0xDA y a)
  | .launch y a => some (encSA 0xDB y a)
  | .wlcfg y a => some (encSA 0xDC y a)
  | .wquiet y d => some (encSDA 0xDD y d)
  | .variableResultReturn _ _ => none
  | .slotGrant _ _ => none
  | .holdCountDisplace _ => none
  | .classDisplace _ => none
  | .spinQuantumExpiry _ => none
  | .mergeWaitExpiry _ => none
  | .leftoverRespawn _ _ => none
  | .timerFire _ => none
  | .tableWalk _ _ _ _ _ => none
  | .replicatedCommit _ => none
  | .replicatedStall _ => none
  | .poisonedWrite _ => none
  | .impreciseEvent _ _ => none
  | .windowSpill _ => none
  | .windowRefill _ => none
  | .windowRefillAhead _ => none
  | .copyCommandStart _ _ => none
  | .copyPiece _ _ _ => none
  | .collectiveCopyStart _ _ => none
  | .cpymHop _ _ _ => none
  | .beamAccept _ => none
  | .beamTraversalStep _ _ => none
  | .rayEmit _ _ => none
  | .fragmentEmit _ _ => none
  | .beamRetire _ _ => none
  | .tldqRowPush _ => none
  | .tileInstructionComplete _ => none
  | .matrixCommandExecute _ => none
  | .mmaqPass _ => none
  | .appendRecord _ => none
  | .batchTimerExpiry _ _ _ => none
  | .successorAppend _ _ => none
  | .taskControlBlockWrite _ => none
  | .launchDoorbellWrite _ _ _ => none
  | .launchEntryRead _ _ => none
  | .groupResidency _ _ => none
  | .atollGroupMove _ _ => none
  | .realTimeRelease _ => none
  | .deadlineMiss _ => none
  | .groupEnd _ => none
  | .clusterReclaim _ => none
  | .reclaimSwap _ => none
  | .reclaimForcedReset _ => none
  | .contextSave _ => none
  | .contextRestore _ => none
  | .faultresResolved _ _ => none
  | .faultresUnresolvable _ _ => none
  | .tlbinvPage _ _ => none
  | .tlbinvNonglobal _ => none
  | .tlbinvAll _ => none
  | .tlbinvComplete _ => none
  | .faultQueueHeadWrite _ _ => none
  | .islandTableWrite _ _ => none
  | .esctWrite _ _ => none
  | .evqWindowRead _ => none
  | .registerWrite _ _ => none
  | .seal _ => none
  | .unseal _ => none
  | .quote _ _ => none
  | .cert => none
  | .hostCxlMemAccess _ _ => none
  | .hostSnoop _ _ => none
  | .flitRetry _ => none
  | .linkDownPoison _ => none
  | .pwrctlReqRun _ => none
  | .pwrctlReqDoze _ => none
  | .pwrctlReqWatch _ => none
  | .dozeEntry => none
  | .dozeWake => none
  | .watchEntry => none
  | .watchWake _ _ => none
  | .powerOnBoot _ _ => none
  | .debugFreeze => none
  | .debugUnfreeze => none
  | .freezePin => none
  | .illegalInstruction _ => none
  | .pushesComplete _ => none
  | .peerDeviceAccess _ _ => none
  | .powerRemoval => none

end Sys2Proof
end

