-- ==== Sys2Proof/Machine/Illegal.lean ====
section
/-!
DEFINITION. Words that are no instruction (R49, R53).
-/
namespace Sys2Proof.Machine

/-- Whether a word is an instruction. -/
def isLegalWord (word : Nat) : Bool := match decode (word % 2 ^ 32) with
  | .ok _ => true
  | .error _ => false
/-- ILLEGAL_INSTRUCTION (R49, R53): the word issues and takes the illegal-instruction trap. A legal word is no such event. -/
def execIllegalInstruction (word : Nat) (s : State) : Result' :=
  if isLegalWord word then event s else issue s false { legal := false } (fun _ s => (s, .done))

end Sys2Proof.Machine
end

