-- ==== Sys2Proof/Machine/Imprecise.lean ====
section
/-!
DEFINITION. Imprecise events and rollback (22: R401, with R294, R397 and R403).
-/
namespace Sys2Proof.Machine

/-- R401: the region of the event's split was opened before the instruction issued, is still open, and the split holds its lanes. -/
def qualifies (w : Wave) (e : Imprecise) : Bool :=
  let x := getSplit w e.split
  x.valid && x.region.isOpen && decide (x.region.opened ≤ e.opened) && (e.lanes &&& ~~~ w.ctl.exited &&& ~~~ x.lanes) == 0
/-- The event belongs to an instruction that split `sp` issued in its open region. -/
def inRegion (w : Wave) (sp : Nat) (e : Imprecise) : Bool := e.split == sp && decide ((getSplit w sp).region.opened ≤ e.opened)

/-- R401: a matrix command of the split's region that has not started, or an MMAQ; an MMAX that has met has started. -/
def cancelled (wv sp opened : Nat) (m : MatCmd) : Bool := m.wave == wv && m.split == sp && decide (opened ≤ m.opened) && m.meet.isEmpty
/-- R401: these commands are cancelled. -/
def cancelMatrix (wv sp opened : Nat) (q : Quarter) : Quarter :=
  { q with
    queue := q.queue.filter fun m => !cancelled wv sp opened m
    feed := q.feed.filter fun e => !(e.cmd != 0 && e.wave == wv && e.split == sp && decide (opened ≤ e.opened)) }
/-- R401: rows of the region's TLDQs that have not been pushed are discarded. -/
def cancelRows (wv sp opened : Nat) (c : Core) : Core :=
  { c with pipe := c.pipe.map fun j =>
      { j with rows := j.rows.filter fun e => !(e.wave == wv && e.split == sp && decide (opened ≤ e.opened)) } }
/-- R397, R401: the snapshot of a split is restored; its region stays open. -/
def restoreSplit (w : Wave) (sp : Nat) : Wave :=
  let x := getSplit w sp
  let n := x.region.snap
  let w1 := cntMap n.lanes (fun i _ => spGet 0 n.counters i) 128 w
  let w2 := putSplit w1 sp { unparked x with
    mode := n.mode, frame := n.frame, leftover := n.leftover, retry := n.retry, pc := x.region.entry,
    region := { x.region with rollbacks := x.region.rollbacks + 1 } }
  { w2 with
    batch := n.batch
    ctl := if w2.ctl.wait != .no && w2.ctl.waitSplit == sp then { w2.ctl with wait := .no, markAfter := false, walked := false, srcfg := none } else w2.ctl
    evt := { w2.evt with imprecise := w2.evt.imprecise.filter (fun e => !inRegion w sp e),
                         replaying := w2.evt.replaying && !(w2.ctl.waitSplit == sp) } }
/-- R401, R405: the launch ends with a fault record of this code. -/
def endImprecise (s : State) (wv sp code addr pc : Nat) : State :=
  let w := waveAt s wv
  faultEnd s w.group { code := code, who := whoWord w sp, addr := addr, taddr := w.evt.taddr, pc := pc, lanes := w.evt.replay }
/-- R401, R403: the records of the region's events that the rollback settles. -/
def tellRegion (s : State) (wv sp : Nat) : State :=
  let w := waveAt s wv
  (w.evt.imprecise.filter (inRegion w sp)).foldl (fun s x => tellPoison s (islandOf s w) (whoWord w sp) x) s
/-- R401: a split rolls back; the fourth time its launch ends, with the address and the PC of the event. At a swap an MRDA of the region may still be
in the queue, behind a command that cannot run; it is cancelled with what it would have written (log 28). -/
def rollBack (s : State) (wv sp addr pc : Nat) : State :=
  let w := waveAt s wv
  let x := getSplit w sp
  let o := x.region.opened
  let s1 := cancelRegion (tellRegion s wv sp) wv sp o
  let gone := ((quarterAt s1 w.quarter).queue.filter fun m => cancelled wv sp o m && m.op == .mrda).map (·.res)
  let s2 := putQuarter s1 w.quarter (cancelMatrix wv sp o (quarterAt s1 w.quarter))
  let s3 := putCore s2 (coreOf w) (cancelRows wv sp o (coreAt s2 (coreOf w)))
  let s4 := onWave s3 wv fun w => { restoreSplit w sp with out := w.out.filter fun r => !gone.contains r.id }
  if x.region.rollbacks + 1 = 4 then
    endImprecise (onWave s4 wv fun w => putSplit w sp (closeRegion (getSplit w sp))) wv sp 0x23 addr pc
  else s4
/-- R401: the first pending event that can be raised now: a rollback waits for the outstanding writes. -/
def imprecisePlace (w : Wave) : Option Nat := w.evt.imprecise.findIdx? fun e => !qualifies w e || w.out.isEmpty
/-- IMPRECISE_EVENT (R401): the pending event at place `idx` of a wave is raised; a rollback waits for the outstanding writes. -/
def execImpreciseEvent (wv idx : Nat) (s : State) : Result' := match tbGet? s.waves wv with
  | none => event s
  | some w => match w.evt.imprecise[idx]? with
    | none => event s
    | some e =>
      let who := whoWord w e.split
      let isl := islandOf s w
      if qualifies w e then
        if !w.out.isEmpty then event s
        else event (settleSlots (rollBack s wv e.split e.addr e.pc) wv)
      else
        let drop (w : Wave) : Wave := { w with evt := { w.evt with imprecise := w.evt.imprecise.eraseIdx idx } }
        event (endImprecise (onWave (tellPoison s isl who e) wv drop) wv e.split e.code e.addr e.pc)

end Sys2Proof.Machine
end

