-- ==== Sys2Proof/Machine/Preempt.lean ====
section
/-!
DEFINITION. Reclaiming lent clusters (22: R407 to R411; 01: R36; 05: R120; 12: R236; 14: R254).
-/
namespace Sys2Proof.Machine

/-- The cores of a cluster. -/
def clusterCores (cl : Nat) : List Nat := (List.range 8).map fun k => 8 * cl + k
/-- R408: groups that run on a cluster. -/
def clusterGroups (s : State) (cl : Nat) : List Nat := (s.groups.filter fun e => e.2.core / 8 == cl && !e.2.away).map (·.1)
/-- R408: a launch of the real-time island owes it the cluster: an instance is released. -/
def isOwed (s : State) (isl : Nat) : Bool :=
  islClass (islandAt s isl) == 0 && (s.launches.any fun e => e.2.island == isl && !e.2.isNode && e.2.running)
/-- R408: the drain phase may begin. -/
def reclaimDue (s : State) (cl : Nat) : Bool := match (clusterAt s cl).lent, ownerOf s cl with
  | some b, some o => b != o && (clusterAt s cl).reclaim.isNone && isOwed s o
  | _, _ => false
/-- CLUSTER_RECLAIM (R408): the drain phase begins; a cluster with nothing on it is free at once. -/
def execClusterReclaim (cluster : Nat) (s : State) : Result' :=
  if reclaimDue s cluster then
    event (drainedCluster (putCluster s cluster { clusterAt s cluster with reclaim := some { start := s.dev.cycle } }) cluster)
  else event s

/-- R407: the timers of the island that reclaims. -/
def ownerIsland (s : State) (cl : Nat) : Island := ((ownerOf s cl).map (islandAt s)).getD {}
/-- R408: T1 has passed since the start. -/
def swapDue (s : State) (cl : Nat) : Bool := match (clusterAt s cl).reclaim with
  | some r => r.swap.isNone && decide (r.start + (ownerIsland s cl).t1 ≤ s.dev.cycle)
  | none => false
/-- R408: outstanding results land. -/
def landReady (s : State) (wv : Nat) : State :=
  ((waveAt s wv).out.filter (·.ready)).foldl (fun s r => landById s wv r.id) s
/-- R236: tile instructions whose results are outstanding complete; rows of a TLDQ stay. -/
def drainPipe (s : State) (core : Nat) : State :=
  (coreAt s core).pipe.foldl (fun s j =>
    if j.res = 0 then s
    else
      let s1 := landById s j.wave j.res
      let c := countJob j (coreAt s1 core)
      putCore s1 core { c with pipe := (c.pipe.map fun x => if x.res = j.res then { x with res := 0 } else x).filter fun x => x.res != 0 || !x.rows.isEmpty }) s
/-- R408: the splits of a wave with a region that has copies under way roll back. -/
def rollCopies (s : State) (wv : Nat) : State :=
  splitIds.foldl (fun s i =>
    if (tbGet? s.waves wv).isNone then s
    else
      let x := getSplit (waveAt s wv) i
      if x.region.isOpen && (allCopies s).any (fun c => c.wave == wv && c.split == i && c.opened == x.region.opened && !copyEnded c) then
        rollBack s wv i 0 x.region.entry
      else s) s
/-- R408: what the swap phase does to one core. -/
def haltCore (s : State) (core : Nat) : State :=
  let wvs := (s.waves.filter fun e => e.2.quarter / 4 == core && !(groupAt s e.2.group).away).map (·.1)
  let s1 := (List.range 4).foldl (fun s q => drainQueue (core * 4 + q) 4 s) (drainPipe s core)
  let s2 := wvs.foldl landReady s1
  let s3 := wvs.foldl rollCopies s2
  drainL1 s3 core
/-- RECLAIM_SWAP (R408): the waves halt. -/
def execReclaimSwap (cluster : Nat) (s : State) : Result' :=
  if swapDue s cluster then
    let c := clusterAt s cluster
    let r : Option Reclaim := c.reclaim.map fun r => { r with swap := some s.dev.cycle }
    event ((clusterCores cluster).foldl haltCore (putCluster s cluster { c with reclaim := r }))
  else event s

/-- Copies of a core that are not complete. -/
def openCopies (s : State) (core : Nat) : List CopyCmd := (coreAt s core).copies.filter fun c => !copyEnded c
def copiesLeft (s : State) (cl : Nat) : Bool := (clusterCores cl).any fun k => !(openCopies s k).isEmpty
/-- R408: T2 has passed since the swap phase began. -/
def resetDue (s : State) (cl : Nat) : Bool := match (clusterAt s cl).reclaim with
  | some { swap := some t, .. } => decide (t + (ownerIsland s cl).t2 ≤ s.dev.cycle) && copiesLeft s cl
  | _ => false
/-- R408: a launch with such a copy ends on all its cores, and its commands are cancelled. -/
def forceEnd (cl : Nat) (s : State) (l : Nat) : State :=
  let mine (c : CopyCmd) : Bool := c.dests.any fun g => (tbGet? s.groups g).isSome && (groupAt s g).launch == l
  let on (ks : List Nat) : List (Nat × CopyCmd) := ks.flatMap fun k => ((openCopies s k).filter mine).map fun c => (k, c)
  match on (clusterCores cl) with
  | [] => s
  | (_, c) :: _ =>
    let g := hopGroup c 0
    faultEnd ((on (s.cores.map (·.1))).foldl (fun s e => cancelCopy s e.1 e.2) s) g
      { code := 0x20, who := c.who, taddr := ((tbGet? s.waves c.wave).map (·.evt.taddr)).getD 0, pc := c.pc }
/-- RECLAIM_FORCED_RESET (R408). -/
def execReclaimForcedReset (cluster : Nat) (s : State) : Result' :=
  if resetDue s cluster then
    let ls := ((clusterGroups s cluster).map fun g => (groupAt s g).launch).eraseDups
    event (ls.foldl (forceEnd cluster) s)
  else event s

/-- R408, R178, R329: the contexts may be written: the swap phase runs, no copy is left and every ray in progress is complete. -/
def saveDue (s : State) (cl : Nat) : Bool := match (clusterAt s cl).reclaim with
  | some { swap := some _, .. } => !copiesLeft s cl && !((clusterGroups s cl).any fun g => rayBusy (groupAt s g))
  | _ => false
/-- The records of a table with these handles. -/
def tbPick {α : Type} (m : Tbl α) (ks : List Nat) : Tbl α := m.filter fun e => ks.contains e.1
def tbDrop {α : Type} (m : Tbl α) (ks : List Nat) : Tbl α := m.filter fun e => !ks.contains e.1
def clusterQuarters (cl : Nat) : List Nat := (List.range 32).map fun k => 32 * cl + k
def setAway (cl : Nat) (v : Bool) (s : State) : State :=
  { s with groups := tbMap (fun _ g => if g.core / 8 = cl then { g with away := v } else g) s.groups }
/-- What a core keeps through a swap: its counters and its TLB (R348). -/
def emptyCore (c : Core) : Core := { c with l1 := [], spad := [], spadPoison := [], pipe := [], copies := [] }
/-- CONTEXT_SAVE (R36, R408, R411): the cores are written to the shadow layer, and the cluster is free. -/
def execContextSave (cluster : Nat) (s : State) : Result' :=
  if saveDue s cluster then
    let s1 := (clusterCores cluster).foldl drainL1 s
    let c := clusterAt s1 cluster
    let ctx : Saved :=
      { island := c.lent.getD 0, clock := s.dev.cycle, quarters := tbPick s1.quarters (clusterQuarters cluster),
        cores := tbPick s1.cores (clusterCores cluster) }
    let any := !(clusterGroups s1 cluster).isEmpty
    let s2 := putCluster s1 cluster { c with lent := none, reclaim := none, saved := if any then some ctx else none }
    let s3 : State := { s2 with quarters := tbDrop s2.quarters (clusterQuarters cluster), cores := tbMap (fun k c => if k / 8 = cluster then emptyCore c else c) s2.cores }
    event (setAway cluster true s3)
  else event s

/-- R410: the real-time island has neither a released instance nor a resident group on the cluster. -/
def restoreDue (s : State) (cl : Nat) : Bool :=
  (clusterAt s cl).saved.isSome && (clusterGroups s cl).isEmpty && !((ownerOf s cl).any (isOwed s))
/-- Slots and holders whose wave or group has ended meanwhile fall free. -/
def tidyQuarter (s : State) (q : Quarter) : Quarter :=
  { q with
    slots := q.slots.map fun h => h.filter fun x => (tbGet? s.waves x.wave).isSome
    accHolder := q.accHolder.filter fun g => (tbGet? s.groups g).isSome }
def tidyCore (s : State) (now c : Core) : Core :=
  { now with spad := c.spad, spadPoison := c.spadPoison, pipe := c.pipe,
             copies := c.copies.filter fun d => d.dests.any fun g => (tbGet? s.groups g).isSome }
/-- R237, R410: ages are restated relative to the restore clock. -/
def restateAge (cl : Nat) (gone : Nat) (s : State) : State :=
  { s with waves := tbMap (fun _ w => if clusterOf w = cl then { w with tim := { w.tim with age := w.tim.age + gone } } else w) s.waves }
/-- R412: the groups of a cluster with a live wave. -/
def lostGroups (s : State) (cl : Nat) : List Nat := (clusterGroups s cl).filter fun g => !(liveWaves s g).isEmpty
/-- R402, R412: a launch with a wave in a lost context ends with a fault record of code 0x25. -/
def loseGroup (s : State) (g : Nat) : State := match liveWaves s g with
  | [] => s
  | k :: _ => faultEnd s g { code := 0x25, who := whoWord (waveAt s k) 0, taddr := (waveAt s k).evt.taddr }
/-- R410: the machine with the saved context x of a cluster back in its cores. -/
def contextBack (cluster : Nat) (x : Saved) (s : State) : State :=
  let c := clusterAt s cluster
  let s1 := (clusterCores cluster).foldl drainL1 s
  let s2 := putCluster s1 cluster { clusterAt s1 cluster with lent := if c.lent.isSome then c.lent else some x.island, saved := none }
  let s3 := x.quarters.foldl (fun s e => putQuarter s e.1 (tidyQuarter s e.2)) s2
  let s4 := x.cores.foldl (fun s e => putCore s e.1 (tidyCore s (coreAt s e.1) e.2)) s3
  setAway cluster false (restateAge cluster (s.dev.cycle - x.clock) s4)
/-- CONTEXT_RESTORE (R410, R412). -/
def execContextRestore (cluster : Nat) (s : State) : Result' := match (clusterAt s cluster).saved with
  | none => event s
  | some x =>
    if restoreDue s cluster then
      let t := contextBack cluster x s
      event (if x.bad then (lostGroups t cluster).foldl loseGroup t else t)
    else event s

end Sys2Proof.Machine
end

