-- ==== Sys2Proof/Machine/WindowEngine.lean ====
section
/-!
DEFINITION. The window spill engine (05: R110 to R116).
-/
namespace Sys2Proof.Machine

/-- R120: a wave whose context is not saved. -/
def runningWave (s : State) (wv : Nat) : Option Wave := (tbGet? s.waves wv).filter fun w => !(groupAt s w.group).away

/-- R1, R351: the engine acts with privilege for the backing store of its own wave only: for a run within the range that its launch block gave the
wave. A range that an unprivileged wave chose gives privilege for BS pages alone, and none where another wave's range meets it. -/
def spillAsker (s : State) (wv va n : Nat) : Asker :=
  let v := (waveAt s wv).win
  let q := askerOf s wv
  let other : Bool := s.waves.any fun e => e.1 != wv && touches va n e.2.win.own e.2.win.ownSize
  { q with priv := q.priv || (decide (v.own ≤ va) && decide (va + n ≤ v.own + v.ownSize) && !(v.bare && other)), bare := v.bare && !q.priv }

/-- R113: the header word. -/
def headerWord (start ext : Nat) : Nat := start % 2 ^ 25 * 2 ^ 7 + ext % 2 ^ 7
/-- R113: the rows of a record in ascending position, lane 0 first, then the header. -/
def spillImage (w : Wave) (start ext : Nat) : List Nat :=
  ((List.range ext).flatMap fun k => (List.range w.width).flatMap fun i => leBytes 4 (rowGet w (ringRow w (start + k)) i).toNat) ++
    leBytes 4 (headerWord start ext)

/-- R116, R441: a transfer that fails ends with no effect; a page fault waits for system software, any other failure is final. The record names
the split that is parked on the window, else the one that issued last, and its PC: the spec names none (DESIGN CHOICE, log 31). While the other
transfer of the wave is blocked, a failing one leaves no record of its own; it is made again. -/
def serviceFault (s : State) (wv : Nat) (op : Transfer) (f : RunFail) : State :=
  if (waveAt s wv).win.service ≠ .clear then s else
  let access := match op with
    | .spill => 1
    | .refill => 0
  let w := waveAt s wv
  let setService (v : Service) (w : Wave) : Wave := { w with win := { w.win with service := v } }
  match f with
  | .absent a l =>
    let sp := (roomParks w).headD w.ctl.lastSplit
    let (s1, slot) := placeWaiting s (islandOf s w)
      { code := 0x08, who := whoWord w sp, addr := a, pc := (getSplit w sp).pc, trans := transWord 2 access 0 l, block := (launchOf s w).addr }
    onWave s1 wv (setService (.waiting op slot a))
  | .denied a r l => onWave s wv (setService (.failed op a (transWord 2 access r l)))
  | .range a => onWave s wv (setService (.failed op a 0))

def mapRecords (f : FrameRec → FrameRec) (w : Wave) : Wave := { w with win := { w.win with records := w.win.records.map f } }

/-- R109: the commits from place `n` on are spill writes. -/
def markSpills (n : Nat) (s : State) : State :=
  putDev s { s.dev with commits := s.dev.commits.take n ++ (s.dev.commits.drop n).map fun k => { k with spill := true } }
/-- R110: the record at the ring bottom is spilled. -/
def doSpill (s : State) (wv : Nat) (r : FrameRec) (e : Nat) : State :=
  let w := waveAt s wv
  let img := spillImage w r.start (e - r.start)
  let q := spillAsker s wv ((w.win.bstore + w.win.bused) % 2 ^ 64) img.length
  let (s1, xs) := locate q 1 (segsOf ((w.win.bstore + w.win.bused) % 2 ^ 64) img.length) s
  match firstBad xs with
  | some x => serviceFault s1 wv .spill (failOf x)
  | none =>
    if xs.any (segWait s1 q.core s1.nextId) then s
    else onWave (spoilPools q.isl ((w.win.bstore + w.win.bused) % 2 ^ 64) img.length (markSpills s1.dev.commits.length (engineWriteAll wv q xs img s1))) wv fun w =>
      let w1 := mapRecords (fun x => if x.start = r.start then { x with rows := e - r.start } else x) w
      { w1 with win := { w1.win with bused := w.win.bused + img.length, spills := (w.win.spills + 1) % 2 ^ 64, bottom := e } }

/-- R110: some split waits for room. -/
def wantsRoom (w : Wave) : Bool := (roomParks w).any fun i => match (getSplit w i).park.kind with
  | .room n => decide (wfree w < n)
  | _ => false
/-- WINDOW_SPILL (R110, R116): the bottom record is spilled; a dead one is released without being written. -/
def execWindowSpill (wv : Nat) (s : State) : Result' :=
  match runningWave s wv with
  | none => event s
  | some w =>
    if (wantsRoom w ∨ (wfree w < w.win.low ∧ w.win.service = .clear)) ∧ canSpill w ∧ mayStart w .spill then
      match residentRecs w with
      | [] => event s
      | (r, e) :: _ =>
        if r.live then event (checkWindow (doSpill s wv r e) wv)
        else event (checkWindow (onWave s wv fun w =>
          { w with win := { w.win with records := w.win.records.filter fun x => x.start != r.start, bottom := e } }) wv)
    else event s

/-- R113: the highest position below the ring bottom whose low 25 bits are `pos`. -/
def refillStart (bottom pos : Nat) : Nat := if bottom = 0 then 0 else bottom - 1 - (bottom - 1 + 2 ^ 25 - pos % 2 ^ 25) % 2 ^ 25
/-- R212, R401: the imprecise poison events of the lines that a refill reads. They belong to the split that is parked on the refill, else to the one
that issued last: the spec names none for a refill that is made ahead (DESIGN CHOICE, log 31). -/
def refillPoison (wv : Nat) (lines : List Nat) (s : State) : State :=
  onWave (if lines.isEmpty then s else { s with free := s.free + 1 }) wv fun w =>
    let sp := (opParks w .refill).headD w.ctl.lastSplit
    { w with evt := { w.evt with imprecise := w.evt.imprecise ++ lines.eraseDups.map fun a =>
      { split := sp, code := 0x12, kind := 10, addr := a, pc := (getSplit w sp).pc, lanes := liveLanes w sp, opened := w.evt.openings } } }
/-- R113, R115: the record spilled last comes back: the header says where its rows go and how many they are. -/
def doRefill (s : State) (wv : Nat) (r : FrameRec) : State :=
  let w := waveAt s wv
  let head := (w.win.bstore + (w.win.bused - 4)) % 2 ^ 64
  match readRun s (spillAsker s wv head 4) head 4 with
  | (s1, .failed f) => serviceFault s1 wv .refill f
  | (s1, .held) => s1
  | (s1, .bytes h bad) =>
    let ext := recGet h 0 4 % 2 ^ 7
    let size := recordBytes w ext
    let start := refillStart w.win.bottom (recGet h 0 4 / 2 ^ 7)
    let va := (w.win.bstore + (w.win.bused - size)) % 2 ^ 64
    match readRun s1 (spillAsker s1 wv va size) va size with
    | (s2, .failed f) => serviceFault s2 wv .refill f
    | (s2, .held) => s2
    | (s2, .bytes bytes worse) => onWave (refillPoison wv (bad ++ worse) s2) wv fun w =>
      let row (k i : Nat) : Lane := BitVec.ofNat 32 (recGet bytes (4 * (k * w.width + i)) 4)
      let w1 := (List.range ext).foldl (fun w k => writeRow w (ringRow w (start + k)) (BitVec.allOnes 128) (row k)) w
      let w2 := mapRecords (fun x => if x.start = r.start then { x with start := start, rows := 0 } else x) w1
      { w2 with win := { w2.win with bused := w.win.bused - size, refills := (w.win.refills + 1) % 2 ^ 64, bottom := start } }
/-- R110: the record spilled last comes back; one that has become dead is discarded: its bytes leave the backing store, and since no rows come
back, nothing is read, cw.refills does not count it and the ring bottom stays (DESIGN CHOICE, log 31). -/
def refillLast (s : State) (wv : Nat) : State :=
  let w := waveAt s wv
  match lastSpilled w with
  | none => s
  | some r =>
    if r.live then (if canRefill w then doRefill s wv r else s)
    else onWave s wv fun w => { w with win := { w.win with
      records := w.win.records.filter fun x => x.start != r.start, bused := w.win.bused - recordBytes w r.rows } }
/-- R110, R112: some split waits for a position below the ring bottom. -/
def wantsRefill (w : Wave) : Bool := (roomParks w).any fun i => match (getSplit w i).park.kind with
  | .refill p => decide (p < w.win.bottom)
  | _ => false
/-- WINDOW_REFILL (R110, R112, R116). -/
def execWindowRefill (wv : Nat) (s : State) : Result' :=
  match runningWave s wv with
  | none => event s
  | some w => if wantsRefill w ∧ mayStart w .refill then event (checkWindow (refillLast s wv) wv) else event s
/-- WINDOW_REFILL_AHEAD (R110): RAHI is not 0, no instruction waits, and enough rows stay free. -/
def execWindowRefillAhead (wv : Nat) (s : State) : Result' :=
  match runningWave s wv with
  | none => event s
  | some w => match lastSpilled w with
    | none => event s
    | some r =>
      if w.win.rahi ≠ 0 ∧ (roomParks w).isEmpty ∧ w.win.service = .clear ∧ r.rows + w.win.rahi ≤ wfree w then event (refillLast s wv)
      else event s

end Sys2Proof.Machine
end

