-- ==== Sys2Proof/Machine/Verdicts.lean ====
section
/-!
DEFINITION. The verdicts of system software on fault records (22: R406, with R116, R187, R195, R223, R291, R329), the head of the fault
queue (19: R362), and CWWR, opcode 0x75 (04: R91, R92).
-/
namespace Sys2Proof.Machine

/-! What a verdict does. -/
/-- R195, R351: a wave that waits at the record goes on, or takes the unresolved page-fault trap. -/
def waveVerdict (ok : Bool) (trans : Nat) (s : State) (wv : Nat) : State :=
  let w := waveAt s wv
  let go : Wave := { w with ctl := { w.ctl with wait := .no, markAfter := false }, evt := { w.evt with refetch := none } }
  if ok then putWave s wv { go with evt := match w.evt.refetch with
    | some m => { go.evt with replaying := true, replay := m }
    | none => { go.evt with replaying := w.evt.replay != 0 } }
  else
    let pc := (getSplit w w.ctl.waitSplit).pc
    let t : Trap := { split := w.ctl.waitSplit, code := 0x0F, tpc := pc, taddr := if w.evt.replay = 0 then pc else w.evt.taddr, trans := trans }
    settleSlots (takeTrap (putWave s wv { go with tim := { go.tim with acqPart := [] } }) wv t) wv
/-- R336, R441: an APND that waits on a page of the pool. -/
def appendVerdict (ok : Bool) (addr trans : Nat) (s : State) (wv : Nat) : State :=
  let w := waveAt s wv
  if ok then putWave s wv { w with apnd := { w.apnd with fault := none } }
  else
    let t : Trap := { split := w.ctl.waitSplit, code := 0x0F, tpc := w.apnd.pc, taddr := addr, trans := trans }
    settleSlots (takeTrap (endAppend wv s) wv t) wv
/-- R116: the spill engine of a wave. -/
def windowVerdict (ok : Bool) (trans : Nat) (w : Wave) : Wave := match w.win.service with
  | .waiting op _ a => { w with win := { w.win with service := if ok then .clear else .failed op a trans } }
  | _ => w
def windowWaits (slot : Nat) (w : Wave) : Bool := match w.win.service with
  | .waiting _ x _ => x == slot
  | _ => false
/-- R343: a successor append; one that cannot go on leaves its event. -/
def succVerdict (isl slot : Nat) (ok : Bool) (s : State) : State :=
  let hit (x : Successor) : Bool := x.fault == some slot
  let i := islandAt s isl
  if ok then putIsland s isl { i with succ := i.succ.map fun x => if hit x then { x with fault := none } else x }
  else (i.succ.filter hit).foldl (fun s x => succError s isl x) (putIsland s isl { i with succ := i.succ.filter fun x => !hit x })
/-- R406: every agent that waits on the record is resumed, or given its unresolved outcome. -/
def applyVerdict (isl idx : Nat) (ok : Bool) (s : State) : State :=
  let i := islandAt s isl
  match i.pending.find? fun p => p.slot == idx with
  | none => s
  | some rec =>
    let s1 := putIsland s isl { i with pending := i.pending.filter fun p => p.slot != idx }
    let mine := (s1.waves.filter fun e => islandOf s1 e.2 == isl).map (·.1)
    let still (s : State) (p : Wave → Bool) (f : State → Nat → State) : State :=
      mine.foldl (fun s k => match tbGet? s.waves k with
        | some w => if p w then f s k else s
        | none => s) s
    let s2 := still s1 (windowWaits idx) fun s k => checkWindow (onWave s k (windowVerdict ok rec.trans)) k
    let s3 := still s2 (fun w => w.apnd.fault == some idx) (appendVerdict ok rec.addr rec.trans)
    let s4 := still s3 (fun w => w.ctl.wait == .fault idx) (waveVerdict ok rec.trans)
    let s5 := beamVerdict isl idx ok (copyVerdict isl idx ok rec.trans s4)
    graphSweep (succVerdict isl idx ok s5) isl
/-- R406: the index of the record that a slot of the queue holds now. -/
def slotIndex (i : Island) (slot : Nat) : Option Nat :=
  (List.range (fqUsed i)).findSome? fun k =>
    let idx := (i.fqHead + k) % 2 ^ 32
    if fqSlot i idx = slot then some idx else none
def verdictAt (isl slot : Nat) (ok : Bool) (s : State) : State := match slotIndex (islandAt s isl) slot with
  | none => s
  | some idx => applyVerdict isl idx ok s
/-- R406: a value written to FAULTRES. -/
def writeFaultres (isl v : Nat) (s : State) : State :=
  if bitsOf v 12 2 = 1 then verdictAt isl (bitsOf v 0 12) true s
  else if bitsOf v 12 2 = 2 then verdictAt isl (bitsOf v 0 12) false s
  else s
/-- FAULTRES_RESOLVED (R406). -/
def execFaultresResolved (island slot : Nat) (s : State) : Result' := event (verdictAt island slot true s)
/-- FAULTRES_UNRESOLVABLE (R406). -/
def execFaultresUnresolvable (island slot : Nat) (s : State) : Result' := event (verdictAt island slot false s)

/-! The head of the fault queue (R362). -/
/-- R362, R406: a value written to HEAD; a fault whose slot HEAD passes before a verdict is unresolvable. -/
def writeFqHead (island head : Nat) (s : State) : State :=
  let i := islandAt s island
  let h := head % 2 ^ 32
  let n := (h + 2 ^ 32 - i.fqHead) % 2 ^ 32
  if fqUsed i < n then s
  else
    let s1 := (List.range n).foldl (fun s k => applyVerdict island ((i.fqHead + k) % 2 ^ 32) false s) s
    let s2 := putIsland s1 island { islandAt s1 island with fqHead := h }
    fillFaultQueue island (islandAt s2 island).fqWait.length s2
/-- FAULT_QUEUE_HEAD_WRITE (R362, R406). -/
def execFaultQueueHeadWrite (island head : Nat) (s : State) : Result' := event (writeFqHead island head s)

/-! CWWR. -/
def useCwwr (d : SReg) (n : Nat) : Usage := { useSr d with priv := cwPriv n, closes := true }
/-- CWWR (R91, R92, R104, R388, R406, R407). -/
def execCwwr (y : Bool) (d : SReg) (w : Fin 4096) (s : State) : Result' :=
  issue s y (useCwwr d w.val) fun c s =>
    let v := (sca c d).toNat
    let wave := waveAt s c.wv
    let isl := islandOf s wave
    let s1 := putWave s c.wv (cwWriteWave wave w.val v)
    let s2 := cwWriteIsland s1 (privileged s wave) isl w.val v
    (if w.val = 0x102 then writeFaultres isl v s2 else s2, .done)

end Sys2Proof.Machine
end

