-- ==== Sys2Proof/Machine/Outside.lean ====
section
/-!
DEFINITION. The host, the peers, the security engine, power and debug (23: R415 to R426), TLB invalidation (19: R353), the island table
(R361), the escalation register and the EVQ window (22: R404, R407), link failures (R413) and the debug freeze (R414).
-/
namespace Sys2Proof.Machine

/-- R426: the hub die has power, so its BAR0 and its links answer. -/
def hubUp (s : State) : Bool := decide (s.dev.pwrState ≤ 1)
/-- What an outside reader gets. -/
def replyWith (s : State) (bytes : List Nat) (bad : List Nat) : State := putDev s { s.dev with reply := bytes, replyBad := bad }
/-- An event that the hub die must have power for, on one of the eight islands. -/
def onIsland (s : State) (isl : Nat) (f : State → State) : State := if hubUp s && decide (isl < 8) then f s else s

/-! TLB invalidation (R353). -/
/-- R353: the entry lies in the scope that TLBINV names. -/
def invHits (v isl : Nat) (t : TlbEntry) : Bool :=
  t.island == isl && (match bitsOf v 1 2 with
    | 0 => decide ((bitsOf v 12 45 * 4096) / 2 ^ tlbPage t = t.va / 2 ^ tlbPage t)
    | 1 => !pteG t.attrs
    | _ => true)
def dropTlb (p : TlbEntry → Bool) (s : State) : State := { s with cores := tbMap (fun _ c => { c with tlb := c.tlb.filter fun t => !p t }) s.cores }
/-- R353: a write to TLBINV. Until GO falls, each entry of the range may be used or not, a free choice. -/
def writeTlbinv (isl v : Nat) (s : State) : State :=
  let i := islandAt s isl
  if bitOf i.tlbinv 0 ∨ bitsOf v 1 2 = 3 then s
  else
    let r := bitsOf v 12 45 * 4096 + bitsOf v 1 2 * 2 + bitsOf v 0 1
    let s1 := putIsland s isl { i with tlbinv := r }
    if bitOf v 0 then dropTlb (fun t => invHits r isl t && Config.race s.free (t.va / 4096)) { s1 with free := s1.free + 1 } else s1
/-- TLBINV_PAGE (R353). -/
def execTlbinvPage (island va : Nat) (s : State) : Result' := event (onIsland s island (writeTlbinv island (bitsOf va 12 45 * 4096 + 1)))
/-- TLBINV_NONGLOBAL (R353). -/
def execTlbinvNonglobal (island : Nat) (s : State) : Result' := event (onIsland s island (writeTlbinv island 3))
/-- TLBINV_ALL (R353). -/
def execTlbinvAll (island : Nat) (s : State) : Result' := event (onIsland s island (writeTlbinv island 5))
/-- TLBINV_COMPLETE (R353): no agent of the island uses an old translation of the range, and GO reads 0. -/
def execTlbinvComplete (island : Nat) (s : State) : Result' :=
  let i := islandAt s island
  if bitOf i.tlbinv 0 && (s.dev.commits.all fun c => c.island != island) then
    event (dropTlb (invHits i.tlbinv island) (putIsland s island { i with tlbinv := i.tlbinv - 1 }))
  else event s

/-! The island table (R361, R422). -/
/-- R237: a launch of the island is in flight, or one of its tasks is resident. -/
def launchInFlight (s : State) (isl : Nat) : Bool := s.launches.any fun e => e.2.island == isl
/-- R6, R361: the entry as it is stored: reserved bits are zero, and a reserved CLASS leaves the old one. -/
def tableEntry (old new : List Nat) : List Nat :=
  let b := (new ++ List.replicate 128 0).take 80 ++ List.replicate 48 0
  let word := recGet b 4 4
  let cls := if word % 4 = 3 then recGet old 4 4 % 4 else word % 4
  recPut (b.map fun x => x % 256) 4 4 (cls + bitsOf word 2 3 * 4 + bitsOf word 16 16 * 2 ^ 16)
/-- R361: a cluster in two valid entries. -/
def entryClash (s : State) (isl : Nat) (i : Island) : Bool :=
  islValid i && s.islands.any fun e => e.1 != isl && islValid e.2 && Nat.land (islClusters e.2) (islClusters i) != 0
/-- R361: KEYSLOT. -/
def islKeySlot (i : Island) : Nat := recGet i.entry 72 8
/-- R422, R423: the island's carve-out is read under another key from now on. -/
def changeKey (i : Island) (s : State) : State :=
  { s with
    nextId := s.nextId + 1
    dev := { s.dev with veils := { base := (islCarve i).1, size := (islCarve i).2, key := s.nextId } ::
      s.dev.veils.filter fun v => v.base != (islCarve i).1 || v.size != (islCarve i).2 } }
/-- R361, R423: a sealed island whose carve-out or key slot changes reads the old region, and the new one, under another key. -/
def moveCarve (i j : Island) (s : State) : State :=
  if islSealed i && (islCarve i != islCarve j || islKeySlot i != islKeySlot j) then changeKey j (changeKey i s) else s
def writeTable (isl : Nat) (bytes : List Nat) (s : State) : State :=
  let i := islandAt s isl
  let j : Island := { i with entry := tableEntry i.entry bytes }
  if launchInFlight s isl || islSealed j != islSealed i then queueError s isl (0x10000 + 128 * isl) (islClass i)
  else if entryClash s isl j then s
  else moveCarve i j (putIsland s isl j)
/-- ISLAND_TABLE_WRITE (R361, R422). -/
def execIslandTableWrite (island : Nat) (bytes : List Nat) (s : State) : Result' := event (onIsland s island (writeTable island bytes))

/-! Registers of an island (R407, R417, R418, R421). -/
/-- R407: T1 and T2; their upper halves are written as zero. -/
def writeEsct (isl v : Nat) (s : State) : State := putIsland s isl { islandAt s isl with t1 := v % 2 ^ 32, t2 := v / 2 ^ 32 % 2 ^ 32 }
/-- ESCT_WRITE (R407). -/
def execEsctWrite (island value : Nat) (s : State) : Result' := event (onIsland s island (writeEsct island value))
/-- EVQ_WINDOW_READ (R404): one record leaves q4; an empty queue returns zero. -/
def readEvq (isl : Nat) (s : State) : State :=
  let words := match (islandAt s isl).q4 with
    | r :: _ => evWords isl r
    | [] => List.replicate 8 0
  popEvents (replyWith s (words.flatMap (leBytes 4)) []) isl 1
def execEvqWindowRead (island : Nat) (s : State) : Result' := event (onIsland s island (readEvq island))

/-! Power states (R425, R426). -/
/-- R425: REQ; 3 is ignored. In watch only the sideband is there. -/
def writeReq (v : Nat) (sideband : Bool) (s : State) : State :=
  if s.dev.pwrState = 3 ∨ (s.dev.pwrState = 2 ∧ sideband = false) ∨ 3 ≤ v then s else putDev s { s.dev with pwrReq := v }
/-- PWRCTL_REQ_RUN (R426). -/
def execPwrctlReqRun (sideband : Bool) (s : State) : Result' := event (writeReq 0 sideband s)
/-- PWRCTL_REQ_DOZE (R426). -/
def execPwrctlReqDoze (sideband : Bool) (s : State) : Result' := event (writeReq 1 sideband s)
/-- PWRCTL_REQ_WATCH (R426). -/
def execPwrctlReqWatch (sideband : Bool) (s : State) : Result' := event (writeReq 2 sideband s)
/-- R426: every queue of an island is empty: launch, task, event and fault queue. -/
def queuesEmpty (i : Island) : Bool :=
  i.heads == i.tails && i.fqHead == i.fqTail && i.fqWait.isEmpty && i.parkQ.isEmpty && i.q4.isEmpty && i.q4wait.isEmpty && i.succ.isEmpty &&
    i.graphs.all fun e => e.2.lists.all fun l => l.recs.isEmpty && l.formed.isEmpty
/-- R426: what doze waits for. -/
def deviceIdle (s : State) : Bool := s.launches.isEmpty && s.groups.isEmpty && s.islands.all fun e => queuesEmpty e.2
def dozeDue (s : State) : Bool := s.dev.pwrState == 0 && s.dev.pwrReq != 0 && deviceIdle s
/-- R426: dirty lines of a cluster's cache ways are written back. -/
def cleanSlice (s : State) (cl : Nat) : State := (clusterAt s cl).lines.foldl (pushSliceLine cl) s
/-- DOZE_ENTRY (R426). -/
def execDozeEntry (s : State) : Result' :=
  if dozeDue s then
    let s1 := (s.clusters.map (·.1)).foldl cleanSlice s
    event { putDev s1 { s1.dev with pwrState := 1 } with turn := 0 }
  else event s
def wakeDue (s : State) : Bool := s.dev.pwrState == 1 && s.dev.pwrReq == 0
/-- DOZE_WAKE (R426). -/
def execDozeWake (s : State) : Result' := event (if wakeDue s then putDev s { s.dev with pwrState := 0 } else s)
def watchDue (s : State) : Bool := s.dev.pwrState == 1 && s.dev.pwrReq == 2
/-- The device with every item at its reset value but those of the skerry. Local memory, whose contents are lost (R4, R165), reads as a free
value byte for byte; the host's memory, from 2^51 on, is no item of the device, nor is what other agents do next. -/
def cleared (s : State) (d : Device) : State :=
  { State.reset with
    dev := { d with mem := s.dev.mem.filter (fun e => decide (2 ^ 51 ≤ e.1)), veils := [{ base := 0, size := 2 ^ 51, key := s.nextId }] }
    agenda := s.agenda, free := s.free, nextId := s.nextId + 1 }
/-- WATCH_ENTRY (R426, R386): all but the skerry's domain loses its contents. -/
def execWatchEntry (s : State) : Result' :=
  if watchDue s then
    event (cleared s { cycle := s.dev.cycle, retention := s.dev.retention, retKey := s.dev.retKey, pwrReq := 2, pwrState := 2, pwrMods := s.dev.pwrMods, pwrErr := s.dev.pwrErr })
  else event s
/-- R416: 4, 2 or 1 modules; 0 where training has failed. -/
def trainedMods (n : Nat) : Nat := if 4 ≤ n then 4 else if 2 ≤ n then 2 else n
/-- R424 to R426: the device after its boot, which leaves the retention SRAM as it is; `good` says that the firmware's signature holds, `mods` how
many modules train. -/
def boot (s : State) (good : Bool) (mods cycle : Nat) : State :=
  let d : Device := { cycle := cycle, retention := s.dev.retention, retKey := s.dev.retKey }
  if good then cleared s { d with bootCycle := cycle, pwrMods := trainedMods mods, pwrErr := if trainedMods mods = 0 then 2 else 0 }
  else cleared s { d with pwrState := 2, pwrMods := s.dev.pwrMods, pwrErr := 1 }
/-- WATCH_WAKE (R426, R386, R424). -/
def execWatchWake (good : Bool) (mods : Nat) (s : State) : Result' :=
  event (if s.dev.pwrState = 2 ∧ s.dev.pwrReq = 0 then boot s good mods s.dev.cycle else s)
/-- POWER_ON_BOOT (R424). -/
def execPowerOnBoot (good : Bool) (mods : Nat) (s : State) : Result' := event (if s.dev.pwrState = 3 then boot s good mods 0 else s)
/-- POWER_REMOVAL (R415): every item is lost; the bytes of the retention SRAM become free values. -/
def execPowerRemoval (s : State) : Result' := event (cleared { s with free := s.free + 1 } { pwrState := 3, retKey := s.free + 1 })

/-! Debug freeze (R414). -/
/-- DEBUG_FREEZE (R414). -/
def execDebugFreeze (s : State) : Result' := event (if hubUp s then putDev s { s.dev with frozen := true } else s)
/-- DEBUG_UNFREEZE (R414): no state but the stop itself changes. -/
def execDebugUnfreeze (s : State) : Result' := event (putDev s { s.dev with frozen := false })
/-- FREEZE_PIN (R414): the pin is asserted. -/
def execFreezePin (s : State) : Result' := event (if hubUp s then putDev s { s.dev with frozen := true } else s)

/-! The security engine (R422, R423). -/
/-- R422: the engine answers, and the mailbox is free for the next command. -/
def mailStatus (s : State) (v : Nat) : State := putDev s { s.dev with mailbox := v, mailCmd := none }
/-- R423: a measured event. -/
def measure (s : State) (e : List Nat) : State := putDev s { s.dev with log := s.dev.log ++ [e] }
/-- R423: SHAKE256 with an output of 64 bytes. -/
def shake512 (x : List Nat) : List Nat := (List.range 64).map fun k => (Config.shake256 x).getD k 0 % 256
/-- R423: log := SHAKE256(log ∥ SHAKE256(event)). -/
def logDigest (log : List (List Nat)) : List Nat := log.foldl (fun d e => shake512 (d ++ shake512 e)) Config.bootDigest
def setSealed (i : Island) (v : Bool) : Island :=
  { i with entry := recPut i.entry 4 4 (recGet i.entry 4 4 - b2n (islSealed i) * 4 + b2n v * 4) }
/-- R361, R422: the other sealed islands whose key lies in the same slot lose it with this one. -/
def loseSlot (isl : Nat) (s : State) : State :=
  (s.islands.filter fun e => e.1 != isl && islSealed e.2 && islKeySlot e.2 == islKeySlot (islandAt s isl)).foldl (fun s e => changeKey e.2 s) s
/-- SEAL (R422, R423). -/
def sealIsland (isl : Nat) (s : State) : State :=
  if launchInFlight s isl then mailStatus s 1
  else
    let s1 := putIsland s isl { setSealed (islandAt s isl) true with keyGen := some s.nextId }
    mailStatus (measure (loseSlot isl (changeKey (islandAt s isl) s1)) [1, isl]) 0
def execSeal (island : Nat) (s : State) : Result' := event (onIsland s island (sealIsland island))
/-- R422: every byte of the carve-out is written, and no copy of it stays. -/
def wipeCarve (i : Island) (s : State) : State :=
  let keep (l : Line) : Bool := !inCarve i (l.line * 128)
  { s with
    dev := { s.dev with mem := s.dev.mem.filter (fun e => !inCarve i e.1), poison := s.dev.poison.filter fun l => !inCarve i (l * 128) }
    cores := tbMap (fun _ c => { c with l1 := c.l1.filter keep }) s.cores
    clusters := tbMap (fun _ c => { c with lines := c.lines.filter keep }) s.clusters }
/-- UNSEAL (R422, R423). -/
def unsealIsland (isl : Nat) (s : State) : State :=
  if launchInFlight s isl then mailStatus s 1
  else
    let s1 := loseSlot isl (changeKey (islandAt s isl) (wipeCarve (islandAt s isl) s))
    mailStatus (measure (putIsland s1 isl { setSealed (islandAt s1 isl) false with keyGen := none }) [2, isl]) 0
def execUnseal (island : Nat) (s : State) : Result' := event (onIsland s island (unsealIsland island))
/-- QUOTE (R422): the signature over the nonce, the log digest and the island table entry. -/
def execQuote (island nonce : Nat) (s : State) : Result' :=
  event (onIsland s island fun s =>
    replyWith (mailStatus s 0) (Config.sign (leBytes 64 nonce ++ logDigest s.dev.log ++ (islandAt s island).entry)) [])
/-- CERT (R422). -/
def execCert (s : State) : Result' := event (if hubUp s then replyWith (mailStatus s 0) Config.certificate [] else s)
/-- R422: a word 0 written to the mailbox: OP in bits 7:0, an island in bits 10:8; a mailbox that is busy takes none. An OP that R422 does not list
is refused (DESIGN CHOICE, log 23). -/
def writeMail (v : Nat) (s : State) : State :=
  if s.dev.mailbox = 2 then s
  else if bitsOf v 0 8 < 1 ∨ 4 < bitsOf v 0 8 then mailStatus s 1
  else putDev s { s.dev with mailbox := 2, mailCmd := some (bitsOf v 0 8, bitsOf v 8 3) }
/-- R422: the 64 bytes written beside word 0, QUOTE's nonce. -/
def mailNonce (s : State) : Nat := leNat ((spRange 0 s.dev.mailIn 0 64).map (·.toNat))
/-- R422: the engine carries out the command that the mailbox holds. -/
def execMail (s : State) : Result' := match s.dev.mailCmd with
  | none => event s
  | some (op, isl) => if op = 1 then execSeal isl s else if op = 2 then execUnseal isl s else if op = 3 then execQuote isl (mailNonce s) s else execCert s

/-! Accesses from outside (R207, R419 to R421). -/
/-- R419, R423: the line lies in a sealed carve-out. -/
def sealedLine (s : State) (line : Nat) : Bool := s.islands.any fun e => islSealed e.2 && inCarve e.2 (line * 128)
def accessSize : OutsideAccess → Nat
  | .read n => n
  | .write bytes => bytes.length
  | .atomic _ _ k _ _ => 4 * k
/-- The lines that n bytes from pa on lie in. -/
def spanLines (pa n : Nat) : List Nat := (List.range ((pa % 128 + n + 127) / 128)).map fun k => pa / 128 + k
/-- R211: full lines written lose their poison. -/
def writeOutside (s : State) (pa : Nat) (bytes : List Nat) : State :=
  let s1 := homeWrite s pa bytes
  (spanLines pa bytes.length).foldl (fun s l =>
    if decide (pa ≤ l * 128) && decide (l * 128 + 128 ≤ pa + bytes.length) then clearPoison s l else s) s1
/-- R212, R419: the bytes that an outside reader gets: those of the lines `bad` are free values. -/
def readOutside (s : State) (bad : List Nat) (pa n : Nat) : List Nat :=
  (List.range n).map fun j => if bad.contains ((pa + j) / 128) then Config.anyValue s.free (pa + j) % 256 else (homeByte s (pa + j)).toNat
/-- R190, R203: an atomic at the home agent; it answers the old value, which in a poisoned line is a free value. -/
def atomicOutside (s : State) (pa ao et k v v2 : Nat) (bad : List Nat) : State :=
  let old := leNat (readOutside s bad pa (4 * k))
  replyWith (homeWrite s pa (leBytes (4 * k) (atomNew et ao (32 * k) old v v2))) (leBytes (4 * k) old) bad
/-- R207, R419: every cached copy is recalled, and the access is performed at the home agent; the reply says which lines carry poison. -/
def performOutside (s : State) (pa : Nat) (acc : OutsideAccess) : State :=
  let ls := spanLines pa (accessSize acc)
  let s1 := ls.foldl recallLine { s with free := s.free + 1 }
  let bad := ls.filter (isPoisoned s)
  match acc with
  | .read n => replyWith s1 (readOutside s1 bad pa n) bad
  | .write bytes => writeOutside s1 pa bytes
  | .atomic ao et k v v2 => atomicOutside s1 pa ao et k v v2 bad
/-- R419: an access to one line. A line of a sealed carve-out answers with poison, and a write to it is discarded. -/
def lineAccess (s : State) (pa : Nat) (acc : OutsideAccess) : State :=
  if sealedLine s (pa / 128) then match acc with
    | .write _ => s
    | _ =>
      replyWith { s with free := s.free + 1 } ((List.range (accessSize acc)).map fun k => Config.anyValue s.free (pa + k) % 256) [pa / 128]
  else performOutside s pa acc
/-- The parts of an access, line by line. -/
def cutAccess : Nat → Nat → OutsideAccess → List (Nat × OutsideAccess)
  | 0, _, _ => []
  | fuel + 1, pa, acc =>
    let k := min (accessSize acc) (128 - pa % 128)
    if accessSize acc = 0 then []
    else match acc with
      | .read n => (pa, .read k) :: cutAccess fuel (pa + k) (.read (n - k))
      | .write bytes => (pa, .write (bytes.take k)) :: cutAccess fuel (pa + k) (.write (bytes.drop k))
      | .atomic ao et n v v2 => [(pa, .atomic ao et n v v2)]
/-- One part, its answer after those of the parts before it. -/
def joinReply (s : State) (x : Nat × OutsideAccess) : State :=
  let t := lineAccess (replyWith s [] []) x.1 x.2
  replyWith t (s.dev.reply ++ t.dev.reply) (s.dev.replyBad ++ t.dev.replyBad)
/-- R419: an access from outside, once no line of it is owned or locked. A write gets no answer. -/
def outsideAccess (s : State) (pa : Nat) (acc : OutsideAccess) : State :=
  if (spanLines pa (accessSize acc)).any fun l => (lineWait s l).isSome then s
  else (cutAccess (accessSize acc / 128 + 2) pa acc).foldl joinReply (replyWith s [] [])
/-- R421: the access lies in local memory. -/
def inLocal (pa n : Nat) : Bool := decide (pa + n ≤ 2 ^ 38)
/-- HOST_CXL_MEM_ACCESS (R419, R426): an access in doze first brings the device back to run. -/
def execHostCxlMemAccess (addr : Nat) (acc : OutsideAccess) (s : State) : Result' :=
  if hubUp s && inLocal addr (accessSize acc) then
    event (outsideAccess (if s.dev.pwrState = 1 then putDev s { s.dev with pwrReq := 0, pwrState := 0 } else s) addr acc)
  else event s
/-- HOST_SNOOP (R420, R421): the host accesses its own memory. -/
def execHostSnoop (addr : Nat) (acc : OutsideAccess) (s : State) : Result' :=
  if hubUp s && decide (addr + accessSize acc ≤ 2 ^ 48) then
    let pa := 2 ^ 51 + addr
    event (outsideAccess s pa acc)
  else event s
/-- PEER_DEVICE_ACCESS (R421). -/
def execPeerDeviceAccess (addr : Nat) (acc : OutsideAccess) (s : State) : Result' :=
  event (if hubUp s && inLocal addr (accessSize acc) then outsideAccess s addr acc else s)

/-! Links (R413, R421). -/
/-- FLIT_RETRY (R413): a retry changes nothing that an agent can see. -/
def execFlitRetry (_link : Nat) (s : State) : Result' := event s
/-- R212: a read that is outstanding on the link delivers a free value and raises the imprecise poison event. -/
def poisonRead (free line : Nat) (r : Result) : Result :=
  let hit := r.reads.filter fun e => e.addr == line * 128
  if hit.isEmpty then r
  else
    { r with
      vec := r.keys.foldl (fun m k => spSet 0 m k (BitVec.ofNat 32 (Config.anyValue free k))) []
      sca := r.sca.map fun p => (p.1, BitVec.ofNat 64 (Config.anyValue free p.1))
      imprecise := r.imprecise ++ hit
      reads := r.reads.filter fun e => e.addr != line * 128 }
/-- R212: whether a result holds a read that is outstanding on the link. -/
def readsLine (line : Nat) (r : Result) : Bool := r.reads.any fun e => e.addr == line * 128
/-- R212, R234: the rows of a TLDQ whose images are read over the link become free values. -/
def poisonJob (free : Nat) (hit : List Nat) (j : TileJob) : TileJob :=
  let row (n : Nat) (r : FeedRow) : FeedRow :=
    let bm := Config.anyValue free (64 * n) % 2 ^ 32
    { r with bitmap := bm, elems := ((List.range 32).filter (bitOf bm)).map fun f => Config.anyValue free (64 * n + 1 + f) % 2 ^ (if r.esz = 1 then 8 else 16) }
  if j.res != 0 && hit.contains j.res then { j with rows := j.rows.zipIdx.map fun x => row x.2 x.1 } else j
/-- R212, R292: a piece of a copy whose source is read over the link has met a poisoned line. -/
def poisonPiece (s : State) (core line : Nat) (c : CopyCmd) (p : CopyPiece) : CopyPiece :=
  if p.done ∨ p.hop ≠ 0 ∨ c.srcFifo then p
  else match (endLocate (copyAsker core c) (hopGroup c 0) 0 p.src p.len s).2.find? fun x => match x.2 with
      | .mem pa _ => pa / 128 == line
      | _ => false with
    | some x => { p with bad := some x.1.va }
    | none => p
/-- R421: every read outstanding on the link delivers poison: those of waves, of the transform pipes and of the copy engines. -/
def linkPoison (line : Nat) (s : State) : State :=
  let hit := (s.waves.flatMap (·.2.out)).filterMap fun r => if readsLine line r then some r.id else none
  let core (k : Nat) (c : Core) : Core :=
    { c with pipe := c.pipe.map (poisonJob s.free hit), copies := c.copies.map fun d => mapPieces (poisonPiece s k line d) d }
  { s with
    free := s.free + 1
    waves := tbMap (fun _ w => { w with out := w.out.map (poisonRead s.free line) }) s.waves
    cores := tbMap core s.cores }
/-- LINK_DOWN_POISON (R413, R421): a write that the link lost poisons its line, and reads outstanding on it deliver poison. -/
def execLinkDownPoison (line : Nat) (s : State) : Result' := event (if hubUp s then poisonWrite line (linkPoison line s) else s)

/-! BAR0 (R417) and the sideband (R426). -/
/-- R425: the PWRCTL word. -/
def pwrctlWord (d : Device) : Nat := d.pwrReq % 4 + d.pwrState % 4 * 2 ^ 8 + d.pwrMods % 16 * 2 ^ 16 + d.pwrErr % 16 * 2 ^ 20
/-- R415, R426: what hides a byte of the retention SRAM whose contents a removal of power has lost. -/
def retMask (s : State) (off : Nat) : Byte :=
  if s.dev.retKey = 0 then 0 else BitVec.ofNat 8 (Config.anyValue s.dev.retKey (2 ^ 30 + off))
def retByte (s : State) (off : Nat) : Byte := spGet 0 s.dev.retention off ^^^ retMask s off
/-- R426: eight bytes of the retention SRAM. -/
def readRetention (s : State) (off : Nat) : Nat := leNat ((List.range 8).map fun j => (retByte s (off + j)).toNat)
def writeRetention (s : State) (off v : Nat) : State :=
  let bytes := (List.range 8).map fun j => BitVec.ofNat 8 (v / 2 ^ (8 * j)) ^^^ retMask s (off + j)
  putDev s { s.dev with retention := spSetList 0 s.dev.retention off bytes }
/-- R417: an offset of the retention SRAM in BAR0. -/
def retWindow (addr : Nat) : Bool := decide (0x400000 ≤ addr) && decide (addr < 0x800000)
/-- A register of an island at an offset of its page, as it is read; a read of the EVQ window has a row of its own. -/
def readIslandReg (i : Island) (off : Nat) : Nat :=
  if off < 0x18 then i.tails.getD (off / 8) 0
  else if off = 0x20 then i.fqHead
  else if off = 0x28 then i.fqTail
  else if off = 0x30 then i.tlbinv
  else if off = 0x40 then i.t1 + i.t2 * 2 ^ 32
  else if off = 0x48 then i.evqint
  else if off = 0x50 then i.windows
  else 0
/-- R417, R422, R425, R426: eight bytes read at an aligned offset of BAR0; nothing answers once the hub die has no power. -/
def readBar (s : State) (addr : Nat) : Option Nat :=
  if !hubUp s then none
  else if addr % 8 ≠ 0 then some 0
  else if addr = 0 then some (pwrctlWord s.dev)
  else if decide (0x10000 ≤ addr) && decide (addr < 0x10400) then some (recGet (islandAt s ((addr - 0x10000) / 128)).entry (addr % 128) 8)
  else if decide (0x100000 ≤ addr) && decide (addr < 0x180000) then some (readIslandReg (islandAt s ((addr - 0x100000) / 0x10000)) (addr % 0x10000))
  else if addr = 0x200000 then some s.dev.mailbox
  else if addr = 0x300000 then some (b2n s.dev.frozen)
  else if retWindow addr then some (readRetention s (addr - 0x400000))
  else some 0
/-- R426: the sideband reads PWRCTL and the retention SRAM in every state in which the device has power. -/
def readSideband (s : State) (addr : Nat) : Option Nat :=
  if s.dev.pwrState = 3 then none
  else if addr = 0 then some (pwrctlWord s.dev)
  else if retWindow addr && addr % 8 == 0 then some (readRetention s (addr - 0x400000))
  else some 0
/-- R426: a write over the sideband. -/
def writeSideband (addr v : Nat) (s : State) : State :=
  if s.dev.pwrState = 3 ∨ addr % 8 ≠ 0 then s
  else if addr = 0 then writeReq (v % 4) true s
  else if retWindow addr then writeRetention s (addr - 0x400000) v
  else s
/-- A register of an island at an offset of its page; TAIL and the EVQ window are read-only. -/
def writeIslandReg (isl off v : Nat) (s : State) : State :=
  let i := islandAt s isl
  if off < 0x18 then ringDoorbell isl (off / 8) v s
  else if off = 0x20 then writeFqHead isl v s
  else if off = 0x30 then writeTlbinv isl v s
  else if off = 0x38 then writeFaultres isl v s
  else if off = 0x40 then writeEsct isl v s
  else if off = 0x48 then putIsland s isl { i with evqint := Nat.land v 0x87FF }
  else if off = 0x50 then putIsland s isl { i with windows := Nat.land v 0xFFFF0001 }
  else s
/-- R417: eight bytes written at an aligned offset of BAR0. -/
def writeBar (addr v : Nat) (s : State) : State :=
  if addr % 8 ≠ 0 then s
  else if !hubUp s then s
  else if retWindow addr then writeRetention s (addr - 0x400000) v
  else if addr = 0x200000 then writeMail v s
  else if decide (0x200008 ≤ addr) && decide (addr < 0x200048) then
    putDev s { s.dev with mailIn := spSetList 0 s.dev.mailIn (addr - 0x200008) ((leBytes 8 v).map (BitVec.ofNat 8)) }
  else if addr = 0 then writeReq (v % 4) false s
  else if decide (0x10000 ≤ addr) && decide (addr < 0x10400) then
    let isl := (addr - 0x10000) / 128
    let e := (islandAt s isl).entry
    writeTable isl (recPut ((e ++ List.replicate 128 0).take 128) (addr % 128) 8 v) s
  else if addr = 0x300000 then putDev s { s.dev with frozen := bitOf v 0 }
  else if decide (0x100000 ≤ addr) && decide (addr < 0x180000) then writeIslandReg ((addr - 0x100000) / 0x10000) (addr % 0x10000) (v % 2 ^ 64) s
  else s
/-- REGISTER_WRITE (R417, R418, R421, R426): a write to a BAR0 register, or, beyond the 64 MiB of BAR0, one over the sideband (log 23). -/
def execRegisterWrite (addr value : Nat) (s : State) : Result' :=
  event (if addr < 2 ^ 26 then writeBar addr value s else writeSideband (addr - 2 ^ 26) value s)

end Sys2Proof.Machine
end

