-- ==== Sys2Proof/Machine/Slots.lean ====
section
/-!
DEFINITION. Which wave and which split issue (R25, R27, R32), slot grants and displacement (13: R244 to R246), and timers (21: R389).
-/
namespace Sys2Proof.Machine

/-- R25: the wait of a wave is over. Waits that an event ends are over once the event has cleared them. -/
def waitOver (s : State) (wv : Nat) (w : Wave) : Bool :=
  match w.ctl.wait with
  | .no => true
  | .walk => true
  | .farAccess k => match w.ctl.srcfg with
    | some (n, v) => !srcfgHeld s wv k n v
    | none => true
  | .farWay k o => !farSoon s (islandOf s w) k o || farLegal s (islandOf s w) k o
  | .release => releaseClear s wv
  | .arrival => releaseClear s wv
  | .loads => !w.out.any isLoad
  | .recall l => !isOwned s l
  | .replica l => !isLocked s l
  | .spillWrites => spillsDone s wv
  | .ring hdr slot ph => ringOver s w.group (hdr, slot) ph
  | .batch n => batchOver s wv n
  | .copyQueue => decide (copiesQueued s (coreOf w) < 32)
  | .matrixQueue => queueRoom s w
  | .feedRoom n => feedReady s wv w n
  | .fragment => !(groupAt s w.group).q1.isEmpty || (groupAt s w.group).beams.isEmpty
  | .launchQueue c => decide (queueUsed (islandAt s (islandOf s w)) c < queueSize (islandAt s (islandOf s w)) c)
  | _ => false

/-- R31, R363: a split that is neither held nor parked. -/
def splitReady (w : Wave) (i : Nat) : Bool :=
  let x := getSplit w i
  x.valid && !x.held && parkOver w x
/-- R32: the rotation starts after the split that issued last. -/
def rotation (last : Nat) : List Nat := (List.range 4).map fun k => (last + 1 + k) % 4
/-- R401: an imprecise event of the split is still to be raised. -/
def owesEvent (w : Wave) (i : Nat) : Bool := w.evt.imprecise.any fun e => e.split == i
/-- R32, R401: the split that issues next; an instruction that waited, or that replays, comes before any other. -/
def chooseSplit (w : Wave) : Option Nat :=
  (if w.ctl.wait ≠ .no ∨ w.evt.replaying then some w.ctl.waitSplit
   else (rotation w.ctl.lastSplit).find? fun i => splitReady w i && !owesEvent w i).filter fun i => !owesEvent w i
/-- R36, R242, R408: the wave's core halts for a swap, its context is saved, or its group halts for a move. -/
def halted (s : State) (w : Wave) : Bool :=
  (groupAt s w.group).away || (groupAt s w.group).moving.isSome || (match (clusterAt s (clusterOf w)).reclaim with
    | some r => r.swap.isSome
    | none => false)
/-- R25. -/
def waveReady (s : State) (wv : Nat) (w : Wave) : Bool :=
  !halted s w && waitOver s wv w && decide (w.tim.spinUntil ≤ w.tim.wtime) && w.evt.pend.isNone && (chooseSplit w).isSome

/-- R28: class of a wave, real-time first. -/
def classOf (s : State) (w : Wave) : Nat := (launchOf s w).cls
/-- R27: order of the pending set. -/
def pendingKey (s : State) (w : Wave) : Nat :=
  ((classOf s w * 2 ^ 64 + w.tim.age) * 32 + w.num) * 2 ^ 64 + (groupAt s w.group).order
def insertBy (f : Nat × Wave → Nat) (x : Nat × Wave) : List (Nat × Wave) → List (Nat × Wave)
  | [] => [x]
  | h :: t => if f x < f h then x :: h :: t else h :: insertBy f x t
/-- R27, R244: the ready waves of the pending set of a quarter, the one that comes first at the head; a wave enters it after its last pass. -/
def pendingReady (s : State) (k : Nat) : List (Nat × Wave) :=
  let q := quarterAt s k
  ((s.waves.filter fun e => e.2.quarter == k && (holdOf q e.1).isNone && decide (e.2.tim.passEnd ≤ s.dev.cycle) && waveReady s e.1 e.2)).foldr
    (insertBy fun e => pendingKey s e.2) []

/-! Grants (R24, R27, R244). -/
def slotVacant (q : Quarter) (i : Nat) : Bool := (q.slots.getD i none).isNone
def slotCount (w : Wave) : Nat := w.width / 32
/-- The slots of the aligned group of n slots at `b`. -/
def slotRange (b n : Nat) : List Nat := (List.range n).map fun k => b + k
def alignedGroups (n : Nat) : List Nat := (List.range (8 / n)).map fun j => j * n
/-- R27: who takes the vacant slot at its turn; slots that an earlier wave waits for stay reserved. -/
def grantScan (q : Quarter) (slot : Nat) : List (Nat × Wave) → List Nat → Option Nat
  | [], _ => none
  | (wv, w) :: t, res =>
    let n := max (slotCount w) 1
    let free (b : Nat) : Bool := (slotRange b n).all fun i => slotVacant q i && !res.contains i
    if free (slot / n * n) then some wv
    else match (alignedGroups n).find? free with
      | some b => grantScan q slot t (res ++ slotRange b n)
      | none => match (alignedGroups n).find? fun b => (slotRange b n).any (slotVacant q) with
        | some b => grantScan q slot t (res ++ slotRange b n)
        | none => grantScan q slot t res
/-- R27, R244: the wave that takes the slot at its turn on this clock, among those that were ready before it. -/
def grantee (s : State) (k slot : Nat) : Option Nat :=
  let q := quarterAt s k
  if decide (slot = s.dev.cycle % 8) && slotVacant q slot && decide (q.passEnd ≤ s.dev.cycle) then grantScan q slot ((pendingReady s k).filter fun e => e.2.tim.ready) [] else none
/-- R28: whether a wave pins the slots it takes. -/
def pinsSlots (s : State) (w : Wave) : Bool := decide (classOf s w = 0) && lbPin (launchOf s w)
/-- SLOT_GRANT (R244). -/
def execSlotGrant (q slot : Nat) (s : State) : Result' :=
  match grantee s q slot with
  | none => event s
  | some wv =>
    let w := waveAt s wv
    let n := max (slotCount w) 1
    let hold : SlotHold := { wave := wv, pin := pinsSlots s w }
    let x := quarterAt s q
    event (putQuarter s q { x with slots := (slotRange (slot / n * n) n).foldl (fun l i => l.set i (some hold)) x.slots })

/-! Displacement (R245, R246). -/
/-- R245: the hold count has reached 4 and a ready wave of the same or a higher class waits. -/
def holdDue (s : State) (wv : Nat) : Bool :=
  match tbGet? s.waves wv with
  | none => false
  | some w => match holdOf (quarterAt s w.quarter) wv with
    | none => false
    | some h => !h.pin && decide (4 ≤ h.hold) && (pendingReady s w.quarter).any fun e => decide (classOf s e.2 ≤ classOf s w)
/-- HOLD_COUNT_DISPLACE (R245). -/
def execHoldCountDisplace (wv : Nat) (s : State) : Result' := event (if holdDue s wv then leaveSlots s wv else s)

/-- R246: the holders of an aligned group. -/
def holdersOf (q : Quarter) (b n : Nat) : List SlotHold := (slotRange b n).filterMap fun i => q.slots.getD i none
/-- R246: a group that a wave of class `c` can use: vacant, leaving, or held by unpinned waves of lower class. -/
def displaceable (s : State) (q : Quarter) (c b n : Nat) : Bool :=
  (holdersOf q b n).all fun h => !h.pin && (h.leave || decide (c < classOf s (waveAt s h.wave)))
/-- The highest class among the holders of a group. -/
def groupRank (s : State) (q : Quarter) (b n : Nat) : Nat :=
  (holdersOf q b n).foldl (fun m h => min m (classOf s (waveAt s h.wave))) 3
/-- R246: slots of a group whose holders are pinned. -/
def pinnedIn (q : Quarter) (b n : Nat) : Nat := ((holdersOf q b n).filter (·.pin)).length
/-- Every slot of the group is vacant or about to be, and is kept for no other wave. -/
def groupOpen (q : Quarter) (res : List Nat) (b n : Nat) : Bool :=
  ((holdersOf q b n).all fun h => h.leave) && (slotRange b n).all fun i => !res.contains i
/-- R27, R246: the slots, vacant or about to be, that the pending waves before `wv` will take. -/
def keptFor (q : Quarter) (wv : Nat) : List (Nat × Wave) → List Nat → List Nat
  | [], res => res
  | (k, w) :: t, res =>
    if k = wv then res
    else
      let n := max (slotCount w) 1
      match (alignedGroups n).find? fun b => groupOpen q res b n with
      | some b => keptFor q wv t (res ++ slotRange b n)
      | none => keptFor q wv t res
/-- R246: the group that the pending wave displaces; none where one is vacant or leaving that no earlier wave takes. -/
def displaceGroup (s : State) (wv : Nat) (w : Wave) : Option Nat :=
  let q := quarterAt s w.quarter
  let n := max (slotCount w) 1
  let c := classOf s w
  let pend := pendingReady s w.quarter
  let res := keptFor q wv pend []
  if !(pend.any fun e => e.1 == wv) || (alignedGroups n).any (fun b => groupOpen q res b n) then none
  else minBy (fun b => (3 - groupRank s q b n) * 16 + pinnedIn q b n)
    ((alignedGroups n).filter fun b => displaceable s q c b n && (slotRange b n).all fun i => !res.contains i)
/-- R246: one holder leaves at once if it is not ready, else after its next instruction. -/
def displaceHolder (s : State) (wv : Nat) : State :=
  let w := waveAt s wv
  if waveReady s wv w then
    let q := quarterAt s w.quarter
    putQuarter s w.quarter { q with slots := q.slots.map fun h => h.map fun x => if x.wave = wv then { x with leave := true } else x }
  else leaveSlots s wv
/-- CLASS_DISPLACE (R246): the ready pending wave displaces the holders of a group. -/
def execClassDisplace (wv : Nat) (s : State) : Result' :=
  match tbGet? s.waves wv with
  | none => event s
  | some w => match displaceGroup s wv w with
    | none => event s
    | some b =>
      let hs := ((holdersOf (quarterAt s w.quarter) b (max (slotCount w) 1)).map (·.wave)).eraseDups
      event (hs.foldl displaceHolder s)

/-! Timers (R388, R389). -/
def timerRuns (w : Wave) : Bool := w.tim.tmcmp.getLsbD 63 && decide (w.tim.tmcmp.toNat % 2 ^ 63 ≤ w.tim.wtime)
/-- R389: the split at whose boundary the timer trap is taken now. -/
def timerSplit (s : State) (wv : Nat) (w : Wave) : Option Nat :=
  if halted s w || handlerRuns w || w.evt.pend.isSome || w.evt.replaying then none
  else match w.ctl.wait with
    | .no => if waveReady s wv w then chooseSplit w else none
    | .spin => (rotation w.ctl.lastSplit).find? (splitReady w)
    | .barrier _ => some w.ctl.waitSplit
    | .arrival => some w.ctl.waitSplit
    | .ring _ _ _ => some w.ctl.waitSplit
    | .batch _ => some w.ctl.waitSplit
    | _ => none
/-- R389: a barrier wait that is broken off owes no second arrival. -/
def breakWait (w : Wave) : Wave :=
  match w.ctl.wait with
  | .barrier b => { w with tim := { w.tim with owed := some (b, (getSplit w w.ctl.waitSplit).pc) } }
  | _ => w
/-- R389: a timer that fires clears ARMED, and its trap waits for a boundary. -/
def fireTimer (w : Wave) : Wave :=
  if timerRuns w then { w with tim := { w.tim with tmcmp := w.tim.tmcmp &&& 0x7FFFFFFFFFFFFFFF, fired := true } } else w
/-- R389: the trap of a timer that has fired is taken; a timer armed since then stays armed. -/
def tookTimer (w : Wave) : Wave := { w with tim := { w.tim with fired := false } }
/-- TIMER_FIRE (R389): the timer fires, and the trap is taken if the wave stands at a boundary; the trap of one that has fired is taken there. -/
def execTimerFire (wv : Nat) (s : State) : Result' :=
  match tbGet? s.waves wv with
  | none => event s
  | some w =>
    if timerRuns w || w.tim.fired then match timerSplit s wv w with
      | none => event (putWave s wv (fireTimer w))
      | some i =>
        event (settleSlots (takeTrap (putWave s wv (tookTimer (breakWait (fireTimer w)))) wv { split := i, code := 0x10, tpc := (getSplit w i).pc }) wv)
    else event s

/-- R245, R246: what the issue of one instruction does to the slots of its wave. -/
def countHold (s : State) (wv : Nat) : State :=
  match tbGet? s.waves wv with
  | none => s
  | some w =>
    let q := quarterAt s w.quarter
    let s1 := putQuarter s w.quarter { q with slots := q.slots.map fun h => h.map fun x => if x.wave = wv then { x with hold := x.hold + 1 } else x }
    match holdOf (quarterAt s1 w.quarter) wv with
    | none => s1
    | some h => if h.leave || holdDue s1 wv then leaveSlots s1 wv else s1

end Sys2Proof.Machine
end

