-- ==== Sys2Proof/Machine/Dispatch.lean ====
section
/-!
DEFINITION. One arm per row of the opcode table: each calls the meaning of its row.
-/
namespace Sys2Proof.Machine

def exec (i : Instr) (s : State) : Host.Outcome State Fault Refusal :=
  match i with
  | .iadd y d a b => Sys2Proof.Machine.execIadd y d a b s
  | .isub y d a b => Sys2Proof.Machine.execIsub y d a b s
  | .imul y d a b => Sys2Proof.Machine.execImul y d a b s
  | .imulh y d a b => Sys2Proof.Machine.execImulh y d a b s
  | .imad y d a b => Sys2Proof.Machine.execImad y d a b s
  | .imin y d a b => Sys2Proof.Machine.execImin y d a b s
  | .imax y d a b => Sys2Proof.Machine.execImax y d a b s
  | .iabs y d a => Sys2Proof.Machine.execIabs y d a s
  | .and y d a b => Sys2Proof.Machine.execAnd y d a b s
  | .or y d a b => Sys2Proof.Machine.execOr y d a b s
  | .xor y d a b => Sys2Proof.Machine.execXor y d a b s
  | .shl y d a b => Sys2Proof.Machine.execShl y d a b s
  | .shr y d a b => Sys2Proof.Machine.execShr y d a b s
  | .sra y d a b => Sys2Proof.Machine.execSra y d a b s
  | .bfx y d a b => Sys2Proof.Machine.execBfx y d a b s
  | .bfi y d a b => Sys2Proof.Machine.execBfi y d a b s
  | .popc y d a => Sys2Proof.Machine.execPopc y d a s
  | .clz y d a => Sys2Proof.Machine.execClz y d a s
  | .brev y d a => Sys2Proof.Machine.execBrev y d a s
  | .sel y d a b => Sys2Proof.Machine.execSel y d a b s
  | .icmpeq y d a b => Sys2Proof.Machine.execIcmpeq y d a b s
  | .icmpne y d a b => Sys2Proof.Machine.execIcmpne y d a b s
  | .icmplt y d a b => Sys2Proof.Machine.execIcmplt y d a b s
  | .icmple y d a b => Sys2Proof.Machine.execIcmple y d a b s
  | .mov y d a => Sys2Proof.Machine.execMov y d a s
  | .movi y d imm => Sys2Proof.Machine.execMovi y d imm s
  | .movih y d imm => Sys2Proof.Machine.execMovih y d imm s
  | .iaddi y d a imm => Sys2Proof.Machine.execIaddi y d a imm s
  | .shli y d a n => Sys2Proof.Machine.execShli y d a n s
  | .shri y d a n => Sys2Proof.Machine.execShri y d a n s
  | .srai y d a n => Sys2Proof.Machine.execSrai y d a n s
  | .andi y d a imm => Sys2Proof.Machine.execAndi y d a imm s
  | .ori y d a imm => Sys2Proof.Machine.execOri y d a imm s
  | .xori y d a imm => Sys2Proof.Machine.execXori y d a imm s
  | .sadd y d a b => Sys2Proof.Machine.execSadd y d a b s
  | .ssub y d a b => Sys2Proof.Machine.execSsub y d a b s
  | .smul y d a b => Sys2Proof.Machine.execSmul y d a b s
  | .sand y d a b => Sys2Proof.Machine.execSand y d a b s
  | .sor y d a b => Sys2Proof.Machine.execSor y d a b s
  | .sxor y d a b => Sys2Proof.Machine.execSxor y d a b s
  | .sshl y d a b => Sys2Proof.Machine.execSshl y d a b s
  | .sshr y d a b => Sys2Proof.Machine.execSshr y d a b s
  | .ssra y d a b => Sys2Proof.Machine.execSsra y d a b s
  | .smov y d a => Sys2Proof.Machine.execSmov y d a s
  | .smovi y d imm => Sys2Proof.Machine.execSmovi y d imm s
  | .smovk y d imm => Sys2Proof.Machine.execSmovk y d imm s
  | .saddi y d a imm => Sys2Proof.Machine.execSaddi y d a imm s
  | .sseq y d a b => Sys2Proof.Machine.execSseq y d a b s
  | .sslt y d a b => Sys2Proof.Machine.execSslt y d a b s
  | .ssltu y d a b => Sys2Proof.Machine.execSsltu y d a b s
  | .vtos y d a => Sys2Proof.Machine.execVtos y d a s
  | .fadd y d a b => Sys2Proof.Machine.execFadd y d a b s
  | .fsub y d a b => Sys2Proof.Machine.execFsub y d a b s
  | .fmul y d a b => Sys2Proof.Machine.execFmul y d a b s
  | .ffma y d a b => Sys2Proof.Machine.execFfma y d a b s
  | .fmin y d a b => Sys2Proof.Machine.execFmin y d a b s
  | .fmax y d a b => Sys2Proof.Machine.execFmax y d a b s
  | .fabs y d a => Sys2Proof.Machine.execFabs y d a s
  | .fneg y d a => Sys2Proof.Machine.execFneg y d a s
  | .fcmpeq y d a b => Sys2Proof.Machine.execFcmpeq y d a b s
  | .fcmplt y d a b => Sys2Proof.Machine.execFcmplt y d a b s
  | .fcmple y d a b => Sys2Proof.Machine.execFcmple y d a b s
  | .fcmpun y d a b => Sys2Proof.Machine.execFcmpun y d a b s
  | .frcp y d a => Sys2Proof.Machine.execFrcp y d a s
  | .frsq y d a => Sys2Proof.Machine.execFrsq y d a s
  | .fsqrt y d a => Sys2Proof.Machine.execFsqrt y d a s
  | .fexp2 y d a => Sys2Proof.Machine.execFexp2 y d a s
  | .flog2 y d a => Sys2Proof.Machine.execFlog2 y d a s
  | .fsinpi y d a => Sys2Proof.Machine.execFsinpi y d a s
  | .fcospi y d a => Sys2Proof.Machine.execFcospi y d a s
  | .fcvt y d a ty => Sys2Proof.Machine.execFcvt y d a ty s
  | .icvtf y d a => Sys2Proof.Machine.execIcvtf y d a s
  | .fcvti y d a => Sys2Proof.Machine.execFcvti y d a s
  | .fclass y d a => Sys2Proof.Machine.execFclass y d a s
  | .fscale y d a b => Sys2Proof.Machine.execFscale y d a b s
  | .frnd y d a => Sys2Proof.Machine.execFrnd y d a s
  | .dot4 y d a b => Sys2Proof.Machine.execDot4 y d a b s
  | .dot8 y d a b => Sys2Proof.Machine.execDot8 y d a b s
  | .dot2f y d a b => Sys2Proof.Machine.execDot2f y d a b s
  | .qscale y d a b => Sys2Proof.Machine.execQscale y d a b s
  | .pack y d a e => Sys2Proof.Machine.execPack y d a e s
  | .unpk y d a e => Sys2Proof.Machine.execUnpk y d a e s
  | .mand y d a b => Sys2Proof.Machine.execMand y d a b s
  | .mor y d a b => Sys2Proof.Machine.execMor y d a b s
  | .mxor y d a b => Sys2Proof.Machine.execMxor y d a b s
  | .mandn y d a b => Sys2Proof.Machine.execMandn y d a b s
  | .mtos y d a hi => Sys2Proof.Machine.execMtos y d a hi s
  | .stom y d a hi => Sys2Proof.Machine.execStom y d a hi s
  | .mpopc y d a => Sys2Proof.Machine.execMpopc y d a s
  | .mfirst y d a => Sys2Proof.Machine.execMfirst y d a s
  | .shfl y d a b => Sys2Proof.Machine.execShfl y d a b s
  | .shflx y d a b => Sys2Proof.Machine.execShflx y d a b s
  | .qswap y d a k => Sys2Proof.Machine.execQswap y d a k s
  | .qbcast y d a l => Sys2Proof.Machine.execQbcast y d a l s
  | .redadd y d a => Sys2Proof.Machine.execRedadd y d a s
  | .redmin y d a => Sys2Proof.Machine.execRedmin y d a s
  | .redmax y d a => Sys2Proof.Machine.execRedmax y d a s
  | .scanadd y d a => Sys2Proof.Machine.execScanadd y d a s
  | .mset y imm => Sys2Proof.Machine.execMset y imm s
  | .mseth y imm => Sys2Proof.Machine.execMseth y imm s
  | .mrd y d => Sys2Proof.Machine.execMrd y d s
  | .mwr y a => Sys2Proof.Machine.execMwr y a s
  | .rdspec y d sel => Sys2Proof.Machine.execRdspec y d sel s
  | .cwrd y d w => Sys2Proof.Machine.execCwrd y d w s
  | .cwwr y d w => Sys2Proof.Machine.execCwwr y d w s
  | .thset y d a b => Sys2Proof.Machine.execThset y d a b s
  | .ifM y m o => Sys2Proof.Machine.execIfM y m o s
  | .elseM y o => Sys2Proof.Machine.execElseM y o s
  | .endif y => Sys2Proof.Machine.execEndif y s
  | .loop y o => Sys2Proof.Machine.execLoop y o s
  | .brk y m n => Sys2Proof.Machine.execBrk y m n s
  | .cont y m n => Sys2Proof.Machine.execCont y m n s
  | .endloop y o => Sys2Proof.Machine.execEndloop y o s
  | .jmp y o => Sys2Proof.Machine.execJmp y o s
  | .brs y x o => Sys2Proof.Machine.execBrs y x o s
  | .brany y m o => Sys2Proof.Machine.execBrany y m o s
  | .brall y m o => Sys2Proof.Machine.execBrall y m o s
  | .jmpx y a => Sys2Proof.Machine.execJmpx y a s
  | .merge y => Sys2Proof.Machine.execMerge y s
  | .exit y => Sys2Proof.Machine.execExit y s
  | .nop y => Sys2Proof.Machine.execNop y s
  | .yield y => Sys2Proof.Machine.execYield y s
  | .call y o => Sys2Proof.Machine.execCall y o s
  | .callx y a => Sys2Proof.Machine.execCallx y a s
  | .ret y => Sys2Proof.Machine.execRet y s
  | .frame y nin nloc nout => Sys2Proof.Machine.execFrame y nin nloc nout s
  | .wflush y => Sys2Proof.Machine.execWflush y s
  | .rdlink y d => Sys2Proof.Machine.execRdlink y d s
  | .wrlink y a => Sys2Proof.Machine.execWrlink y a s
  | .trap y imm => Sys2Proof.Machine.execTrap y imm s
  | .tret y => Sys2Proof.Machine.execTret y s
  | .region y => Sys2Proof.Machine.execRegion y s
  | .regend y => Sys2Proof.Machine.execRegend y s
  | .bar y n => Sys2Proof.Machine.execBar y n s
  | .bararv y n => Sys2Proof.Machine.execBararv y n s
  | .barwt y n => Sys2Proof.Machine.execBarwt y n s
  | .tmset y a => Sys2Proof.Machine.execTmset y a s
  | .ld y d a s6 z => Sys2Proof.Machine.execLd y d a s6 z s
  | .st y d a s6 z => Sys2Proof.Machine.execSt y d a s6 z s
  | .lds y d a s6 z => Sys2Proof.Machine.execLds y d a s6 z s
  | .sts y d a s6 z => Sys2Proof.Machine.execSts y d a s6 z s
  | .ldu y d a z imm => Sys2Proof.Machine.execLdu y d a z imm s
  | .stu y d a z imm => Sys2Proof.Machine.execStu y d a z imm s
  | .atom y d a s6 ord wide => Sys2Proof.Machine.execAtom y d a s6 ord wide s
  | .atoms y d a s6 ord wide => Sys2Proof.Machine.execAtoms y d a s6 ord wide s
  | .lda y d a s6 z => Sys2Proof.Machine.execLda y d a s6 z s
  | .strel y d a s6 z => Sys2Proof.Machine.execStrel y d a s6 z s
  | .fence y z => Sys2Proof.Machine.execFence y z s
  | .cflush y a s6 => Sys2Proof.Machine.execCflush y a s6 s
  | .cinv y a s6 => Sys2Proof.Machine.execCinv y a s6 s
  | .pref y a s6 z => Sys2Proof.Machine.execPref y a s6 z s
  | .srcfg y d => Sys2Proof.Machine.execSrcfg y d s
  | .spcfg y d => Sys2Proof.Machine.execSpcfg y d s
  | .haar y d a s6 => Sys2Proof.Machine.execHaar y d a s6 s
  | .ihaar y d a s6 => Sys2Proof.Machine.execIhaar y d a s6 s
  | .thr y d a th => Sys2Proof.Machine.execThr y d a th s
  | .tst y d a s6 th => Sys2Proof.Machine.execTst y d a s6 th s
  | .tld y d a s6 => Sys2Proof.Machine.execTld y d a s6 s
  | .tldq y a s6 => Sys2Proof.Machine.execTldq y a s6 s
  | .tbias y d a s6 => Sys2Proof.Machine.execTbias y d a s6 s
  | .trecon y d a s6 => Sys2Proof.Machine.execTrecon y d a s6 s
  | .tact y d a s6 fn => Sys2Proof.Machine.execTact y d a s6 fn s
  | .mma y d a b => Sys2Proof.Machine.execMma y d a b s
  | .mmax y d a b => Sys2Proof.Machine.execMmax y d a b s
  | .mmaq y d b => Sys2Proof.Machine.execMmaq y d b s
  | .mzero y d a => Sys2Proof.Machine.execMzero y d a s
  | .mrda y d a b => Sys2Proof.Machine.execMrda y d a b s
  | .mwra y d a b => Sys2Proof.Machine.execMwra y d a b s
  | .mlayout y a => Sys2Proof.Machine.execMlayout y a s
  | .mldb y d s6 => Sys2Proof.Machine.execMldb y d s6 s
  | .cpy y d a s6 => Sys2Proof.Machine.execCpy y d a s6 s
  | .cpyg y d a s6 q => Sys2Proof.Machine.execCpyg y d a s6 q s
  | .cpys y d a s6 q => Sys2Proof.Machine.execCpys y d a s6 q s
  | .cpyb y d a s6 q => Sys2Proof.Machine.execCpyb y d a s6 q s
  | .cpym y d a s6 q => Sys2Proof.Machine.execCpym y d a s6 q s
  | .batch y d => Sys2Proof.Machine.execBatch y d s
  | .bwait y a => Sys2Proof.Machine.execBwait y a s
  | .rnginit y a => Sys2Proof.Machine.execRnginit y a s
  | .rwait y a => Sys2Proof.Machine.execRwait y a s
  | .rrel y a => Sys2Proof.Machine.execRrel y a s
  | .rarrv y a b => Sys2Proof.Machine.execRarrv y a b s
  | .qpush y q a => Sys2Proof.Machine.execQpush y q a s
  | .qpop y d q => Sys2Proof.Machine.execQpop y d q s
  | .qpeek y d q => Sys2Proof.Machine.execQpeek y d q s
  | .qcnt y d q => Sys2Proof.Machine.execQcnt y d q s
  | .bscn y a => Sys2Proof.Machine.execBscn y a s
  | .bcfg y a => Sys2Proof.Machine.execBcfg y a s
  | .apnd y a b => Sys2Proof.Machine.execApnd y a b s
  | .tdone y a => Sys2Proof.Machine.execTdone y a s
  | .launch y a => Sys2Proof.Machine.execLaunch y a s
  | .wlcfg y a => Sys2Proof.Machine.execWlcfg y a s
  | .wquiet y d => Sys2Proof.Machine.execWquiet y d s
  | .variableResultReturn wv idx => Sys2Proof.Machine.execVariableResultReturn wv idx s
  | .slotGrant q slot => Sys2Proof.Machine.execSlotGrant q slot s
  | .holdCountDisplace wv => Sys2Proof.Machine.execHoldCountDisplace wv s
  | .classDisplace wv => Sys2Proof.Machine.execClassDisplace wv s
  | .spinQuantumExpiry wv => Sys2Proof.Machine.execSpinQuantumExpiry wv s
  | .mergeWaitExpiry wv => Sys2Proof.Machine.execMergeWaitExpiry wv s
  | .leftoverRespawn wv sp => Sys2Proof.Machine.execLeftoverRespawn wv sp s
  | .timerFire wv => Sys2Proof.Machine.execTimerFire wv s
  | .tableWalk core island asid va kind => Sys2Proof.Machine.execTableWalk core island asid va kind s
  | .replicatedCommit idx => Sys2Proof.Machine.execReplicatedCommit idx s
  | .replicatedStall idx => Sys2Proof.Machine.execReplicatedStall idx s
  | .poisonedWrite line => Sys2Proof.Machine.execPoisonedWrite line s
  | .impreciseEvent wv idx => Sys2Proof.Machine.execImpreciseEvent wv idx s
  | .windowSpill wv => Sys2Proof.Machine.execWindowSpill wv s
  | .windowRefill wv => Sys2Proof.Machine.execWindowRefill wv s
  | .windowRefillAhead wv => Sys2Proof.Machine.execWindowRefillAhead wv s
  | .copyCommandStart core idx => Sys2Proof.Machine.execCopyCommandStart core idx s
  | .copyPiece core idx piece => Sys2Proof.Machine.execCopyPiece core idx piece s
  | .collectiveCopyStart g key => Sys2Proof.Machine.execCollectiveCopyStart g key s
  | .cpymHop core idx piece => Sys2Proof.Machine.execCpymHop core idx piece s
  | .beamAccept g => Sys2Proof.Machine.execBeamAccept g s
  | .beamTraversalStep g idx => Sys2Proof.Machine.execBeamTraversalStep g idx s
  | .rayEmit g idx => Sys2Proof.Machine.execRayEmit g idx s
  | .fragmentEmit g idx => Sys2Proof.Machine.execFragmentEmit g idx s
  | .beamRetire g beam => Sys2Proof.Machine.execBeamRetire g beam s
  | .tldqRowPush core => Sys2Proof.Machine.execTldqRowPush core s
  | .tileInstructionComplete core => Sys2Proof.Machine.execTileInstructionComplete core s
  | .matrixCommandExecute q => Sys2Proof.Machine.execMatrixCommandExecute q s
  | .mmaqPass q => Sys2Proof.Machine.execMmaqPass q s
  | .appendRecord wv => Sys2Proof.Machine.execAppendRecord wv s
  | .batchTimerExpiry island graph node => Sys2Proof.Machine.execBatchTimerExpiry island graph node s
  | .successorAppend island graph => Sys2Proof.Machine.execSuccessorAppend island graph s
  | .taskControlBlockWrite island => Sys2Proof.Machine.execTaskControlBlockWrite island s
  | .launchDoorbellWrite island cls tail => Sys2Proof.Machine.execLaunchDoorbellWrite island cls tail s
  | .launchEntryRead island cls => Sys2Proof.Machine.execLaunchEntryRead island cls s
  | .groupResidency what core => Sys2Proof.Machine.execGroupResidency what core s
  | .atollGroupMove g core => Sys2Proof.Machine.execAtollGroupMove g core s
  | .realTimeRelease launch => Sys2Proof.Machine.execRealTimeRelease launch s
  | .deadlineMiss launch => Sys2Proof.Machine.execDeadlineMiss launch s
  | .groupEnd g => Sys2Proof.Machine.execGroupEnd g s
  | .clusterReclaim cluster => Sys2Proof.Machine.execClusterReclaim cluster s
  | .reclaimSwap cluster => Sys2Proof.Machine.execReclaimSwap cluster s
  | .reclaimForcedReset cluster => Sys2Proof.Machine.execReclaimForcedReset cluster s
  | .contextSave cluster => Sys2Proof.Machine.execContextSave cluster s
  | .contextRestore cluster => Sys2Proof.Machine.execContextRestore cluster s
  | .faultresResolved island slot => Sys2Proof.Machine.execFaultresResolved island slot s
  | .faultresUnresolvable island slot => Sys2Proof.Machine.execFaultresUnresolvable island slot s
  | .tlbinvPage island va => Sys2Proof.Machine.execTlbinvPage island va s
  | .tlbinvNonglobal island => Sys2Proof.Machine.execTlbinvNonglobal island s
  | .tlbinvAll island => Sys2Proof.Machine.execTlbinvAll island s
  | .tlbinvComplete island => Sys2Proof.Machine.execTlbinvComplete island s
  | .faultQueueHeadWrite island head => Sys2Proof.Machine.execFaultQueueHeadWrite island head s
  | .islandTableWrite island bytes => Sys2Proof.Machine.execIslandTableWrite island bytes s
  | .esctWrite island value => Sys2Proof.Machine.execEsctWrite island value s
  | .evqWindowRead island => Sys2Proof.Machine.execEvqWindowRead island s
  | .registerWrite addr value => Sys2Proof.Machine.execRegisterWrite addr value s
  | .seal island => Sys2Proof.Machine.execSeal island s
  | .unseal island => Sys2Proof.Machine.execUnseal island s
  | .quote island nonce => Sys2Proof.Machine.execQuote island nonce s
  | .cert => Sys2Proof.Machine.execCert s
  | .hostCxlMemAccess addr acc => Sys2Proof.Machine.execHostCxlMemAccess addr acc s
  | .hostSnoop addr acc => Sys2Proof.Machine.execHostSnoop addr acc s
  | .flitRetry link => Sys2Proof.Machine.execFlitRetry link s
  | .linkDownPoison line => Sys2Proof.Machine.execLinkDownPoison line s
  | .pwrctlReqRun sideband => Sys2Proof.Machine.execPwrctlReqRun sideband s
  | .pwrctlReqDoze sideband => Sys2Proof.Machine.execPwrctlReqDoze sideband s
  | .pwrctlReqWatch sideband => Sys2Proof.Machine.execPwrctlReqWatch sideband s
  | .dozeEntry => Sys2Proof.Machine.execDozeEntry s
  | .dozeWake => Sys2Proof.Machine.execDozeWake s
  | .watchEntry => Sys2Proof.Machine.execWatchEntry s
  | .watchWake good mods => Sys2Proof.Machine.execWatchWake good mods s
  | .powerOnBoot good mods => Sys2Proof.Machine.execPowerOnBoot good mods s
  | .debugFreeze => Sys2Proof.Machine.execDebugFreeze s
  | .debugUnfreeze => Sys2Proof.Machine.execDebugUnfreeze s
  | .freezePin => Sys2Proof.Machine.execFreezePin s
  | .illegalInstruction word => Sys2Proof.Machine.execIllegalInstruction word s
  | .pushesComplete wv => Sys2Proof.Machine.execPushesComplete wv s
  | .peerDeviceAccess addr acc => Sys2Proof.Machine.execPeerDeviceAccess addr acc s
  | .powerRemoval => Sys2Proof.Machine.execPowerRemoval s

end Sys2Proof.Machine
end

