-- ==== Sys2Proof/Machine/Barrel.lean ====
section
/-!
DEFINITION. One step of the machine: a listed move of another agent, a move that falls due by the clock, or the visit of one quarter's slot
of the barrel (R24, R25), with the fetch (R351), the decode (R53) and the issue of one instruction; and the end of a clock (R386, R387, R391).
-/
namespace Sys2Proof.Machine

/-! Fetch. -/
inductive Fetched where
  | word (w : Nat)
  /-- R212: the line, at this address, is poisoned. -/
  | poisoned (line : Nat)
  | absent (level : Nat)
  /-- With the translation word (R354), 0 where no walk stopped. -/
  | denied (trans : Nat)
  /-- R207, R210: the line is owned or locked. -/
  | held (w : Wait)
  deriving DecidableEq, Repr

/-- R351, R168: the word at an address, read as a one-lane read with ACCESS 3. -/
def fetchWord (s : State) (q : Asker) (pc : Nat) : State × Fetched :=
  if (apertureOff s q.isl pc).isSome then (s, .denied 0)
  else match translate s q.core q.isl pc 3 q.priv with
    | (s1, .ok pa _) =>
      if (lineWait s1 (pa / 128)).isSome then (s1, .held ((lineWait s1 (pa / 128)).getD .no))
      else if isPoisoned s1 (pa / 128) && !rewritten s1 q.core (pa / 128) then (s1, .poisoned (pa / 128 * 128))
      else (s1, .word (leNat ((List.range 4).map fun j => (viewByte s1 q.core q.isl (pa + j)).toNat)))
    | (s1, .absent l) => (s1, .absent l)
    | (s1, .held l) => (s1, .held (.replica l))
    | (s1, .prot r l) => (s1, .denied (transWord 6 3 r l))

/-- R24: the instructions that issue in one pass: the scalar ones, and those whose rule says so. For an instruction that neither acts per lane nor
has such a rule the spec gives no count: those listed here take one pass, the others (QPEEK among them) W/32 (DESIGN CHOICE, log 16). -/
def onePass : Instr → Bool
  | .sadd .. | .ssub .. | .smul .. | .sand .. | .sor .. | .sxor .. | .sshl .. | .sshr .. | .ssra .. | .smov .. | .smovi .. | .smovk ..
  | .saddi .. | .sseq .. | .sslt .. | .ssltu .. | .vtos .. | .mand .. | .mor .. | .mxor .. | .mandn .. | .mtos .. | .stom .. | .mpopc ..
  | .mfirst .. | .mset .. | .mseth .. | .mrd .. | .mwr .. | .cwrd .. | .cwwr .. | .thset .. | .tmset .. | .frame ..
  | .wflush .. | .rdlink .. | .wrlink .. | .trap .. | .tret .. | .region .. | .regend .. | .bar .. | .bararv .. | .barwt .. | .ldu .. | .stu ..
  | .fence .. | .srcfg .. | .spcfg .. | .mzero .. | .mlayout .. | .cpy .. | .cpyb .. | .cpym .. | .batch .. | .bwait ..
  | .rnginit .. | .rwait .. | .rrel .. | .rarrv .. | .qcnt .. | .bscn .. | .bcfg .. | .tdone .. | .launch .. | .wlcfg .. | .wquiet .. => true
  | _ => false
/-- R116, R376: a split that parked on the window issues its instruction again, and keeps its place among the splits parked there. -/
def comeBack (x : Split) : Split := match x.park.kind with
  | .no => x
  | _ => { x with park := { since := x.park.since, back := true } }
/-- R24, R26, R32: split `sp` issues in `n` passes from this clock on: what its wave waited for is over. -/
def beginIssue (s : State) (wv sp n : Nat) : State :=
  let stop := s.dev.cycle + n
  let s1 := onWave s wv fun w =>
    let w1 := putSplit w sp (comeBack (getSplit w sp))
    { w1 with ctl := { w1.ctl with wait := .no, markAfter := false, lastSplit := sp },
              tim := { w1.tim with passEnd := stop, nextIssue := s.dev.cycle + 8 } }
  let k := (waveAt s wv).quarter
  { putQuarter s1 k { quarterAt s1 k with passEnd := stop } with cur := some (wv, sp) }
/-- R24: the passes of an instruction of a wave; a word that is no instruction takes its trap in the first. -/
def passCount (s : State) (wv word : Nat) : Nat := match decodeBytes (wordBytes word) with
  | .ok (i, _) => if onePass i then 1 else max (slotCount (waveAt s wv)) 1
  | .error _ => 1
/-- After an issue of wave `old`: its slots (R245, R246), and the values that it has overwritten (R119). -/
def endIssue (wv : Nat) (old : Wave) (s : State) : State := { countHold (onWave s wv (noteHeld old)) wv with cur := none }
def onNext (f : State → State) : Result' → Result'
  | .next s => .next (f s)
  | .fault r => .fault r
  | .refused r => .refused r

/-- R351: a fetch that meets a page that is not present; a replay that it belongs to (R195) goes on afterwards. -/
def fetchFault (s : State) (wv sp pc level : Nat) : State :=
  let w := waveAt s wv
  let (s1, slot) := placeWaiting s (islandOf s w)
    { code := 0x0F, who := whoWord w sp, addr := pc, pc := pc, trans := transWord 6 3 0 level, block := (launchOf s w).addr }
  settleSlots (onWave s1 wv fun w =>
    { w with evt := { w.evt with replay := 0, refetch := if w.evt.replaying then some w.evt.replay else none },
             ctl := { w.ctl with wait := .fault slot, waitSplit := sp } }) wv

/-- R212: a fetch from a poisoned line, read as a load of its wave, leaves the imprecise poison event; the word is a free value. -/
def fetchPoison (s : State) (wv sp pc line : Nat) : State :=
  onWave { s with free := s.free + 1 } wv fun w =>
    { w with evt := { w.evt with imprecise := w.evt.imprecise ++
      [{ split := sp, code := 0x12, kind := 10, addr := line, pc := pc, lanes := liveLanes w sp, opened := w.evt.openings }] } }
/-- R53: the instruction of a word runs; a word that is no instruction takes the illegal-instruction trap. -/
def runWord (word : Nat) (s : State) : Result' := match decodeBytes (wordBytes word) with
  | .ok (i, _) => exec i s
  | .error _ => execIllegalInstruction word s

/-- Fetch, decode and issue of one split. -/
def issueSplit (s : State) (wv sp : Nat) : Result' :=
  let pc := (getSplit (waveAt s wv) sp).pc
  match fetchWord s (askerOf s wv) pc with
  | (s1, .word w) => onNext (endIssue wv (waveAt s wv)) (runWord w (beginIssue s1 wv sp (passCount s1 wv w)))
  | (s1, .poisoned a) =>
    let w := Config.anyValue s1.free pc % 2 ^ 32
    onNext (endIssue wv (waveAt s wv)) (runWord w (beginIssue (fetchPoison s1 wv sp pc a) wv sp (passCount s1 wv w)))
  | (s1, .absent l) => .next (endIssue wv (waveAt s wv) (fetchFault (beginIssue s1 wv sp 1) wv sp pc l))
  | (s1, .denied tr) =>
    .next (endIssue wv (waveAt s wv) (settleSlots (takeTrap (beginIssue s1 wv sp 1) wv { split := sp, code := 0x02, tpc := pc, taddr := pc, trans := tr }) wv))
  | (s1, .held wt) =>
    .next (endIssue wv (waveAt s wv) (settleSlots (onWave (beginIssue s1 wv sp 1) wv fun w => { w with ctl := { w.ctl with wait := wt, waitSplit := sp } }) wv))

/-! Moves that fall due by the clock. -/
/-- What falls due for one wave: an imprecise event, a timer, a spin quantum, a MERGE wait, a leftover. -/
def waveDue (s : State) (wv : Nat) (w : Wave) : Option Instr :=
  if (imprecisePlace w).isSome then some (.impreciseEvent wv ((imprecisePlace w).getD 0))
  else if timerRuns w || (w.tim.fired && (timerSplit s wv w).isSome) then some (.timerFire wv)
  else if w.ctl.wait == .spin && decide (w.tim.spinUntil ≤ w.tim.wtime) then some (.spinQuantumExpiry wv)
  else match (liveSplits w).find? (mayRespawn w) with
    | some i => some (.leftoverRespawn wv i)
    | none => if mergeExpired w then some (.mergeWaitExpiry wv) else none
/-- What falls due on a quarter. -/
def quarterDue (s : State) (k : Nat) : Option Instr :=
  let mine := s.waves.filter fun e => e.2.quarter == k && !halted s e.2
  match mine.findSome? fun e => waveDue s e.1 e.2 with
  | some i => some i
  | none => match mine.find? fun e => (displaceGroup s e.1 e.2).isSome with
    | some e => some (.classDisplace e.1)
    | none => none

/-- A cluster's part in a reclaim that falls due (R408, R410). -/
def clusterDue (s : State) (cl : Nat) : Option Instr :=
  if reclaimDue s cl then some (.clusterReclaim cl)
  else if swapDue s cl then some (.reclaimSwap cl)
  else if resetDue s cl then some (.reclaimForcedReset cl)
  else if saveDue s cl then some (.contextSave cl)
  else if restoreDue s cl then some (.contextRestore cl)
  else none
/-- R339: a batch timer of an island that has expired. -/
def timerDue (s : State) (isl : Nat) (i : Island) : Option Instr := i.graphs.findSome? fun e =>
  (List.range e.2.lists.length).findSome? fun n => match (e.2.lists.getD n {}).timer with
    | some t => if !(e.2.lists.getD n {}).recs.isEmpty && decide (t + nodeTimeout e.2 n ≤ s.dev.cycle) then some (.batchTimerExpiry isl e.1 n) else none
    | none => none
/-- R404: fault records that waited for their events are placed; the same head leaves the queue as it is otherwise. -/
def islandDue (s : State) (isl : Nat) (i : Island) : Option Instr :=
  if fillDue i then some (.faultQueueHeadWrite isl i.fqHead) else timerDue s isl i
/-- R243: a launch whose release or deadline falls due. -/
def launchDue (s : State) (id : Nat) (l : Launch) : Option Instr :=
  if releaseDue s l then some (.realTimeRelease id) else if missDue s l then some (.deadlineMiss id) else none
/-- R242: a group that halted for a move, and can move now or need not any more. -/
def moveDue (s : State) (g : Nat) (gr : Group) : Option Instr := gr.moving.bind fun core =>
  if movable s g || !(mayMove s g && moveFits s g core) then some (.atollGroupMove g core) else none
/-- R210: a lock that has lasted longer than the island's bound. -/
def stallDue (s : State) : Option Nat :=
  s.dev.commits.findIdx? fun k => !k.reported && decide ((islandAt s k.island).repstall < s.dev.cycle - k.start)
/-- A copy piece of a core that falls due: what it could not do at issue (R198, R207), at once, or, at the start of a clock, an arrival that its
command owes (R286). -/
def copyDue (s : State) (core : Nat) (cs : List CopyCmd) : Option Instr :=
  (List.range cs.length).findSome? fun idx =>
    let c := cs.getD idx {}
    if s.turn == 0 && !c.owed.isEmpty then some (.copyPiece core idx 0)
    else if !c.owed.isEmpty then none
    else (c.pieces.findIdx? (settles s core c)).map fun i => .copyPiece core idx i
/-- What falls due on the hub die, at the start of a clock; what a copy piece could not do at issue falls due at any time. -/
def deviceDue (s : State) : Option Instr :=
  (s.cores.findSome? fun e => copyDue s e.1 e.2.copies).orElse fun _ =>
    if s.turn ≠ 0 then none
    else ((stallDue s).map .replicatedStall).orElse fun _ =>
      (s.launches.findSome? fun e => launchDue s e.1 e.2).orElse fun _ =>
        (s.islands.findSome? fun e => islandDue s e.1 e.2).orElse fun _ =>
          (s.clusters.findSome? fun e => clusterDue s e.1).orElse fun _ => s.groups.findSome? fun e => moveDue s e.1 e.2

/-- R346: an island with a graph that is found quiet, or no longer so: the detector looks at its graphs. -/
def quietDue (s : State) : Option Nat :=
  (s.islands.find? fun e => e.2.graphs.any fun g => isQuiet s e.1 g.1 g.2 != g.2.quiet).map (·.1)

/-! The end of a clock. -/
def countPark (w : Wave) (i : Nat) : Wave :=
  let x := getSplit w i
  if x.park.kind = .no ∨ x.held then w else putSplit w i { x with park := { x.park with clocks := x.park.clocks + 1 } }
/-- R373, R387: one resident clock of a wave. -/
def clockWave (w : Wave) : Wave :=
  let w1 := (liveSplits w).foldl countPark w
  { w1 with tim := { w1.tim with wtime := (w.tim.wtime + 1) % 2 ^ 64 } }
/-- R263, R391: the matrix array of a quarter waits for entries. -/
def feedEmpty (s : State) (k : Nat) : Bool := match (quarterAt s k).queue with
  | m :: _ => m.op == .mmaq && m.started && (quarterAt s k).feed.isEmpty
  | [] => false
/-- R259, R391: a TLDQ at the head of the pipe waits for room, or for a QPUSH that is ahead of it. -/
def feedFull (s : State) (core : Nat) : Bool := match (coreAt s core).pipe with
  | j :: _ => j.isFeed && j.res == 0 && !j.rows.isEmpty && (decide (128 ≤ (quarterAt s j.quarter).feed.length) || lineAhead s j.quarter j.cmd)
  | [] => false
/-- R391: how much counter 0x040 + n of a core rises on a clock. -/
def stallRise (s : State) (core n : Nat) : Nat :=
  let mine := s.waves.filter fun e => e.2.quarter / 4 == core && !(groupAt s e.2.group).away
  let per (p : Wave → Bool) : Nat := (mine.filter fun e => p e.2).length
  let slot (k : Nat) : Option SlotHold := (quarterAt s (core * 4 + k)).slots.getD (s.dev.cycle % 8) none
  let used (k : Nat) : Bool := decide (s.dev.cycle < (quarterAt s (core * 4 + k)).passEnd)
  let gs := (groupsOn s core).map (·.2)
  if n < 4 then b2n (feedEmpty s (core * 4 + n))
  else if 4 ≤ n ∧ n < 8 then match slot (n - 4) with
    | some h => b2n (!used (n - 4) && !(waveReady s h.wave (waveAt s h.wave)))
    | none => 0
  else if 8 ≤ n ∧ n < 12 then b2n (!used (n - 8) && (slot (n - 8)).isNone)
  else if 12 ≤ n ∧ n < 16 then (mine.filter fun e => e.2.quarter % 4 == n - 12 && !(roomParks e.2).isEmpty).length
  else match n with
    | 0x10 => per fun w => w.ctl.wait == .copyQueue && decide (32 ≤ copiesQueued s core)
    | 0x11 => b2n ((coreAt s core).copies.any fun c => c.pieces.any fun p => p.fault.isSome)
    | 0x12 => b2n ((coreAt s core).copies.any (fifoBlocked (clusterAt s (core / 8))))
    | 0x13 => b2n (feedFull s core)
    | 0x14 => (mine.filter fun e => ((coreAt s core).pipe.drop 1).any fun j => j.wave == e.1 && j.res != 0).length
    | 0x15 => b2n (gs.any emitStalled)
    | 0x16 => b2n (gs.any fun g => !poolRoom g && (!g.roots.isEmpty || g.pool.any fun e => !e.wait.isEmpty))
    | 0x17 => b2n ((groupsOn s core).any fun e => e.2.pool.any fun x => x.fault.isSome || readHeld s e.1 x)
    | 0x18 => per fun w => w.ctl.wait == .append && ((graphOf s (islandOf s w) w.apnd.graph).any fun g => (freeBlocks g).isEmpty)
    | 0x19 => per fun w => match w.ctl.wait with
      | .recall l => isOwned s l
      | _ => false
    | 0x1A => per fun w => match w.ctl.wait with
      | .replica l => isLocked s l
      | _ => false
    | 0x1B => per fun w => match w.ctl.wait with
      | .barrier _ => true
      | .arrival => true
      | _ => false
    | 0x1C => per fun w => decide (w.tim.wtime < w.tim.spinUntil)
    | _ => 0
def clockCore (s : State) (k : Nat) (c : Core) : Core :=
  { c with stalls := (List.range 32).foldl (fun m n => spSet 0 m n ((spGet 0 m n + stallRise s k n) % 2 ^ 64)) c.stalls }
/-- R412: the corrected-error count at the end of a clock; how many errors the agents have met and corrected on it is a free value. -/
def correctedNow (s : State) : Nat := (s.dev.corrected + Config.anyValue s.free (2 ^ 24)) % 2 ^ 64
/-- R386, R387, R391, R412: the clock ends. -/
def endClock (s : State) : State :=
  { s with
    turn := 0
    free := s.free + 1
    dev := { s.dev with cycle := (s.dev.cycle + 1) % 2 ^ 64, corrected := correctedNow s }
    cores := tbMap (clockCore s) s.cores
    waves := tbMap (fun wv w =>
      let w1 := if (groupAt s w.group).away then w else clockWave w
      { w1 with tim := { w1.tim with ready := waveReady s wv w, fresh := 0 } }) s.waves }

/-! The barrel. -/
/-- R111: a wave of the quarter whose window is stuck, and the trap that its first split takes. -/
def stuckWave (s : State) (k : Nat) : Option Nat :=
  (s.waves.find? fun e => e.2.quarter == k && !halted s e.2 && (windowStuck e.2).isSome).map (·.1)
def settleWindow (s : State) (wv : Nat) : State := settleSlots (checkWindow s wv) wv
/-- The first slot of a wave: its instructions issue there (R24). -/
def firstSlot (q : Quarter) (wv : Nat) : Nat := (q.slots.findIdx? fun h => match h with
  | some x => x.wave == wv
  | none => false).getD 8
/-- R24 to R26: the wave that issues in a slot now. -/
def issuer (s : State) (q : Quarter) (slot : Nat) : Option Nat :=
  match q.slots.getD slot none with
  | none => none
  | some h =>
    let w := waveAt s h.wave
    if firstSlot q h.wave = slot && decide (w.tim.nextIssue ≤ s.dev.cycle) && waveReady s h.wave w then some h.wave else none
/-- R24, R25: the visit of one quarter in one clock. -/
def visit (s : State) (k : Nat) : Result' :=
  let slot := s.dev.cycle % 8
  match quarterDue s k with
  | some i => exec i s
  | none =>
    if (stuckWave s k).isSome then .next (settleWindow s ((stuckWave s k).getD 0))
    else if (grantee s k slot).isSome then exec (.slotGrant k slot) s
    else
      let t : State := { s with turn := s.turn + 1 }
      match issuer s (quarterAt s k) slot with
      | none => .next t
      | some wv => match chooseSplit (waveAt s wv) with
        | none => .next t
        | some sp => issueSplit t wv sp

/-- An agenda entry is a move of another agent; a word has no place there. -/
def isEvent (i : Instr) : Bool := (encode i).isNone
/-- R414, R426: the clocks of the compute dies run. -/
def clocksRun (s : State) : Bool := !s.dev.frozen && s.dev.pwrState == 0
/-- R414: what acts on a frozen device, in which the skerry and the debug port run; every other agent's move is held. -/
def actsFrozen : Instr → Bool
  | .debugFreeze => true
  | .debugUnfreeze => true
  | .freezePin => true
  | .powerRemoval => true
  | .pwrctlReqRun sideband => sideband
  | .pwrctlReqDoze sideband => sideband
  | .pwrctlReqWatch sideband => sideband
  | .registerWrite addr _ => decide (2 ^ 26 ≤ addr)
  | _ => false
/-- R414: a step of a frozen device. -/
def frozenStep (s : State) : Result' := match s.agenda.findIdx? actsFrozen with
  | none => .next s
  | some k => exec (s.agenda.getD k .cert) { s with agenda := s.agenda.eraseIdx k }
/-- R386, R391, R426: a step of a device that is not in run: clocks go by in doze, with every slot vacant. -/
def idleStep (s : State) : Result' :=
  if wakeDue s then execDozeWake s
  else if watchDue s then execWatchEntry s
  else if s.dev.pwrState = 1 then .next (endClock s)
  else .next s
/-- One step. -/
def stepOnce (s : State) : Result' :=
  if s.dev.frozen then frozenStep s
  else if (quietDue s).isSome then .next (graphSweep s ((quietDue s).getD 0))
  else match s.agenda with
  | i :: t => if isEvent i then exec i { s with agenda := t } else .refused .notAnEvent
  | [] =>
    if s.dev.mailCmd.isSome then execMail s
    else if s.dev.pwrState ≠ 0 then idleStep s
    else if dozeDue s then execDozeEntry s
    else match deviceDue s with
      | some i => exec i s
      | none => match s.quarters[s.turn]? with
        | some e => visit s e.1
        | none => .next (endClock s)

/-! Placing an instruction (log 8). -/
/-- A quarter with nothing resident. -/
def freshQuarter : Quarter := { slots := List.replicate 8 none, accs := List.replicate 4 {} }
/-- The wave that runs a placed instruction: 32 lanes, one split, the root frame. -/
def placedWave : Wave :=
  { ctl := { splits := [{ valid := true, lanes := maskLow 32 }, {}, {}, {}] }, win := { records := [{}] } }
/-- Island 0, cluster 0, core 0, quarter 0 with one group of one wave in slot 0. -/
def placedState (s : State) : State :=
  { s with
    waves := [(0, placedWave)]
    groups := [(0, { waves := [0], phases := List.replicate 16 false })]
    launches := [(0, { block := List.replicate 128 0, next := 1, resident := 1 })]
    quarters := [(0, { freshQuarter with slots := some { wave := 0 } :: List.replicate 7 none })]
    cores := [(0, { tlb := [{ island := 0, asid := 0, va := 0, size := 12, pa := 0, attrs := 0x31 }] })]
    clusters := [(0, {})]
    islands := [(0, { entry := leBytes 4 1 ++ leBytes 4 0x10 ++ List.replicate 8 0 ++ List.replicate 8 0 ++ leBytes 8 (2 ^ 20) ++ leBytes 8 (2 ^ 40)
      ++ List.replicate 88 0 })]
    nextId := 1, turn := 0 }
/-- The next issue, when one is due: its wave, split and the physical address of its fetch. -/
def nextFetch (s : State) : Option Nat :=
  match s.agenda, s.quarters[s.turn]? with
  | [], some e =>
    if (quarterDue s e.1).isSome || (stuckWave s e.1).isSome || (grantee s e.1 (s.dev.cycle % 8)).isSome || !clocksRun s || (deviceDue s).isSome || (quietDue s).isSome || s.dev.mailCmd.isSome then none
    else match issuer s (quarterAt s e.1) (s.dev.cycle % 8) with
      | none => none
      | some wv => match chooseSplit (waveAt s wv) with
        | none => none
        | some sp =>
          let q := askerOf s wv
          match translate s q.core q.isl (getSplit (waveAt s wv) sp).pc 3 q.priv with
          | (_, .ok pa _) => some pa
          | _ => none
  | _, _ => none
/-- A word put where the next step fetches; a machine that is not about to issue is first given a wave that is. -/
def placeWord (s : State) (w : Nat) : State :=
  match nextFetch s with
  | some pa => homeWrite s pa (wordBytes w)
  | none => homeWrite (placedState { s with agenda := [], dev := { s.dev with cycle := s.dev.cycle / 8 * 8, frozen := false, pwrState := 0, pwrReq := 0, mailCmd := none } }) 0 (wordBytes w)

end Sys2Proof.Machine
end

