-- ==== Sys2Proof/Machine/ReadOut.lean ====
section
/-!
DEFINITION. The debug port (22: R414) and the layout of a saved context (R411): what the read-out gives, item by item, and the bytes of a core's
region of the shadow layer. No instruction reads either.
-/
namespace Sys2Proof.Machine

/-- One item of a state card: whether a swap saves it, the width of a value, and its values, instance by instance. -/
structure ReadItem where
  name : String
  saved : Bool
  bits : Nat
  values : List Nat
  deriving DecidableEq, Repr
/-- What one core holds: its own items, its quarters, its groups, and its waves by quarter and number. -/
structure CoreView where
  core : Nat
  unit : Core
  quarters : List Quarter
  groups : List Group
  waves : List (Nat × Wave)
  deriving DecidableEq, Repr

/-- The waves of a list by quarter and wave number (R414). -/
def inOrder (core : Nat) (ws : List (Nat × Wave)) : List (Nat × Wave) := (List.range 4).flatMap fun q => (List.range 32).flatMap fun n =>
  ws.filter fun e => e.2.quarter == core * 4 + q && e.2.num == n
def viewOf (s : State) (core : Nat) (rec : Core) (qs : Tbl Quarter) (away : Bool) : CoreView :=
  let gs := s.groups.filter fun e => e.2.core == core && e.2.away == away
  { core := core, unit := rec, quarters := (List.range 4).map fun q => tbGet {} qs (core * 4 + q), groups := gs.map (·.2),
    waves := inOrder core (s.waves.filter fun e => gs.any fun g => g.1 == e.2.group) }
/-- A core as it runs. -/
def liveView (s : State) (core : Nat) : CoreView := viewOf s core (coreAt s core) s.quarters false
/-- R410, R411: the context of a core that the shadow layer holds. -/
def savedView (s : State) (core : Nat) : Option CoreView :=
  (clusterAt s (core / 8)).saved.map fun x => viewOf s core (tbGet {} x.cores core) x.quarters true

/-! Items. -/
def perWave (v : List CoreView) (name : String) (saved : Bool) (bits : Nat) (f : Wave → List Nat) : ReadItem :=
  ⟨name, saved, bits, v.flatMap fun c => c.waves.flatMap fun e => f e.2⟩
def perSplit (v : List CoreView) (name : String) (saved : Bool) (bits : Nat) (f : Split → List Nat) : ReadItem :=
  perWave v name saved bits fun w => w.ctl.splits.flatMap f
def perGroup (v : List CoreView) (name : String) (saved : Bool) (bits : Nat) (f : Group → List Nat) : ReadItem :=
  ⟨name, saved, bits, v.flatMap fun c => c.groups.flatMap f⟩
def perQuarter (v : List CoreView) (name : String) (saved : Bool) (bits : Nat) (f : Quarter → List Nat) : ReadItem :=
  ⟨name, saved, bits, v.flatMap fun c => c.quarters.flatMap f⟩
def perCore (v : List CoreView) (name : String) (saved : Bool) (bits : Nat) (f : Core → List Nat) : ReadItem :=
  ⟨name, saved, bits, v.flatMap fun c => f c.unit⟩
def perCluster (s : State) (name : String) (bits : Nat) (f : Cluster → List Nat) : ReadItem := ⟨name, false, bits, s.clusters.flatMap fun e => f e.2⟩
def perIsland (s : State) (name : String) (bits : Nat) (f : Island → List Nat) : ReadItem := ⟨name, false, bits, s.islands.flatMap fun e => f e.2⟩
def ofDevice (name : String) (bits : Nat) (values : List Nat) : ReadItem := ⟨name, false, bits, values⟩

/-- Register rows of a wave, each by lane. -/
def rowWords (w : Wave) (rows : List Nat) : List Nat := rows.flatMap fun r => (List.range w.width).map fun i => (rowGet w r i).toNat
def lineWords (l : Line) : List Nat := [l.line, l.island, l.way, l.cls, l.valid.toNat, l.dirty.toNat] ++ (spRange 0 l.data 0 128).map (·.toNat)
def frameNats (f : Frame) : List Nat := [f.base, f.nin, f.nloc, f.nout]
def ptNats (p : Pt) : List Nat := [p.x.num.natAbs, p.x.den, p.y.num.natAbs, p.y.den]
def entryNats (e : PoolEntry) : List Nat := [e.beam, e.ext] ++ e.stack ++ e.poly.flatMap ptNats
def recordNats (r : List (Nat × List Nat)) : List Nat := r.flatMap fun x => x.1 :: x.2
def serviceNat : Service → Nat
  | .clear => 0
  | .waiting .spill _ _ => 1
  | .waiting .refill _ _ => 2
  | .failed .spill _ _ => 3
  | .failed .refill _ _ => 4
def parkNat : ParkKind → Nat
  | .no => 0
  | .merge => 1
  | .collective => 2
  | .room _ => 3
  | .highest => 4
  | .refill _ => 5
  | .service => 6

/-- Registers (04, 05). -/
def registerItems (v : List CoreView) : List ReadItem :=
  [perWave v "g0-g31" true 32 fun w => rowWords w (List.range 32),
   perWave v "w0-w95" true 32 fun w => (liveSplits w).flatMap fun i => let f := (getSplit w i).frame
                                                                       rowWords w ((List.range (frameSize f)).map fun n => rowOf w f (32 + n)),
   perWave v "s0-s63" true 64 fun w => (List.range 64).map fun r => (sget w r).toNat,
   perWave v "m0-m7" true 128 fun w => (List.range 8).map fun r => (mget w r).toNat,
   perSplit v "MODE" true 32 fun x => [x.mode.toNat],
   perWave v "th0-th7" true 16 fun w => spRange 0 w.regs.th 0 40,
   perQuarter v "acc0-acc3" true 36 fun q => q.accs.flatMap fun a => spRange 0 a.entries 0 2048 ++ [a.tag, b2n a.ov],
   perWave v "sticky flags" true 6 fun w => [w.regs.flags.toNat],
   perWave v "outstanding-write set" false 64 fun w => w.out.flatMap fun r => r.rows ++ r.scalars,
   perWave v "control words" true 64 fun w => [b2n w.regs.strict, w.tim.spinq, w.evt.trapvec],
   perWave v "ring rows" true 32 fun w => rowWords w ((List.range w.win.rows).map (32 + ·)),
   perWave v "frame records" true 64 fun w => w.win.records.flatMap fun r => [r.base, r.start, b2n r.overlaid, b2n r.live],
   perWave v "ring bottom, ring top" true 40 fun w => [w.win.bottom, w.win.top],
   perSplit v "window base and frame sizes" true 64 fun x => frameNats x.frame,
   perWave v "cw.bstore, cw.bsize" true 64 fun w => [w.win.bstore, w.win.bsize],
   perWave v "cw.bused, cw.wfree" true 64 fun w => [w.win.bused, wfree w],
   perWave v "cw.spills, cw.refills" true 64 fun w => [w.win.spills, w.win.refills],
   perWave v "cw.wlow" true 64 fun w => [w.win.low],
   perWave v "window service pending" true 8 fun w => [serviceNat w.win.service]]
/-- Memories (09, 12), but for GDDR7. -/
def memoryItems (v : List CoreView) (s : State) (shadow : List Nat) : List ReadItem :=
  [perCore v "L1 lines" false 128 fun c => c.l1.flatMap lineWords,
   perCore v "scratchpad" true 8 fun c => (spRange 0 c.spad 0 (2 ^ 19)).map (·.toNat),
   perGroup v "scratchpad configuration" true 64 fun g => [g.limit + g.swz * 2 ^ 16],
   perCluster s "way-partition register" 64 fun c => [c.ways],
   perCluster s "cache-way lines" 128 fun c => c.lines.flatMap lineWords,
   perCluster s "far-scratchpad ways" 8 fun c => (spRange 0 c.far 0 (2 ^ 24)).map (·.toNat),
   perCluster s "FIFO" 8 fun c => c.fifo.flatten,
   ofDevice "shadow layer" 8 shadow,
   perCore v "cw.conflicts" false 64 fun c => [c.conflicts],
   perCore v "transform-pipe progress" true 64 fun c => c.pipe.flatMap fun j => [j.cmd, j.rows.length],
   perCore v "reconstruction count" false 64 fun c => [c.recons],
   perCore v "survivor count" false 64 fun c => [c.survivors],
   perCore v "rows-skipped count" false 64 fun c => [c.skipped]]
/-- Queues (13 to 18). -/
def queueItems (v : List CoreView) (s : State) : List ReadItem :=
  [perIsland s "launch doorbell" 64 fun i => i.tails,
   ofDevice "launch state" 64 (s.launches.flatMap fun e => [e.2.next, e.2.resident, e.2.finished, e.2.released, e.2.deadline]),
   perQuarter v "active slot table" true 64 fun q => q.slots.flatMap fun h => match h with
     | some h => [1, h.wave, b2n h.pin, h.hold]
     | none => [0, 0, 0, 0],
   perWave v "pending set" true 64 fun w => [w.num, w.tim.age, b2n w.tim.ready],
   perQuarter v "matrix command queue" true 64 fun q => q.queue.flatMap fun m => [m.wave, m.acc, m.tag, m.mode.toNat],
   perQuarter v "elastic feed q2" true 64 fun q => q.feed.flatMap fun r => [r.tag, r.tile, r.pos, r.esz, r.bitmap] ++ r.elems,
   perQuarter v "MMAQ progress" true 16 fun q => [(q.queue.head?).elim 0 (·.owed)],
   perWave v "layout register" true 8 fun w => w.layout,
   perQuarter v "slot flags" true 8 fun q => q.accs.map fun a => a.flags.toNat + b2n a.ov * 64,
   perCore v "copy command queue" false 64 fun c => c.copies.flatMap fun d => d.pieces.flatMap fun p => [p.src, p.dst, p.len, p.pos],
   perWave v "open batch number" true 64 fun w => [w.batch],
   perCore v "batch membership" false 64 fun c => c.copies.map (·.batch),
   perGroup v "collective arrivals" true 64 fun g => g.arrivals.flatMap fun a => [a.1, a.2.1, a.2.2],
   perCore v "row bitmap" false 1 fun c => c.copies.flatMap fun d => d.pieces.map fun p => b2n p.fault.isSome,
   perGroup v "beam configuration" true 64 fun g => [g.bcfg],
   perGroup v "scene binding" true 64 fun g => g.scene.getD [],
   perGroup v "beam pool" true 64 fun g => g.pool.flatMap entryNats,
   perGroup v "fragment queue q1" true 32 fun g => g.q1.flatten,
   perGroup v "unretired-beam count" true 16 fun g => [g.beams.length + g.roots.length],
   perWave v "helper bits" true 128 fun w => [w.ctl.helpers.toNat],
   perIsland s "graph binding" 8 fun i => i.graphs.flatMap fun g => g.2.desc,
   perIsland s "node lists" 8 fun i => i.graphs.flatMap fun g => g.2.lists.flatMap fun l => recordNats l.recs,
   perIsland s "batch timers" 64 fun i => i.graphs.flatMap fun g => g.2.lists.map fun l => l.timer.getD 0,
   perWave v "APND progress" true 8 fun w => [w.apnd.recs.length],
   perIsland s "appends in flight" 64 fun i => [i.succ.length],
   perIsland s "FAULTED" 1 fun i => i.graphs.map fun g => b2n g.2.faulted]
/-- Tables (19). -/
def tableItems (v : List CoreView) (s : State) : List ReadItem :=
  [perCore v "TLB entries" false 64 fun c => c.tlb.flatMap fun t => [t.island, t.asid, t.va, t.size, t.pa, t.attrs],
   perIsland s "island table" 8 fun i => i.entry,
   perIsland s "fault queue" 32 fun i => [i.fqHead, i.fqTail]]
/-- Counters (20, 21). -/
def counterItems (v : List CoreView) (s : State) : List ReadItem :=
  [perWave v "nesting counter" true 6 fun w => (List.range w.width).map (cntGet w),
   perSplit v "split entry" true 128 fun x =>
     [b2n x.valid, x.pc, x.lanes.toNat, b2n x.leftover.held, x.leftover.kind, x.leftover.lanes.toNat, x.leftover.addr, b2n x.retry],
   perSplit v "park state" true 64 fun x => [x.pc, parkNat x.park.kind, x.park.clocks],
   perWave v "cw.mergewait" true 64 fun w => [w.ctl.mergewait],
   perCore v "split-apart count" false 64 fun c => [c.apart],
   perGroup v "barrier phase" true 1 fun g => g.phases.map b2n,
   perWave v "pending arrivals" true 16 fun w => w.tim.pending,
   ofDevice "cw.cycle" 64 [s.dev.cycle],
   perWave v "cw.wtime" true 64 fun w => [w.tim.wtime],
   perWave v "cw.tmcmp" true 64 fun w => [w.tim.tmcmp.toNat],
   perCore v "stall counters" false 64 fun c => spRange 0 c.stalls 0 32]
/-- Events (22), and the items of 23, which follow them. -/
def eventItems (v : List CoreView) (s : State) : List ReadItem :=
  [perWave v "cw.cause" true 64 fun w => [w.evt.cause.toNat],
   perWave v "cw.tpc" true 64 fun w => [w.evt.tpc],
   perWave v "cw.taddr" true 64 fun w => [w.evt.taddr],
   perWave v "handler copy" true 6 fun w => (List.range w.width).map fun i => spGet 0 w.evt.handler i,
   perSplit v "region register" true 128 fun x => [b2n x.region.isOpen, x.region.entry, x.region.rollbacks, x.region.cnt, x.region.snap.mode.toNat,
     x.region.snap.lanes.toNat, x.region.snap.batch, b2n x.region.snap.retry] ++ frameNats x.region.snap.frame,
   perSplit v "read filter" true 64 fun x => x.region.filter,
   ⟨"event queue q4", false, 32, s.islands.flatMap fun e => e.2.q4.flatMap (evWords e.1)⟩,
   perIsland s "escalation timers" 64 fun i => [i.t1, i.t2],
   perIsland s "FAULTRES" 64 fun _ => [0],
   perIsland s "lost-event count" 64 fun i => [i.lost],
   ofDevice "corrected-error count" 64 [s.dev.corrected],
   ofDevice "PWRCTL" 64 [pwrctlWord s.dev],
   perIsland s "WINDOWS" 64 fun i => [i.windows],
   perIsland s "EVQINT" 64 fun i => [i.evqint],
   perIsland s "island keys" 64 fun i => [i.keyGen.getD 0],
   ofDevice "measurement log" 8 (logDigest s.dev.log),
   ofDevice "retention SRAM" 8 ((List.range (2 ^ 22)).map fun k => (retByte s k).toNat)]

/-! The layout of a saved context (R411). -/
/-- The wave that holds a row of the register file of a quarter, with its register row and the first lane of it: a row is 32 lanes, and the waves of a
quarter hold their rows one after another (log 49). -/
def rowOwner : List Wave → Nat → Option (Wave × Nat × Nat)
  | [], _ => none
  | w :: t, p =>
    let k := max (w.width / 32) 1
    if p < k * (32 + w.win.rows) then some (w, p / k, p % k * 32) else rowOwner t (p - k * (32 + w.win.rows))
def fileByte (v : CoreView) (off : Nat) : Nat :=
  match rowOwner ((v.waves.map (·.2)).filter fun w => w.quarter % 4 == off / 0x40000) (off % 0x40000 / 128) with
  | some (w, r, lane) => (rowGet w r (lane + off % 128 / 4)).toNat / 2 ^ (8 * (off % 4)) % 256
  | none => 0
/-- R411: entries as 36-bit fields, packed from bit 0. -/
def accByte (v : CoreView) (off : Nat) : Nat :=
  let a := ((v.quarters.getD (off / 0x9000) {}).accs).getD (off % 0x9000 / 0x2400) {}
  let b := off % 0x2400 * 8
  (spGet 0 a.entries (b / 36) + spGet 0 a.entries (b / 36 + 1) * 2 ^ 36) / 2 ^ (b % 36) % 256
/-- The bytes of an item's values. -/
def itemBytes (x : ReadItem) : List Nat := x.values.flatMap (leBytes ((x.bits + 7) / 8))
/-- R411: the items that have a place of their own in the layout. -/
def ownPlace : List String := ["g0-g31", "w0-w95", "ring rows", "scratchpad", "acc0-acc3"]
/-- R411: every other saved item of a core, in the order of the read-out; what a slot holds beside its entries comes first. -/
def restBytes (v : CoreView) (s : State) : List Nat :=
  itemBytes (perQuarter [v] "slot tags" true 32 fun q => q.accs.flatMap fun a => [a.tag, b2n a.ov]) ++
    ((registerItems [v] ++ memoryItems [v] s [] ++ queueItems [v] s ++ tableItems [v] s ++ counterItems [v] s ++ eventItems [v] s).filter fun x =>
      x.saved && !ownPlace.contains x.name).flatMap itemBytes
/-- R411: byte `off` of a core's 2 MiB region of the shadow layer; 0 where it holds no context. -/
def shadowByte (s : State) (core off : Nat) : Nat := match savedView s core with
  | none => 0
  | some v =>
    if off < 0x100000 then fileByte v off
    else if off < 0x180000 then (spGet 0 v.unit.spad (off - 0x100000)).toNat
    else if off < 0x1A4000 then accByte v (off - 0x180000)
    else (restBytes v s).getD (off - 0x1A4000) 0

/-! The debug port (R414). -/
/-- R414: the read-out of a frozen device: part by part, item by item, instances in ascending order; nothing where it runs. -/
def readOut (s : State) : List ReadItem :=
  if s.dev.frozen then
    let v := (s.cores.map (·.1)).map (liveView s)
    let contexts := (s.clusters.filter fun e => e.2.saved.isSome).flatMap fun e => (List.range 8).flatMap fun k =>
      (List.range (2 ^ 21)).map (shadowByte s (8 * e.1 + k))
    registerItems v ++ memoryItems v s contexts ++ queueItems v s ++ tableItems v s ++ counterItems v s ++ eventItems v s
  else []
/-- R414, R423: a byte of GDDR7 through the debug port's memory window; a sealed carve-out is read as it is stored, encrypted. -/
def debugByte (s : State) (pa : Nat) : Nat :=
  match s.islands.find? fun e => islSealed e.2 && inCarve e.2 pa with
  | some e => (Config.keyByte (e.2.keyGen.getD 0) pa (rawLine s.dev.mem (pa / 128))).toNat
  | none => (homeByte s pa).toNat

end Sys2Proof.Machine
end

