-- ==== Sys2Proof/Safety.lean ====
section
/-!
DEFINITION. The terms in which claims are made: a step that goes on, an instruction that nothing stops before its own effect, what that
effect sees, and the machine once the instruction is over. Every stop that the spec describes (a trap, a fault record, an ended launch) is a
next state, so a fault or a refusal is the model's own.
-/
namespace Sys2Proof

/-- The step of `s` leaves a next state. -/
def SafeStep (s : Machine.State) : Prop := ∃ t, Machine.step s = .next t

namespace Machine

/-- R32, R53 orders 4 and 5, R90, R112, R367, R376: split `sp` of the resident wave `wv` issues, with nothing outstanding and no
register in error, and no check that
comes before the effect of an instruction of usage `u` stops it. A collective instruction finds no other live split. -/
def ready (s : State) (wv sp : Nat) (u : Usage) : Bool :=
  let w := waveAt s wv
  let x := getSplit w sp
  w.regs.bad.isEmpty && decide (s.cur = some (wv, sp)) && (tbGet? s.waves wv).isSome && decide (sp < 4) && decide (w.ctl.splits.length = 4) &&
    x.valid && !x.held && decide (w.ctl.wait = .no) && w.out.isEmpty &&
    u.legal && (!u.priv || privileged s w) && !rangeBad x.frame u && (u.skipExec || decide (actOf w sp ≠ 0)) &&
    (refillNeed w x.frame u).isNone && (!u.collective || (decide (liveSplits w = [sp]) && !jmpxHolder x))

/-- R376: the machine as the effect finds it; the gather of a lone split changes only its park record and its order of parking. -/
def begun (s : State) (wv sp : Nat) (u : Usage) : State :=
  if u.collective then
    let w := waveAt s wv
    let c := coreAt s (coreOf w)
    let w1 := putSplit w sp (unparked (getSplit w sp))
    putWave (putCore s (coreOf w) { c with apart := c.apart % 2 ^ 64 }) wv { w1 with ctl := { w1.ctl with parks := w.ctl.parks + 1 } }
  else s

/-- What the instruction sees (R90): its wave, MODE and frame of its split, ACT and the write mask. -/
def seen (s : State) (wv sp : Nat) : Ctx :=
  { wv := wv, sp := sp, view := waveAt s wv, split := getSplit (waveAt s wv) sp, act := actOf (waveAt s wv) sp,
    wm := writeMask (waveAt s wv) sp, free := s.free }

/-- R399: the machine on which the effect acts: the free choices of this issue are spent, and a region that the instruction closes is closed. -/
def entered (s : State) (wv sp : Nat) (closes : Bool) : State :=
  putWave { s with free := s.free + 2 } wv (openIssue (waveAt s wv) sp closes)

/-- The split goes on at `pc`. -/
def goesTo (s : State) (wv sp pc : Nat) : State :=
  putWave s wv (putSplit (waveAt s wv) sp { unparked (getSplit (waveAt s wv) sp) with pc := pc })
/-- The split goes on after its instruction. -/
def stepped (s : State) (wv sp : Nat) : State := goesTo s wv sp (pcNext (getSplit (waveAt s wv) sp).pc)

/-- The wave is resident, waits for nothing, and its split may go on. -/
def steady (s : State) (wv sp : Nat) : Bool :=
  let w := waveAt s wv
  (tbGet? s.waves wv).isSome && decide (w.ctl.splits.length = 4) && (getSplit w sp).valid && !(getSplit w sp).held && decide (w.ctl.wait = .no)

/-! What an instruction of one wave comes to. Each of these says that the instruction goes on from every state that is `ready` for it, and what
the next state is, whole: the wave's other registers, flags and control state, every other wave, every memory and every device register stay as
they were. -/

/-- The machine after an instruction of usage `u` whose effect on its wave is `f`: two free choices are spent (log 2), a region that the
instruction closes is closed, and the split goes on at PC + 4. -/
def ends (s : State) (wv sp : Nat) (u : Usage) (f : Wave → Wave) : State :=
  stepped (putWave { s with free := s.free + 2 } wv (f (openIssue (waveAt s wv) sp u.closes))) wv sp
/-- The same with the split going on at `pc`. -/
def jumps (s : State) (wv sp : Nat) (u : Usage) (f : Wave → Wave) (pc : Nat) : State :=
  goesTo (putWave { s with free := s.free + 2 } wv (f (openIssue (waveAt s wv) sp u.closes))) wv sp pc

/-- Instruction `i` writes its wave as `f` says, and goes on. -/
def CompletesWith (i : Instr) (u : Usage) (f : Ctx → Wave → Wave) : Prop :=
  ∀ s wv sp, ready s wv sp u = true → exec i s = .next (ends s wv sp u (f (seen s wv sp)))

/-- R70, R90, R125: in each lane of `m` below the width, element e of vector register d becomes `f c lane e`, elements of `n` bits; the sticky
flags raised are those of the elements written. -/
def WritesElements (i : Instr) (u : Usage) (d : VReg) (m : Ctx → Mask) (n : Lane → Nat) (f : Ctx → Nat → Nat → Nat × Flags) : Prop :=
  ∀ s wv sp, ready s wv sp u = true →
    let c := seen s wv sp
    let k := n c.split.mode
    ∃ (v : Nat → Lane) (fl : Flags),
      exec i s = .next (ends s wv sp u fun w => raise (writeRow w (rowOf w c.split.frame d.val) (m c) v) fl) ∧
      (∀ lane e, mbit (m c) lane = true → lane < c.view.width → e < 32 / k → elemAt k (v lane).toNat e = (f c lane e).1 % 2 ^ k) ∧
      (∀ b, fl.getLsbD b = true ↔ ∃ lane e, mbit (m c) lane = true ∧ lane < c.view.width ∧ e < 32 / k ∧ (f c lane e).2.getLsbD b = true)

/-- R90, R125: in each lane of `m` below the width, vector register d becomes `f c lane`. -/
def WritesLanes (i : Instr) (u : Usage) (d : VReg) (m : Ctx → Mask) (f : Ctx → Nat → Lane) : Prop :=
  CompletesWith i u fun c w => writeRow w (rowOf w c.split.frame d.val) (m c) (f c)

/-- R132, R143: bit `lane` of mask register d becomes `p c lane` in the lanes of the write mask below the width; its other bits stay. -/
def WritesMaskBits (i : Instr) (u : Usage) (d : MReg) (p : Ctx → Nat → Bool) : Prop :=
  ∀ s wv sp, ready s wv sp u = true →
    let c := seen s wv sp
    ∃ v : Mask, exec i s = .next (ends s wv sp u fun w => mset w d.val v) ∧
      ∀ lane, lane < 128 → mbit v lane = if mbit c.wm lane && decide (lane < c.view.width) then p c lane else mbit (mget c.view d.val) lane

/-- R84, R135: scalar register d becomes `f c`; a write to s0 is discarded. -/
def WritesScalar (i : Instr) (u : Usage) (d : SReg) (f : Ctx → Scalar) : Prop := CompletesWith i u fun c w => sset w d.val (f c)

/-- R53, R395: the instruction takes a trap: nothing of its own effect has happened; what the entry does is `takeTrap`. -/
def traps (s : State) (wv sp : Nat) (u : Usage) (code timm taddr : Nat) : State :=
  settleSlots (takeTrap (entered s wv sp u.closes) wv
    { split := sp, code := code, timm := timm, tpc := (getSplit (waveAt s wv) sp).pc, taddr := taddr }) wv

/-- R368: the counters of the non-exited lanes of the split become `f`; the split goes on at `pc`, which depends on whether a lane is then
active. Where a counter would pass its limit (`bad`), the nesting trap is taken and nothing changes. -/
def Nests (i : Instr) (bad : Nat → Bool) (f : Ctx → Nat → Nat → Nat) (pc : Ctx → Bool → Nat) : Prop :=
  ∀ s wv sp, ready s wv sp skipUse = true →
    let c := seen s wv sp
    let lanes := liveLanes (waveAt s wv) sp
    let raised (w : Wave) : Wave := cntMap lanes (f c) 128 w
    ((∀ l, mbit lanes l = true → bad (cntGet (waveAt s wv) l) = false) →
      exec i s = .next (jumps s wv sp skipUse raised (pc c (decide (actOf (raised (waveAt s wv)) sp ≠ 0))))) ∧
    ((∃ l, mbit lanes l = true ∧ bad (cntGet (waveAt s wv) l) = true) → exec i s = .next (traps s wv sp skipUse 0x09 0 0))

/-- R76: node `j` of level `l` of the pairwise tree over the leaves. -/
def treeNode (op : Nat → Nat → Nat) (leaf : Nat → Nat) : Nat → Nat → Nat
  | 0, i => leaf i
  | l + 1, j => op (treeNode op leaf l (2 * j)) (treeNode op leaf l (2 * j + 1))

/-- R182, R195, R207, R210: no lane of these accesses traps, waits for a table walk or for a line, or meets an absent page. -/
def passes (p : State × List Acc) (core : Nat) : Bool :=
  (gateTrap 0 0 p.2).isNone && !(p.2.any (·.walked)) && (blockedOn p.1 core p.2).isNone && !(p.2.any fun x => resAbsent x.res && !x.helper)

/-- R82 to R85, R88, R363, R364: the registers, masks, threshold levels and nesting counters of a wave are in their canonical form, so that equal
registers are equal data, and it has four split entries. -/
def waveFormed (w : Wave) : Bool :=
  spWf 0 w.regs.vec && spWf 0 w.regs.sca && spWf 0 w.regs.msk && spWf 0 w.regs.th && spWf 0 w.ctl.counters && decide (w.ctl.splits.length = 4)

/-- Every wave is formed, every scratchpad, running or saved, is in canonical form, q4 of every island holds at most 256 records (R404), and every
group has 16 barrier phases (R381). -/
def formed (s : State) : Prop :=
  (∀ k, waveFormed (waveAt s k) = true) ∧ (∀ k, spWf 0 (coreAt s k).spad = true) ∧
  (∀ k x, (clusterAt s k).saved = some x → ∀ e ∈ x.cores, spWf 0 e.2.spad = true) ∧
  (∀ k, (islandAt s k).q4.length ≤ 256) ∧ (∀ k, (groupAt s k).phases.length = 16)

end Machine

end Sys2Proof
end

