-- ==== Sys2Proof/Certificates/Slice0/Obligations.lean ====
section
/-!
DEFINITION. The statements for the provers. A statement `ready … → exec … = .next …` says both that the instruction completes and what the
next state is, whole; `ends`, `jumps`, `traps` and the frame of each are in Safety.lean. Every next state also counts the free choices that
the issue spends, which is the model's own bookkeeping (log 2), and the event rows are taken in the order of the agenda (log 1).
-/
open Sys2Proof Sys2Proof.Machine

/-- R126: the element results of the wrapping and clamping integer instructions.
R71: what wrapping and clamping deliver, for each of the eight integer types. -/
def Obligations.IntegerArithmetic : Prop :=
  (∀ (y : Bool) (d a : VReg) (b : BOp) (i : BitVec 9),
    let wm (c : Ctx) : Mask := c.wm
    let w (mode : Lane) : Nat := etWidth (intType mode)
    let x (c : Ctx) (l e : Nat) : Int := elemVal (intType c.split.mode) (vec c a l).toNat e
    let v (c : Ctx) (l e : Nat) : Int := elemVal (intType c.split.mode) (bval c b l).toNat e
    let z (c : Ctx) (l e : Nat) : Int := elemVal (intType c.split.mode) (vec c d l).toNat e
    let delivered (c : Ctx) (t : Int) : Nat × Flags := intElem (intType c.split.mode) (modeSAT c.split.mode) t
    let low (c : Ctx) (t : Int) : Nat × Flags := (wrapTo (w c.split.mode) t, 0)
    WritesElements (.iadd y d a b) (useVVB d a b) d wm w (fun c l e => delivered c (x c l e + v c l e)) ∧
    WritesElements (.isub y d a b) (useVVB d a b) d wm w (fun c l e => delivered c (x c l e - v c l e)) ∧
    WritesElements (.imul y d a b) (useVVB d a b) d wm w (fun c l e => delivered c (x c l e * v c l e)) ∧
    WritesElements (.imulh y d a b) (useVVB d a b) d wm w (fun c l e => low c (x c l e * v c l e / (2 ^ w c.split.mode : Nat))) ∧
    WritesElements (.imad y d a b) (useAcc d a b) d wm w (fun c l e => delivered c (z c l e + x c l e * v c l e)) ∧
    WritesElements (.imin y d a b) (useVVB d a b) d wm w (fun c l e => low c (if x c l e ≤ v c l e then x c l e else v c l e)) ∧
    WritesElements (.imax y d a b) (useVVB d a b) d wm w (fun c l e => low c (if x c l e ≤ v c l e then v c l e else x c l e)) ∧
    WritesElements (.iabs y d a) (useVV d a) d wm w (fun c l e => delivered c (if x c l e < 0 then -x c l e else x c l e)) ∧
    WritesElements (.iaddi y d a i) (useVV d a) d wm w (fun c l e => delivered c (x c l e + i.toInt))) ∧
  (∀ (et : Nat) (t : Int), et ∈ [0, 1, 2, 3, 7, 8, 9, 10] →
    let w := etWidth et
    let n := (intElem et false t).1
    let m := (intElem et true t).1
    let shown : Int := if etSigned et then signedOf w m else m
    n < 2 ^ w ∧ ((n : Int) - t) % (2 ^ w : Nat) = 0 ∧ (intElem et false t).2 = 0 ∧
    m < 2 ^ w ∧ etLo et ≤ shown ∧ shown ≤ etHi et ∧
    (etLo et ≤ t → t ≤ etHi et → shown = t ∧ (intElem et true t).2 = 0) ∧
    (t < etLo et → shown = etLo et ∧ (intElem et true t).2 = flSA) ∧
    (etHi et < t → shown = etHi et ∧ (intElem et true t).2 = flSA))

/-- R127, R129, R131, R133: instructions that act on the whole 32-bit value.
R129: each bit of a bit-field result. -/
def Obligations.WholeValueInstructions : Prop :=
  (∀ (y : Bool) (d a : VReg) (b : BOp) (i : BitVec 9) (k : BitVec 16),
    let wm (c : Ctx) : Mask := c.wm
    let imm : Lane := i.signExtend 32
    WritesLanes (.and y d a b) (useVVB d a b) d wm (fun c l => vec c a l &&& bval c b l) ∧
    WritesLanes (.or y d a b) (useVVB d a b) d wm (fun c l => vec c a l ||| bval c b l) ∧
    WritesLanes (.xor y d a b) (useVVB d a b) d wm (fun c l => vec c a l ^^^ bval c b l) ∧
    WritesLanes (.andi y d a i) (useVV d a) d wm (fun c l => vec c a l &&& imm) ∧
    WritesLanes (.ori y d a i) (useVV d a) d wm (fun c l => vec c a l ||| imm) ∧
    WritesLanes (.xori y d a i) (useVV d a) d wm (fun c l => vec c a l ^^^ imm) ∧
    WritesLanes (.bfx y d a b) (useVVB d a b) d wm (fun c l => bfx (etSigned (intType c.split.mode)) (vec c a l) (bval c b l)) ∧
    WritesLanes (.bfi y d a b) (useAcc d a b) d wm (fun c l => bfi (vec c d l) (vec c a l) (bval c b l)) ∧
    WritesLanes (.sel y d a b) { useVVB d a b with actLanes := true } d (fun c => c.act)
      (fun c l => if mbit (mget c.view (modeGM c.split.mode)) l then vec c a l else bval c b l) ∧
    WritesLanes (.mov y d a) (useVV d a) d wm (fun c l => vec c a l) ∧
    WritesLanes (.movi y d k) (useV d) d wm (fun _ _ => k.signExtend 32) ∧
    WritesLanes (.movih y d k) (useDVV d d) d wm (fun c l => k ++ (vec c d l).extractLsb' 0 16)) ∧
  (∀ (d a b : Lane) (j : Nat), j < 32 →
    let pos := b.toNat % 32
    let len := min (b.toNat / 256 % 32) (32 - pos)
    (bfi d a b).getLsbD j = (if pos ≤ j ∧ j < pos + len then a.getLsbD (j - pos) else d.getLsbD j) ∧
    (bfx false a b).getLsbD j = (decide (j < len) && a.getLsbD (pos + j)) ∧
    (bfx true a b).getLsbD j = (decide (0 < len) && a.getLsbD (pos + min j (len - 1))))

/-- R128: the six shifts, element by element. A count that reaches the width clears, clamps or fills.
R130: POPC, CLZ and BREV, element by element; a result is given by what it says of the element's bits. -/
def Obligations.ShiftAndBitCount : Prop :=
  (∀ (y : Bool) (d a : VReg) (b : BOp) (k : Fin 32),
    let wm (c : Ctx) : Mask := c.wm
    let w (mode : Lane) : Nat := etWidth (intType mode)
    let bits (c : Ctx) (l e : Nat) : Nat := elemAt (w c.split.mode) (vec c a l).toNat e
    let count (c : Ctx) (l e : Nat) : Nat := elemAt (w c.split.mode) (bval c b l).toNat e
    let left (c : Ctx) (l e n : Nat) : Nat × Flags :=
      let x := elemVal (intType c.split.mode) (vec c a l).toNat e
      if modeSAT c.split.mode then intElem (intType c.split.mode) true (x * (2 ^ n : Nat))
      else (if n < w c.split.mode then wrapTo (w c.split.mode) (x * (2 ^ n : Nat)) else 0, 0)
    let right (c : Ctx) (l e n : Nat) : Nat × Flags := (if n < w c.split.mode then bits c l e / 2 ^ n else 0, 0)
    let fill (c : Ctx) (l e n : Nat) : Nat × Flags :=
      let v := signedOf (w c.split.mode) (bits c l e)
      (wrapTo (w c.split.mode) (if n < w c.split.mode then v / (2 ^ n : Nat) else if v < 0 then -1 else 0), 0)
    WritesElements (.shl y d a b) (useVVB d a b) d wm w (fun c l e => left c l e (count c l e)) ∧
    WritesElements (.shli y d a k) (useVV d a) d wm w (fun c l e => left c l e k.val) ∧
    WritesElements (.shr y d a b) (useVVB d a b) d wm w (fun c l e => right c l e (count c l e)) ∧
    WritesElements (.shri y d a k) (useVV d a) d wm w (fun c l e => right c l e k.val) ∧
    WritesElements (.sra y d a b) (useVVB d a b) d wm w (fun c l e => fill c l e (count c l e)) ∧
    WritesElements (.srai y d a k) (useVV d a) d wm w (fun c l e => fill c l e k.val)) ∧
  (∀ (y : Bool) (d a : VReg),
    let wm (c : Ctx) : Mask := c.wm
    let w (mode : Lane) : Nat := etWidth (intType mode)
    let bits (c : Ctx) (l e : Nat) : Nat := elemAt (w c.split.mode) (vec c a l).toNat e
    ∃ ones zeros swap : Nat → Nat → Nat,
      WritesElements (.popc y d a) (useVV d a) d wm w (fun c l e => (ones (w c.split.mode) (bits c l e), 0)) ∧
      WritesElements (.clz y d a) (useVV d a) d wm w (fun c l e => (zeros (w c.split.mode) (bits c l e), 0)) ∧
      WritesElements (.brev y d a) (useVV d a) d wm w (fun c l e => (swap (w c.split.mode) (bits c l e), 0)) ∧
      ∀ n x, n ∈ [4, 8, 16, 32] → x < 2 ^ n →
        ones n x = ((List.range n).filter fun k => x.testBit k).length ∧
        zeros n x ≤ n ∧ x < 2 ^ (n - zeros n x) ∧ (x ≠ 0 → 2 ^ (n - zeros n x) ≤ 2 * x) ∧ zeros n 0 = n ∧
        (∀ k, k < n → (swap n x).testBit (n - 1 - k) = x.testBit k))

/-- R132, R143: the comparisons into a mask register. -/
def Obligations.Comparisons : Prop := ∀ (y : Bool) (d : MReg) (a : VReg) (b : BOp),
  let et (c : Ctx) : Nat := intType c.split.mode
  let x (c : Ctx) (l e : Nat) : Int := elemVal (et c) (vec c a l).toNat e
  let v (c : Ctx) (l e : Nat) : Int := elemVal (et c) (bval c b l).toNat e
  let ft (c : Ctx) : Nat := floatType c.split.mode
  let p (c : Ctx) (l e : Nat) : Nat := elemAt (etWidth (ft c)) (vec c a l).toNat e
  let q (c : Ctx) (l e : Nat) : Nat := elemAt (etWidth (ft c)) (bval c b l).toNat e
  WritesMaskBits (.icmpeq y d a b) (useMVB a b) d (fun c l => decide (∀ e, e < etCount (et c) → x c l e = v c l e)) ∧
  WritesMaskBits (.icmpne y d a b) (useMVB a b) d (fun c l => decide (∃ e, e < etCount (et c) ∧ x c l e ≠ v c l e)) ∧
  WritesMaskBits (.icmplt y d a b) (useMVB a b) d (fun c l => decide (∀ e, e < etCount (et c) → x c l e < v c l e)) ∧
  WritesMaskBits (.icmple y d a b) (useMVB a b) d (fun c l => decide (∀ e, e < etCount (et c) → x c l e ≤ v c l e)) ∧
  WritesMaskBits (.fcmpeq y d a b) (useMVB a b) d (fun c l => decide (∀ e, e < etCount (ft c) → fEq (etFmt (ft c)) (p c l e) (q c l e) = true)) ∧
  WritesMaskBits (.fcmplt y d a b) (useMVB a b) d (fun c l => decide (∀ e, e < etCount (ft c) → fLt (etFmt (ft c)) (p c l e) (q c l e) = true)) ∧
  WritesMaskBits (.fcmple y d a b) (useMVB a b) d (fun c l => decide (∀ e, e < etCount (ft c) → fLe (etFmt (ft c)) (p c l e) (q c l e) = true)) ∧
  WritesMaskBits (.fcmpun y d a b) (useMVB a b) d (fun c l => decide (∃ e, e < etCount (ft c) ∧ fUn (etFmt (ft c)) (p c l e) (q c l e) = true))

/-- R134 to R137: the scalar results; VTOS reads the lowest lane of ACT. -/
def Obligations.ScalarInstructions : Prop := ∀ (y : Bool) (d a b : SReg) (i : BitVec 16) (k : BitVec 9) (r : VReg),
  let p (c : Ctx) : Scalar := sca c a
  let q (c : Ctx) : Scalar := sca c b
  WritesScalar (.sadd y d a b) (useSSS d a b) d (fun c => p c + q c) ∧
  WritesScalar (.ssub y d a b) (useSSS d a b) d (fun c => p c - q c) ∧
  WritesScalar (.smul y d a b) (useSSS d a b) d (fun c => p c * q c) ∧
  WritesScalar (.sand y d a b) (useSSS d a b) d (fun c => p c &&& q c) ∧
  WritesScalar (.sor y d a b) (useSSS d a b) d (fun c => p c ||| q c) ∧
  WritesScalar (.sxor y d a b) (useSSS d a b) d (fun c => p c ^^^ q c) ∧
  WritesScalar (.sshl y d a b) (useSSS d a b) d (fun c => if (q c).toNat < 64 then p c <<< (q c).toNat else 0) ∧
  WritesScalar (.sshr y d a b) (useSSS d a b) d (fun c => if (q c).toNat < 64 then p c >>> (q c).toNat else 0) ∧
  WritesScalar (.ssra y d a b) (useSSS d a b) d
    (fun c => if (q c).toNat < 64 then (p c).sshiftRight (q c).toNat else if (p c).getLsbD 63 then BitVec.allOnes 64 else 0) ∧
  WritesScalar (.smov y d a) (useSS d a) d p ∧
  WritesScalar (.smovi y d i) (useSw d) d (fun _ => i.signExtend 64) ∧
  WritesScalar (.smovk y d i) (useSS d d) d (fun c => (sca c d).extractLsb' 0 48 ++ i) ∧
  WritesScalar (.saddi y d a k) (useSS d a) d (fun c => p c + k.signExtend 64) ∧
  WritesScalar (.sseq y d a b) (useSSS d a b) d (fun c => if p c = q c then 1 else 0) ∧
  WritesScalar (.sslt y d a b) (useSSS d a b) d (fun c => if (p c).toInt < (q c).toInt then 1 else 0) ∧
  WritesScalar (.ssltu y d a b) (useSSS d a b) d (fun c => if (p c).toNat < (q c).toNat then 1 else 0) ∧
  (∀ s wv sp, ready s wv sp (useSV d r) = true → ∃ l, mbit (actOf (waveAt s wv) sp) l = true ∧
    (∀ j, j < l → mbit (actOf (waveAt s wv) sp) j = false) ∧
    exec (.vtos y d r) s = .next (ends s wv sp (useSV d r) fun w => sset w d.val ((vec (seen s wv sp) r l).zeroExtend 64)))

/-- R139 to R148: the instructions that act on each element of the float type.
R66, R142: NaN results are the canonical NaN of the format; FMIN and FMAX pass over one NaN operand. -/
def Obligations.FloatElementInstructions : Prop :=
  (∀ (y : Bool) (d a : VReg) (b : BOp),
    let wm (c : Ctx) : Mask := c.wm
    let w (mode : Lane) : Nat := etWidth (floatType mode)
    let fm (c : Ctx) : Fmt := etFmt (floatType c.split.mode)
    let rm (c : Ctx) : Nat := modeRM c.split.mode
    let x (c : Ctx) (l e : Nat) : Nat := elemAt (w c.split.mode) (vec c a l).toNat e
    let v (c : Ctx) (l e : Nat) : Nat := elemAt (w c.split.mode) (bval c b l).toNat e
    let z (c : Ctx) (l e : Nat) : Nat := elemAt (w c.split.mode) (vec c d l).toNat e
    let r (q : FRes) : Nat × Flags := (q.bits, q.flags)
    WritesElements (.fadd y d a b) (useVVB d a b) d wm w (fun c l e => r (fAdd (fm c) (rm c) (x c l e) (v c l e))) ∧
    WritesElements (.fsub y d a b) (useVVB d a b) d wm w (fun c l e => r (fSub (fm c) (rm c) (x c l e) (v c l e))) ∧
    WritesElements (.fmul y d a b) (useVVB d a b) d wm w (fun c l e => r (fMul (fm c) (rm c) (x c l e) (v c l e))) ∧
    WritesElements (.ffma y d a b) (useAcc d a b) d wm w (fun c l e => r (fFma (fm c) (rm c) (x c l e) (v c l e) (z c l e))) ∧
    WritesElements (.fmin y d a b) (useVVB d a b) d wm w (fun c l e => (fMin (fm c) (x c l e) (v c l e), 0)) ∧
    WritesElements (.fmax y d a b) (useVVB d a b) d wm w (fun c l e => (fMax (fm c) (x c l e) (v c l e), 0)) ∧
    WritesElements (.fabs y d a) (useVV d a) d wm w (fun c l e => (fAbs (fm c) (x c l e), 0)) ∧
    WritesElements (.fneg y d a) (useVV d a) d wm w (fun c l e => (fNeg (fm c) (x c l e), 0)) ∧
    WritesElements (.frcp y d a) (useVV d a) d wm w (fun c l e => r (fRcp (fm c) (rm c) (x c l e))) ∧
    WritesElements (.fsqrt y d a) (useVV d a) d wm w (fun c l e => r (fSqrt (fm c) (rm c) (x c l e))) ∧
    WritesElements (.frsq y d a) (useVV d a) d wm w (fun c l e => r (boundedElem .rsq (fm c) (x c l e))) ∧
    WritesElements (.fexp2 y d a) (useVV d a) d wm w (fun c l e => r (boundedElem .exp2 (fm c) (x c l e))) ∧
    WritesElements (.flog2 y d a) (useVV d a) d wm w (fun c l e => r (boundedElem .log2 (fm c) (x c l e))) ∧
    WritesElements (.fsinpi y d a) (useVV d a) d wm w (fun c l e => r (boundedElem .sinpi (fm c) (x c l e))) ∧
    WritesElements (.fcospi y d a) (useVV d a) d wm w (fun c l e => r (boundedElem .cospi (fm c) (x c l e))) ∧
    WritesElements (.icvtf y d a) (useVV d a) d wm w (fun c l e => r (cvtIF (fm c) (rm c) (signedOf (w c.split.mode) (x c l e)))) ∧
    WritesElements (.fcvti y d a) (useVV d a) d wm w (fun c l e =>
      let n := w c.split.mode
      let q := cvtFI (fm c) (rm c) (-(2 ^ (n - 1) : Nat)) ((2 ^ (n - 1) : Nat) - 1) (x c l e)
      (wrapTo n q.1, q.2)) ∧
    WritesElements (.fclass y d a) (useVV d a) d wm w (fun c l e => (fClass (fm c) (x c l e), 0)) ∧
    WritesElements (.fscale y d a b) (useVVB d a b) d wm w
      (fun c l e => r (fScale (fm c) (rm c) (x c l e) (signedOf (w c.split.mode) (v c l e)))) ∧
    WritesElements (.frnd y d a) (useVV d a) d wm w (fun c l e => r (fRnd (fm c) (rm c) (x c l e)))) ∧
  (∀ (f : Fmt), f ∈ [f32, f16, bf16] → ∀ (rm x v z : Nat),
    (isNaNBits f x = true ∨ isNaNBits f v = true →
      (fAdd f rm x v).bits = fmtNaN f ∧ (fSub f rm x v).bits = fmtNaN f ∧ (fMul f rm x v).bits = fmtNaN f ∧
      (fAdd f rm x v).flags = 0 ∧ (fSub f rm x v).flags = 0 ∧ (fMul f rm x v).flags = 0) ∧
    (isNaNBits f x = true ∨ isNaNBits f v = true ∨ isNaNBits f z = true → (fFma f rm x v z).bits = fmtNaN f ∧ (fFma f rm x v z).flags = 0) ∧
    (isNaNBits f x = true →
      (fRcp f rm x).bits = fmtNaN f ∧ (fSqrt f rm x).bits = fmtNaN f ∧ (fRnd f rm x).bits = fmtNaN f ∧ fAbs f x = fmtNaN f ∧ fNeg f x = fmtNaN f ∧
      (isNaNBits f v = true → fMin f x v = fmtNaN f ∧ fMax f x v = fmtNaN f) ∧
      (isNaNBits f v = false → fMin f x v = v ∧ fMax f x v = v ∧ fMin f v x = v ∧ fMax f v x = v)))

/-- R145, R149 to R152: conversions between element types, dot products, QSCALE, PACK and UNPK. -/
def Obligations.ConversionAndDotInstructions : Prop := ∀ (y : Bool) (d a : VReg) (b : BOp) (t : Fin 128) (k : Fin 8),
  let wm (c : Ctx) : Mask := c.wm
  let et (c : Ctx) : Nat := intType c.split.mode
  let x (c : Ctx) (l : Nat) : Nat := (vec c a l).toNat
  let v (c : Ctx) (l : Nat) : Nat := (bval c b l).toNat
  let whole (_ : Lane) : Nat := 32
  let dot (c : Ctx) (l p acc n : Nat) : Nat × Flags :=
    intElem acc (modeSAT c.split.mode)
      (elemVal acc (vec c d l).toNat 0 + ((List.range n).map fun e => elemVal p (x c l) e * elemVal p (v c l) e).sum)
  (∀ s wv sp, let mode := (getSplit (waveAt s wv) sp).mode
    let keeps : Bool := decide (etCount t.val < etCount (modeET mode))
    let u : Usage := if keeps then useDVV d a else useVV d a
    ready s wv sp u = true →
    let c := seen s wv sp
    let f (l e : Nat) : Nat × Flags :=
      if e < etCount t.val then fcvtElem t.val (modeET mode) (modeRM mode) (elemAt (etWidth t.val) (x c l) e)
      else (elemAt (etWidth (modeET mode)) (vec c d l).toNat e, 0)
    ∃ (q : Nat → Lane) (fl : Flags),
      exec (.fcvt y d a t) s = .next (ends s wv sp u fun w => raise (writeRow w (rowOf w c.split.frame d.val) c.wm q) fl) ∧
      (∀ l e, mbit c.wm l = true → l < c.view.width → e < etCount (modeET mode) →
        elemAt (etWidth (modeET mode)) (q l).toNat e = (f l e).1 % 2 ^ etWidth (modeET mode)) ∧
      (∀ j, fl.getLsbD j = true ↔ ∃ l e, mbit c.wm l = true ∧ l < c.view.width ∧ e < etCount (modeET mode) ∧ (f l e).2.getLsbD j = true)) ∧
  WritesElements (.dot4 y d a b) (useAcc d a b) d wm whole (fun c l _ => if modeET c.split.mode = 8 then dot c l 8 1 4 else dot c l 7 0 4) ∧
  WritesElements (.dot8 y d a b) (useAcc d a b) d wm whole (fun c l _ => if modeET c.split.mode = 10 then dot c l 10 1 8 else dot c l 9 0 8) ∧
  WritesElements (.dot2f y d a b) (useAcc d a b) d wm whole (fun c l _ =>
    let p := if modeET c.split.mode = 6 then bf16 else f16
    let q := fDot2 p (modeRM c.split.mode) (x c l % 2 ^ 16) (v c l % 2 ^ 16) (x c l / 2 ^ 16) (v c l / 2 ^ 16) (vec c d l).toNat
    (q.bits, q.flags)) ∧
  WritesElements (.qscale y d a b) (useVVB d a b) d wm whole (fun c l _ =>
    let q := fQscale (modeRM c.split.mode) (vec c a l).toInt (v c l)
    (q.bits, q.flags)) ∧
  WritesElements (.pack y d a k) (useDVV d a) d wm (fun m => etWidth (intType m)) (fun c l e =>
    if e = k.val % etCount (et c) then intElem (et c) true (if etSigned (et c) then (vec c a l).toInt else (x c l : Nat))
    else (elemAt (etWidth (et c)) (vec c d l).toNat e, 0)) ∧
  WritesLanes (.unpk y d a k) (useVV d a) d wm (fun c l => BitVec.ofInt 32 (elemVal (et c) (x c l) (k.val % etCount (et c))))

/-- R157, R158: the mask instructions act on all 128 bits, whatever ACT and the guard hold.
R155, R156: the permutations. A source lane beyond the width reads zero; the lanes of the source need not be active. R119: a lane of another split
in a detached frame is a free value (log 14); every other source lane is the register's. -/
def Obligations.MaskAndLaneInstructions : Prop :=
  (∀ (y : Bool) (d a b : MReg) (q r : SReg) (hi : Bool),
    let below (c : Ctx) : List Nat := (List.range c.view.width).filter fun l => mbit (mget c.view a.val) l
    CompletesWith (.mand y d a b) {} (fun c w => mset w d.val (mget c.view a.val &&& mget c.view b.val)) ∧
    CompletesWith (.mor y d a b) {} (fun c w => mset w d.val (mget c.view a.val ||| mget c.view b.val)) ∧
    CompletesWith (.mxor y d a b) {} (fun c w => mset w d.val (mget c.view a.val ^^^ mget c.view b.val)) ∧
    CompletesWith (.mandn y d a b) {} (fun c w => mset w d.val (mget c.view a.val &&& ~~~ mget c.view b.val)) ∧
    WritesScalar (.mtos y q a hi) (useSw q) q (fun c => (mget c.view a.val).extractLsb' (if hi then 64 else 0) 64) ∧
    CompletesWith (.stom y d r hi) (useSr r) (fun c w => mset w d.val
      (if hi then sca c r ++ (mget c.view d.val).extractLsb' 0 64 else (mget c.view d.val).extractLsb' 64 64 ++ sca c r)) ∧
    WritesScalar (.mpopc y q a) (useSw q) q (fun c => BitVec.ofNat 64 (below c).length) ∧
    WritesScalar (.mfirst y q a) (useSw q) q (fun c => match below c with
      | [] => BitVec.allOnes 64
      | l :: _ => BitVec.ofNat 64 l)) ∧
  (∀ (y : Bool) (d a b : VReg) (r : SReg) (k : Fin 4),
    let wm (c : Ctx) : Mask := c.wm
    let lane (c : Ctx) (j : Nat) : Lane := laneVal c a.val j
    WritesLanes (.shfl y d a b) { vr := [(a.val, 1), (b.val, 1)], vw := [(d.val, 1)] } d wm (fun c l => lane c (vec c b l).toNat) ∧
    WritesLanes (.shflx y d a r) { useVV d a with sr := [r.val] } d wm (fun c l => lane c (l ^^^ (sca c r).toNat)) ∧
    WritesLanes (.qswap y d a k) (useVV d a) d wm (fun c l => lane c (l ^^^ k.val)) ∧
    WritesLanes (.qbcast y d a k) (useVV d a) d wm (fun c l => lane c (l / 4 * 4 + k.val)) ∧
    ∀ (c : Ctx) (j : Nat), (c.view.width ≤ j → lane c j = 0) ∧
      (j < c.view.width → (a.val < 32 ∨ mbit (otherLanes c.view c.sp) j = false ∨ frameDetached c.view c.split.frame = false) → lane c j = vec c a j))

/-- R76, R159, R160: reductions into a scalar and running sums. For an integer type the result is the exact sum, minimum or maximum over the
lanes of the write mask, element by element for a packed type (with SA where a sum is clamped), and the type's limit (0 for a sum) where no
lane contributes. For a float type it is the top node of the pairwise tree of R76 over all W leaves, with the identity at the lanes outside
the write mask, and the flags of REDADD are those of its nodes. A running sum is the exact sum up to its lane, each delivered under R71. -/
def Obligations.ReductionInstructions : Prop := ∀ (y : Bool) (q : SReg) (d a : VReg),
  let lanes (c : Ctx) : List Nat := (List.range c.view.width).filter fun l => mbit c.wm l
  let x (c : Ctx) (l : Nat) : Nat := (vec c a l).toNat
  let run (op : RedOp) (c : Ctx) : Scalar × Flags := reduce op c.split.mode c.wm c.view.width (x c)
  let at_ (op : RedOp) (c : Ctx) (e : Nat) : Nat := elemAt (etWidth (modeET c.split.mode)) (run op c).1.toNat e
  CompletesWith (.redadd y q a) (useSV q a) (fun c w => raise (sset w q.val (run .add c).1) (run .add c).2) ∧
  CompletesWith (.redmin y q a) (useSV q a) (fun c w => raise (sset w q.val (run .min c).1) (run .min c).2) ∧
  CompletesWith (.redmax y q a) (useSV q a) (fun c w => raise (sset w q.val (run .max c).1) (run .max c).2) ∧
  (∀ (c : Ctx), let et := modeET c.split.mode
    et ∈ [0, 1] →
    (run .add c).1 = BitVec.ofInt 64 ((lanes c).map fun l => elemVal et (x c l) 0).sum ∧
    (∀ l, l ∈ lanes c → ∃ m ∈ lanes c, (run .min c).1 = BitVec.ofInt 64 (elemVal et (x c m) 0) ∧ elemVal et (x c m) 0 ≤ elemVal et (x c l) 0) ∧
    (∀ l, l ∈ lanes c → ∃ m ∈ lanes c, (run .max c).1 = BitVec.ofInt 64 (elemVal et (x c m) 0) ∧ elemVal et (x c l) 0 ≤ elemVal et (x c m) 0)) ∧
  (∀ (c : Ctx), let et := modeET c.split.mode
    lanes c = [] →
    (et ∈ [0, 1] → (run .add c).1 = 0 ∧ (run .min c).1 = BitVec.ofInt 64 (etHi et) ∧ (run .max c).1 = BitVec.ofInt 64 (etLo et)) ∧
    (∀ e, e < etCount et →
      (et ∈ [2, 3, 7, 8, 9, 10] → at_ .add c e = 0 ∧ at_ .min c e = wrapTo (etWidth et) (etHi et) ∧ at_ .max c e = wrapTo (etWidth et) (etLo et)) ∧
      (et ∈ [4, 5, 6] →
        at_ .add c e = 0 ∧ at_ .min c e = fmtInf (etFmt et) ∧ at_ .max c e = fmtSign (etFmt et) + fmtInf (etFmt et)))) ∧
  (∀ (c : Ctx), let et := modeET c.split.mode
    et ∈ [2, 3, 7, 8, 9, 10] →
    let sum (e : Nat) : Int := ((lanes c).map fun l => elemVal et (x c l) e).sum
    ((run .add c).2 = flSA ↔ modeSAT c.split.mode = true ∧ ∃ e, e < etCount et ∧ (sum e < etLo et ∨ etHi et < sum e)) ∧
    ((run .add c).2 = 0 ∨ (run .add c).2 = flSA) ∧ (run .min c).2 = 0 ∧ (run .max c).2 = 0 ∧
    (∀ op : RedOp, (run op c).1.toNat < 2 ^ 32) ∧
    (∀ e, e < etCount et → at_ .add c e = (intElem et (modeSAT c.split.mode) (sum e)).1 ∧
      ∀ l, l ∈ lanes c →
        (∃ m ∈ lanes c, at_ .min c e = wrapTo (etWidth et) (elemVal et (x c m) e) ∧ elemVal et (x c m) e ≤ elemVal et (x c l) e) ∧
        (∃ m ∈ lanes c, at_ .max c e = wrapTo (etWidth et) (elemVal et (x c m) e) ∧ elemVal et (x c l) e ≤ elemVal et (x c m) e))) ∧
  (∀ (c : Ctx) (log : Nat), let et := modeET c.split.mode
    let f := etFmt et
    let rm := modeRM c.split.mode
    et ∈ [4, 5, 6] → log ∈ [5, 6, 7] → c.view.width = 2 ^ log → lanes c ≠ [] →
    let node (op : Nat → Nat → Nat) (id : Nat) (e : Nat) : Nat → Nat → Nat :=
      treeNode op fun l => if mbit c.wm l then elemAt (etWidth et) (x c l) e else id
    let plus (u v : Nat) : Nat := (fAdd f rm u v).bits
    (run .min c).2 = 0 ∧ (run .max c).2 = 0 ∧ (∀ op : RedOp, (run op c).1.toNat < 2 ^ 32) ∧
    (∀ e, e < etCount et →
      at_ .add c e = node plus (fmtSign f) e log 0 % 2 ^ etWidth et ∧
      at_ .min c e = node (fMin f) (fmtInf f) e log 0 % 2 ^ etWidth et ∧
      at_ .max c e = node (fMax f) (fmtSign f + fmtInf f) e log 0 % 2 ^ etWidth et) ∧
    (∀ k, (run .add c).2.getLsbD k = true ↔ ∃ e l j, e < etCount et ∧ l < log ∧ j < 2 ^ (log - 1 - l) ∧
      (fAdd f rm (node plus (fmtSign f) e l (2 * j)) (node plus (fmtSign f) e l (2 * j + 1))).flags.getLsbD k = true)) ∧
  WritesElements (.scanadd y d a) (useVV d a) d (fun c => c.wm) (fun m => etWidth (modeET m)) (fun c l e =>
    let et := modeET c.split.mode
    if etIsFloat et then scanAt (scanFloat et (modeRM c.split.mode) (x c) e none (lanes c)) l
    else intElem et (modeSAT c.split.mode) (((lanes c).filter fun m => m ≤ l).map fun m => elemVal et (x c m) e).sum)

/-- R88, R161: MSET, MSETH and MWR write the split's MODE, or trap with nothing changed where the new value is reserved; MRD reads it.
R164, R388: THSET sets the five levels of a threshold register, and TMSET the timer compare word; a negative time traps. -/
def Obligations.ModeThresholdAndTimer : Prop :=
  (∀ (y : Bool) (i : BitVec 16) (d a : SReg),
    let writes (ins : Instr) (u : Usage) (new : Ctx → Lane) : Prop := ∀ s wv sp, ready s wv sp u = true →
      let m := new (seen s wv sp)
      (modeLegal m = true → exec ins s = .next (ends s wv sp u fun w => putSplit w sp { getSplit w sp with mode := m })) ∧
      (modeLegal m = false → exec ins s = .next (traps s wv sp u 0x01 0 0))
    writes (.mset y i) {} (fun c => c.split.mode.extractLsb' 16 16 ++ i) ∧
    writes (.mseth y i) {} (fun c => i ++ c.split.mode.extractLsb' 0 16) ∧
    writes (.mwr y a) (useSr a) (fun c => (sca c a).extractLsb' 0 32) ∧
    WritesScalar (.mrd y d) (useSw d) d (fun c => (0 : BitVec 32) ++ c.split.mode)) ∧
  (∀ (y : Bool) (d : ThReg) (a b : SReg),
    CompletesWith (.thset y d a b) { sr := [a.val, b.val] } (fun c w =>
      let level (k : Nat) (v : Scalar) (w : Wave) : Wave := thSet w d.val (k + 1) (v.toNat / 2 ^ (16 * (k % 4)) % 2 ^ 16)
      level 4 (sca c b) (level 3 (sca c a) (level 2 (sca c a) (level 1 (sca c a) (level 0 (sca c a) w))))) ∧
    ∀ s wv sp, ready s wv sp (useSr a) = true →
      let v := sget (waveAt s wv) a.val
      let w := waveAt s wv
      (v.getLsbD 63 = true → exec (.tmset y a) s = .next (traps s wv sp (useSr a) 0x01 0 0)) ∧
      (v = 0 → exec (.tmset y a) s = .next (ends s wv sp (useSr a) fun w => { w with tim := { w.tim with tmcmp := w.tim.tmcmp &&& 0x7FFFFFFFFFFFFFFF } })) ∧
      (v ≠ 0 → v.getLsbD 63 = false → exec (.tmset y a) s = .next (ends s wv sp (useSr a) fun z =>
        { z with tim := { z.tim with tmcmp := BitVec.ofNat 64 (2 ^ 63 + min (w.tim.wtime + v.toNat) (2 ^ 63 - 1)) } })))

/-- R91, R162: what RDSPEC and CWRD deliver.
R52, R391: the reserved words 0x105 to 0x13F and 0x144 to 0x1FF, and the reserved counters 0x05D to 0x05F, read 0. -/
def Obligations.SpecialAndControlReads : Prop := ∀ (y : Bool) (d : VReg) (q : SReg) (s : State) (wv sp : Nat),
  let w := waveAt s wv
  let x := getSplit w sp
  let isl := islandAt s (islandOf s w)
  let core := coreAt s (w.quarter / 4)
  let word : List (Nat × Nat) := [
    (0x000, s.dev.cycle), (0x001, w.tim.wtime), (0x002, w.tim.tmcmp.toNat),
    (0x010, x.frame.base % 2 ^ 40 + x.frame.nin * 2 ^ 48 + x.frame.nloc * 2 ^ 53 + x.frame.nout * 2 ^ 59),
    (0x011, w.win.rows - (w.win.top - w.win.bottom)), (0x012, w.win.bstore), (0x013, w.win.bsize), (0x014, w.win.bused),
    (0x015, w.win.spills), (0x016, w.win.refills), (0x017, w.win.low + w.win.rahi * 2 ^ 16),
    (0x020, w.evt.trapvec), (0x021, w.evt.cause.toNat), (0x022, w.evt.tpc), (0x023, w.evt.taddr),
    (0x024, w.evt.replay.toNat % 2 ^ 64), (0x025, w.evt.replay.toNat / 2 ^ 64),
    (0x026, if x.region.isOpen then x.region.entry else 0), (0x027, x.region.cnt),
    (0x030, w.ctl.mergewait), (0x031, w.regs.flags.toNat * 2 ^ 16 + (if w.regs.strict then 1 else 0)), (0x032, w.tim.spinq),
    (0x033, isl.repstall), (0x060, core.conflicts), (0x070, islandOf s w), (0x071, islAsid isl),
    (0x100, isl.t1), (0x101, isl.t2), (0x103, isl.lost), (0x104, s.dev.corrected),
    (0x140, core.recons), (0x141, core.survivors), (0x142, core.skipped), (0x143, core.apart)]
  let special (k l : Nat) : Nat := match k with
    | 0 => l
    | 1 => l / 4
    | 2 => w.num
    | 3 => w.role
    | 4 => (groupAt s w.group).index
    | 5 => w.width
    | 6 => sp
    | 7 => w.quarter / 4 % 256 + w.quarter % 4 * 256
    | 8 => w.quarter / 32
    | 9 => w.quarter / 256
    | 10 => islandOf s w
    | _ => if mbit w.ctl.helpers l then 1 else 0
  (∀ p ∈ word, ∀ n : Fin 4096, n.val = p.1 → ready s wv sp { useSw q with priv := decide (0x100 ≤ n.val) } = true →
    exec (.cwrd y q n) s = .next (ends s wv sp (useSw q) fun w => sset w q.val (BitVec.ofNat 64 p.2))) ∧
  (∀ n : Fin 4096,
    [0x05D, 0x05E, 0x05F].contains n.val = true ∨ (0x105 ≤ n.val ∧ n.val ≤ 0x13F) ∨ (0x144 ≤ n.val ∧ n.val ≤ 0x1FF) →
    ready s wv sp { useSw q with priv := decide (0x100 ≤ n.val) } = true →
    exec (.cwrd y q n) s = .next (ends s wv sp (useSw q) fun w => sset w q.val 0)) ∧
  (∀ n : Fin 4096, 0x040 ≤ n.val → n.val ≤ 0x05C → ready s wv sp (useSw q) = true →
    exec (.cwrd y q n) s = .next (ends s wv sp (useSw q) fun w => sset w q.val (BitVec.ofNat 64 (spGet 0 core.stalls (n.val - 0x040))))) ∧
  (∀ k : Fin 16, k.val ≤ 11 → ready s wv sp (useV d) = true →
    exec (.rdspec y d k) s = .next (ends s wv sp (useV d) fun w =>
      writeRow w (rowOf w x.frame d.val) (writeMask w sp) fun l => BitVec.ofNat 32 (special k.val l)))

/-- R52: a reserved privileged word is ignored. R406: FAULTRES (0x102) with verdict 1 or 2 applies the verdict to the queue entry of that
slot and nothing else, and changes nothing where no entry has it.
R91 to R93, R104, R388, R407: CWWR word by word; a word that is read only is left as it is. -/
def Obligations.ControlWordWrites : Prop := ∀ (y : Bool) (a : SReg) (n : Fin 4096) (s : State) (wv sp : Nat),
  let u : Usage := { useSr a with priv := decide (0x100 ≤ n.val), closes := true }
  let v := (sget (waveAt s wv) a.val).toNat
  let here := islandOf s (waveAt s wv)
  let isl := islandAt s here
  let waves (b : Bool) (z : Wave → Wave) : Prop := b = true → exec (.cwwr y a n) s = .next (ends s wv sp u z)
  let island (b : Bool) (z : Island) : Prop := b = true → exec (.cwwr y a n) s = .next (ends (putIsland s here z) wv sp u id)
  ready s wv sp u = true →
    ((0x105 ≤ n.val ∧ n.val ≤ 0x13F) ∨ (0x144 ≤ n.val ∧ n.val ≤ 0x1FF) → exec (.cwwr y a n) s = .next (ends s wv sp u id)) ∧
    (n.val = 0x102 → v / 2 ^ 12 % 4 = 1 ∨ v / 2 ^ 12 % 4 = 2 →
      (slotIndex isl (v % 2 ^ 12) = none → exec (.cwwr y a n) s = .next (ends s wv sp u id)) ∧
      (∀ k, slotIndex isl (v % 2 ^ 12) = some k → exec (.cwwr y a n) s =
        .next (finish (applyVerdict here k (decide (v / 2 ^ 12 % 4 = 1)) (entered s wv sp true)) wv sp y false .done))) ∧
    waves (n.val = 0x002) (fun w => { w with tim := { w.tim with tmcmp := sget w a.val } }) ∧
    waves (n.val = 0x012) (fun w => if w.win.bused = 0 then { w with win := { w.win with bstore := v % 2 ^ 57 - v % 2 ^ 7 } } else w) ∧
    waves (n.val = 0x013) (fun w =>
      if w.win.bused ≤ v then { w with win := { w.win with bsize := if 2 ^ 40 < v then 2 ^ 40 else v - v % 4 } } else w) ∧
    waves (n.val = 0x015) (fun w => { w with win := { w.win with spills := v } }) ∧
    waves (n.val = 0x016) (fun w => { w with win := { w.win with refills := v } }) ∧
    waves (n.val = 0x017) (fun w => { w with win := { w.win with low := v % 2 ^ 10, rahi := v / 2 ^ 16 % 2 ^ 10 } }) ∧
    waves (n.val = 0x020) (fun w => { w with evt := { w.evt with trapvec := v % 2 ^ 57 - v % 4 } }) ∧
    waves (n.val = 0x022) (fun w => { w with evt := { w.evt with tpc := v % 2 ^ 57 - v % 4 } }) ∧
    waves (n.val = 0x030) (fun w => { w with ctl := { w.ctl with mergewait := v % 2 ^ 32 } }) ∧
    waves (n.val = 0x031) (fun w => { w with regs := { w.regs with
      flags := (w.regs.flags &&& ~~~ BitVec.ofNat 6 (v / 2 ^ 16)) ||| w.tim.fresh, strict := decide (v % 2 = 1) } }) ∧
    waves (n.val = 0x032) (fun w => { w with tim := { w.tim with spinq := v } }) ∧
    island (n.val = 0x033 && privileged s (waveAt s wv)) { isl with repstall := v } ∧
    waves (n.val = 0x033 && !privileged s (waveAt s wv)) id ∧
    island (n.val = 0x100) { isl with t1 := v % 2 ^ 32 } ∧
    island (n.val = 0x101) { isl with t2 := v % 2 ^ 32 } ∧
    waves (n.val = 0x102 && (v / 2 ^ 12 % 4 = 0 || v / 2 ^ 12 % 4 = 3)) id ∧
    waves ([0x000, 0x001, 0x010, 0x011, 0x014, 0x021, 0x023, 0x024, 0x025, 0x026, 0x027, 0x060, 0x070, 0x071, 0x103, 0x104,
      0x140, 0x141, 0x142, 0x143].contains n.val || (decide (0x040 ≤ n.val) && decide (n.val ≤ 0x05F))) id

/-- R368: structured control over the nesting counters. -/
def Obligations.StructuredControl : Prop := ∀ (y : Bool) (m : MReg) (o : BitVec 16) (n : Fin 64),
  let dest (c : Ctx) : Nat := target c.split.pc o.toInt
  let next (c : Ctx) : Nat := (c.split.pc + 4) % 2 ^ 57
  Nests (.ifM y m o) (fun k => k = 63) (fun c l k => if k = 0 then (if mbit (mget c.view m.val) l then 0 else 1) else k + 1)
    (fun c live => if live then next c else dest c) ∧
  Nests (.elseM y o) (fun _ => false) (fun _ _ k => if k = 0 then 1 else if k = 1 then 0 else k) (fun c live => if live then next c else dest c) ∧
  Nests (.endif y) (fun _ => false) (fun _ _ k => k - 1) (fun c _ => next c) ∧
  (∀ s wv sp, ready s wv sp skipUse = true →
    let c := seen s wv sp
    let lanes := liveLanes (waveAt s wv) sp
    let k (l : Nat) : Nat := cntGet (waveAt s wv) l
    let level (i : Instr) (by_ : Nat) : Prop :=
      exec i s = .next (ends s wv sp skipUse fun w => cntMap (c.act &&& mget c.view m.val) (fun _ _ => n.val + by_) 128 w)
    (c.act = 0 → exec (.loop y o) s = .next (jumps s wv sp skipUse id (dest c))) ∧
    (c.act ≠ 0 → (∀ l, mbit lanes l = true → k l ≤ 61) →
      exec (.loop y o) s = .next (jumps s wv sp skipUse (fun w => cntMap lanes (fun _ k => if k = 0 then 0 else k + 2) 128 w) (next c))) ∧
    (c.act ≠ 0 → (∃ l, mbit lanes l = true ∧ 61 < k l) → exec (.loop y o) s = .next (traps s wv sp skipUse 0x09 0 0)) ∧
    (n.val ≤ 61 → level (.brk y m n) 2) ∧ (61 < n.val → exec (.brk y m n) s = .next (traps s wv sp skipUse 0x09 0 0)) ∧
    (n.val ≤ 62 → level (.cont y m n) 1) ∧ (n.val = 63 → exec (.cont y m n) s = .next (traps s wv sp skipUse 0x09 0 0)) ∧
    ((∃ l, l < c.view.width ∧ mbit lanes l = true ∧ k l ≤ 1) →
      exec (.endloop y o) s = .next (jumps s wv sp skipUse (fun w => cntMap lanes (fun _ k => if k = 1 then 0 else k) 128 w) (dest c))) ∧
    ((∀ l, mbit lanes l = true → 2 ≤ k l) →
      exec (.endloop y o) s = .next (ends s wv sp skipUse fun w => cntMap lanes (fun _ k => k - 2) 128 w)))

/-- R44, R369: jumps and branches change nothing but the pc.
R370, R371: JMPX to one address moves the split; to several it keeps the lanes of the first target and gives each further target, in the
order of its lowest lane, a free split entry. -/
def Obligations.JumpsAndBranches : Prop :=
  (∀ (y : Bool) (o : BitVec 23) (x : SReg) (m : MReg) (q : BitVec 16) (s : State) (wv sp : Nat),
    let w := waveAt s wv
    let pc := (getSplit w sp).pc
    let at_ (k : Int) : Nat := (((pc : Int) + 4 * k) % 2 ^ 57).toNat
    let goes (i : Instr) (u : Usage) (taken : Prop) : Prop := ready s wv sp u = true →
      (taken → exec i s = .next (jumps s wv sp u id (at_ q.toInt))) ∧ (¬ taken → exec i s = .next (jumps s wv sp u id (at_ 1)))
    (ready s wv sp {} = true → exec (.jmp y o) s = .next (jumps s wv sp {} id (at_ o.toInt))) ∧
    goes (.brs y x q) (useSr x) (sget w x.val ≠ 0) ∧
    goes (.brany y m q) {} (∃ l, mbit (actOf w sp) l = true ∧ mbit (mget w m.val) l = true) ∧
    goes (.brall y m q) {} (∀ l, mbit (actOf w sp) l = true → mbit (mget w m.val) l = true)) ∧
  (∀ (y : Bool) (a : VReg) (s : State) (wv sp : Nat),
    let u : Usage := { vr := [(a.val, 1)] }
    let c := seen s wv sp
    let gs := targetGroups (laneTarget c a) c.act
    let parts (gs : List (Nat × Mask)) (w : Wave) : Wave := gs.foldl (fun w g => splitOff w sp g.2 g.1) w
    ready s wv sp u = true →
      (∀ t, (∀ l, mbit c.act l = true → laneTarget c a l = t) → exec (.jmpx y a) s = .next (jumps s wv sp u id t)) ∧
      (∀ g rest, gs = g :: rest → rest ≠ [] → rest.length ≤ freeEntries (waveAt s wv) →
        exec (.jmpx y a) s = .next (jumps s wv sp u (fun w => parts rest (putSplit w sp (closeRegion (getSplit w sp)))) g.1)) ∧
      (∀ g rest, gs = g :: rest → freeEntries (waveAt s wv) < rest.length → c.split.leftover.held = false →
        let left := unionMasks (rest.drop (freeEntries (waveAt s wv)))
        exec (.jmpx y a) s = .next (jumps s wv sp u (fun w =>
          let z := cntMap left (fun _ _ => 1) 128 (parts (rest.take (freeEntries (waveAt s wv))) (putSplit w sp (closeRegion (getSplit w sp))))
          putSplit z sp { getSplit z sp with leftover := { held := true, kind := 0, lanes := left, addr := c.split.pc } }) g.1)) ∧
      (∀ g rest, gs = g :: rest → freeEntries (waveAt s wv) < rest.length → c.split.leftover.held = true →
        exec (.jmpx y a) s = .next (traps s wv sp u 0x0A 0 0)) ∧
      (∀ l t, (mbit c.act l = true ∧ laneTarget c a l = t) ↔ ∃ g ∈ gs, g.1 = t ∧ mbit g.2 l = true))

/-- R373, R377, R378: MERGE, EXIT, NOP and YIELD, and the two events that move parked splits on. -/
def Obligations.ParkingAndExit : Prop := ∀ (y : Bool) (s : State) (wv sp : Nat),
  let w := waveAt s wv
  let spent : State := { s with free := s.free + 2 }
  let runs (i : Nat) : Bool := i != sp && !(getSplit w i).held && decide ((getSplit w i).park.kind = .no)
  CompletesWith (.nop y) {} (fun _ w => w) ∧
  (ready s wv sp skipUse = true → (liveSplits w).any runs = true →
    exec (.merge y) s = .next (putWave spent wv (parkSplit (openIssue w sp false) sp .merge))) ∧
  (ready s wv sp skipUse = true → liveSplits w = [sp] → jmpxHolder (getSplit w sp) = false →
    ∃ t, exec (.merge y) s = .next t ∧ (getSplit (waveAt t wv) sp).pc = ((getSplit w sp).pc + 4) % 2 ^ 57 ∧
      (getSplit (waveAt t wv) sp).park.kind = .no ∧ (waveAt t wv).regs = w.regs ∧ (waveAt t wv).ctl.counters = w.ctl.counters ∧ t.dev = s.dev) ∧
  (ready s wv sp { closes := true } = true → handlerRuns w = false → (getSplit w sp).lanes &&& ~~~ actOf w sp ≠ 0 →
    exec (.exit y) s = .next (ends s wv sp { closes := true } fun z =>
      putSplit { z with ctl := { z.ctl with exited := z.ctl.exited ||| actOf w sp } } sp
        { getSplit z sp with lanes := (getSplit z sp).lanes &&& ~~~ actOf w sp })) ∧
  (ready s wv sp { closes := true } = true →
    (handlerRuns w = true ∨ ((getSplit w sp).lanes &&& ~~~ actOf w sp = 0 ∧ liveSplits w = [sp])) →
    ∃ t, exec (.exit y) s = .next t ∧ tbGet? t.waves wv = none) ∧
  (ready s wv sp { closes := true } = true → handlerRuns w = false → (getSplit w sp).lanes &&& ~~~ actOf w sp = 0 → (liveSplits w).any runs = true →
    let z := exitLanes (openIssue w sp true) sp (actOf w sp)
    exec (.exit y) s = .next (putWave spent wv z) ∧ (getSplit z sp).valid = false ∧ z.ctl.exited = w.ctl.exited ||| actOf w sp ∧
      (∀ i, i ≠ sp → getSplit z i = getSplit w i) ∧ z.regs = w.regs ∧ z.ctl.counters = w.ctl.counters ∧
      (∀ i, i ∈ liveSplits z ↔ i ∈ liveSplits w ∧ i ≠ sp)) ∧
  (ready s wv sp {} = true → (∀ h, holdOf (quarterAt s w.quarter) wv = some h → h.pin = true) →
    exec (.yield y) s = .next (ends s wv sp {} id)) ∧
  (ready s wv sp {} = true → ∀ h, holdOf (quarterAt s w.quarter) wv = some h → h.pin = false →
    exec (.yield y) s = .next (ends (putQuarter s w.quarter (vacate wv (quarterAt s w.quarter))) wv sp {} fun z =>
      { z with tim := { z.tim with age := max s.dev.cycle (z.tim.passEnd - 1) } })) ∧
  (tbGet? s.waves wv = some w → mergeExpired w = true → ∃ t, exec (.mergeWaitExpiry wv) s = .next t ∧
    ∀ i, i < 4 → (getSplit w i).valid = true → (getSplit (waveAt t wv) i).valid = true → (getSplit w i).park.kind = .merge →
      jmpxHolder (getSplit (waveAt t wv) i) = false → (getSplit (waveAt t wv) i).pc = ((getSplit w i).pc + 4) % 2 ^ 57) ∧
  (tbGet? s.waves wv = some w → mayRespawn w sp = true →
    exec (.leftoverRespawn wv sp) s = .next (putWave s wv (respawn w sp)))

/-- R105 to R108, R372: FRAME, CALL, CALLX, RET and the link instructions, when no transfer is needed and no limit is passed. -/
def Obligations.WindowInstructions : Prop :=  ∀ (y : Bool) (nin nout : Fin 32) (nloc : Fin 64) (o : BitVec 23) (a : VReg) (q : SReg) (s : State) (wv sp : Nat),
  let u : Usage := { closes := true }
  let w := waveAt s wv
  let x := getSplit w sp
  let f := x.frame
  let spent : State := { s with free := s.free + 2 }
  let z := openIssue w sp true
  let back := (x.pc + 4) % 2 ^ 57
  let rec_ := recOfLink w (linkPos f)
  let f' : Frame := { f with nloc := nloc.val, nout := nout.val }
  let need := frameEnd f' - w.win.top
  let l := readLink w (linkPos f)
  let roomFor (n : Nat) : Prop := w.win.service = .clear ∧ n ≤ wfree w ∧ overflows w n = false
  (ready s wv sp u = true → nin.val = f.nin → nin.val + nloc.val + nout.val ≤ 96 → frameEnd f' - rec_.start ≤ w.win.rows → roomFor need →
    ((highestRec w).start = rec_.start ∨ (∀ r ∈ w.win.records, ¬ (rec_.start < r.start ∧ r.start < frameEnd f'))) →
    exec (.frame y nin nloc nout) s =
      .next (ends s wv sp u fun w => joinRows s.free sp f f' (frameTop (putSplit w sp { getSplit w sp with frame := f' }) sp)) ∧
    ∀ row lane, let v := rowGet (joinRows s.free sp f f' (frameTop (putSplit z sp { getSplit z sp with frame := f' }) sp)) row lane
      spWf 0 w.regs.vec = true → lane < 128 → v = rowGet w row lane ∨
        (v = 0 ∧ mbit (otherLanes w sp) lane = false ∧ ∃ p, frameEnd f ≤ p ∧ p < frameEnd f' ∧ row = ringRow w p)) ∧
  (ready s wv sp u = true → (nin.val ≠ f.nin ∨ 96 < nin.val + nloc.val + nout.val ∨ w.win.rows < frameEnd f' - rec_.start) →
    exec (.frame y nin nloc nout) s = .next (traps s wv sp u 0x06 0 0)) ∧
  (ready s wv sp u = true → w.win.top + callRows w f < 2 ^ 40 → roomFor (callRows w f) →
    exec (.call y o) s = .next (putWave spent wv (doCall w sp 1 (target x.pc o.toInt) back x.leftover z))) ∧
  (ready s wv sp u = true → (2 ^ 40 ≤ w.win.top + callRows w f ∨ overflows w (callRows w f) = true) →
    exec (.call y o) s = .next (traps s wv sp u 0x07 0 0)) ∧
  (ready s wv sp { u with vr := [(a.val, 1)] } = true → w.win.top + callRows w f < 2 ^ 40 → roomFor (callRows w f) → x.retry = false →
    (∀ i, mbit (liveLanes w sp) i = true → cntGet w i ≠ 63) →
    ∀ t, (∀ i, mbit (actOf w sp) i = true → laneTarget (seen s wv sp) a i = t) →
    exec (.callx y a) s = .next (putWave spent wv (doCall w sp 2 t back x.leftover
      (let z1 := cntMap (liveLanes w sp) (fun _ k => if 0 < k then k + 1 else k) 128 z
       putSplit z1 sp { getSplit z1 sp with retry := false })))) ∧
  (ready s wv sp u = true → l.kind ≠ 0 → w.win.service = .clear → w.win.bottom ≤ linkPos l.frame →
    exec (.ret y) s = .next (putWave spent wv (doRet w sp l z))) ∧
  (ready s wv sp u = true → l.kind = 0 → liveSplits w = [sp] → x.lanes &&& ~~~ liveLanes w sp = 0 →
    ∃ t, exec (.ret y) s = .next t ∧ tbGet? t.waves wv = none) ∧
  (w.commits = 0 → ready s wv sp {} = true → exec (.wflush y) s = .next (ends s wv sp {} id)) ∧
  (ready s wv sp (useSw q) = true → exec (.rdlink y q) s = .next (ends s wv sp (useSw q) fun w => sset w q.val (BitVec.ofNat 64
    ((l.frame.nin + l.frame.nloc) % 2 ^ 7 * 2 ^ 57 + l.ret / 4 * 4 + (if l.kind = 0 then 2 else 0) + (if l.leftover.held then 1 else 0))))) ∧
  (ready s wv sp (useSr q) = true → exec (.wrlink y q) s = .next (ends s wv sp (useSr q) fun w =>
    let v := (sget (waveAt s wv) q.val).toNat % 2 ^ 57 / 4 * 4
    let row := ringRow w (linkPos f)
    if l.kind = 0 then w else rowSet (rowSet w row 0 (BitVec.ofNat 32 v)) row 1 (BitVec.ofNat 32 (v / 2 ^ 32))))

/-- R102, R106: what a call leaves: the caller's outs are the callee's ins, the link record is written, and a record of the frame is added.
R102: a link record that is written to a row of a wave of at least 32 lanes reads back. -/
def Obligations.CallAndLinkRecord : Prop :=
  (∀ (view w : Wave) (sp kind tgt ret : Nat) (left : Leftover),
    let x := getSplit w sp
    let f := x.frame
    let t := doCall view sp kind tgt ret left w
    let det : Bool := decide (frameEnd f ≠ w.win.top)
    let base := if det then w.win.top else f.base + f.nin + 1 + f.nloc
    sp < w.ctl.splits.length →
    (getSplit t sp).frame = { base := base, nin := f.nout, nloc := 0, nout := 0 } ∧ (getSplit t sp).pc = tgt ∧
    (getSplit t sp).leftover = {} ∧ (getSplit t sp).lanes = x.lanes ∧ (getSplit t sp).mode = x.mode ∧
    (∀ i, i ≠ sp → getSplit t i = getSplit w i) ∧
    t.win.top = base + f.nout + 1 ∧
    t.win.records = w.win.records ++ [{ start := if det then base else base + f.nout, base := base, link := base + f.nout, overlaid := !det,
                                        caller := some (linkPos f) }] ∧
    t.regs.sca = w.regs.sca ∧ t.regs.msk = w.regs.msk ∧ t.regs.th = w.regs.th ∧ t.regs.flags = w.regs.flags ∧ t.ctl.counters = w.ctl.counters) ∧
  (∀ (w : Wave) (pos ret kind : Nat) (f : Frame) (det : Bool) (l : Leftover),
    spWf 0 w.regs.vec = true → 32 ≤ w.width → w.width ≤ 128 →
    ret < 2 ^ 57 → kind < 4 → f.base < 2 ^ 40 → f.nin < 32 → f.nloc < 64 → f.nout < 32 → l.kind < 2 → l.addr < 2 ^ 57 →
    readLink (writeLink w pos (linkWords ret f kind det l)) pos = { ret := ret, frame := f, kind := kind, det := det, leftover := l })

/-- R110, R115: the events of the window's spill engine. -/
def Obligations.WindowEvents : Prop := ∀ (s : State) (wv : Nat),
  let w := waveAt s wv
  tbGet? s.waves wv = some w → (groupAt s w.group).away = false → w.win.service = .clear →
  (∀ r e rest, residentRecs w = (r, e) :: rest → canSpill w = true → (wfree w < w.win.low ∨ wantsRoom w = true) → r.live = true →
    exec (.windowSpill wv) s = .next (checkWindow (doSpill s wv r e) wv)) ∧
  (∀ r e rest, residentRecs w = (r, e) :: rest → canSpill w = true → (wfree w < w.win.low ∨ wantsRoom w = true) → r.live = false →
    exec (.windowSpill wv) s = .next (checkWindow (putWave s wv
      { w with win := { w.win with records := w.win.records.filter fun x => x.start != r.start, bottom := e } }) wv)) ∧
  (∀ r, lastSpilled w = some r → wantsRefill w = true → r.live = true → canRefill w = true →
    exec (.windowRefill wv) s = .next (checkWindow (doRefill s wv r) wv)) ∧
  (∀ r, lastSpilled w = some r → w.win.rahi ≠ 0 → roomParks w = [] → r.rows + w.win.rahi ≤ wfree w → r.live = true → canRefill w = true →
    exec (.windowRefillAhead wv) s = .next (doRefill s wv r)) ∧
  (∀ r e, let img := spillImage w r.start (e - r.start)
    let q := spillAsker s wv ((w.win.bstore + w.win.bused) % 2 ^ 64) img.length
    let p := locate q 1 (segsOf ((w.win.bstore + w.win.bused) % 2 ^ 64) img.length) s
    firstBad p.2 = none → p.2.any (segWait p.1 q.core p.1.nextId) = false →
    let v := (waveAt (doSpill s wv r e) wv).win
    v.bottom = e ∧ v.bused = w.win.bused + ((e - r.start) * 4 * w.width + 4) ∧ v.spills = (w.win.spills + 1) % 2 ^ 64 ∧
    (waveAt (doSpill s wv r e) wv).regs = w.regs)

/-- R394, R395: what taking a trap writes when the wave has a handler, none runs, and nothing is outstanding.
R395, R402: a trap while the handler runs, or without a handler address, ends the launch with a fault of code 0x21 or 0x22. -/
def Obligations.TrapEntry : Prop :=
  (∀ (s : State) (wv : Nat) (t : Trap),
    let w := waveAt s wv
    let n := waveAt (takeTrap s wv t) wv
    let x := getSplit w t.split
    spWf 0 w.ctl.counters = true → w.evt.cause.getLsbD 15 = false → w.evt.trapvec ≠ 0 → w.out = [] → t.split < 4 → w.ctl.splits.length = 4 → x.valid = true →
      t.code < 2 ^ 12 → t.timm < 2 ^ 16 →
    takeTrap s wv t = putWave s wv n ∧
    n.evt.cause.toNat = x.mode.toNat * 2 ^ 32 + t.timm * 2 ^ 16 + 2 ^ 15 + t.split * 2 ^ 12 + t.code ∧
    n.evt.tpc = t.tpc ∧ n.evt.taddr = t.taddr ∧ n.evt.trapvec = w.evt.trapvec ∧
    (getSplit n t.split).pc = w.evt.trapvec ∧ (getSplit n t.split).mode = 0 ∧ (getSplit n t.split).held = false ∧
    (getSplit n t.split).lanes = x.lanes ∧ (getSplit n t.split).frame = x.frame ∧ (getSplit n t.split).region.isOpen = false ∧
    (∀ i, i < 4 → i ≠ t.split → getSplit n i = { getSplit w i with held := (getSplit w i).held || (getSplit w i).valid }) ∧
    (∀ i, i < 128 → cntGet n i = if mbit (liveLanes w t.split) i then 0 else cntGet w i) ∧
    n.regs = w.regs ∧ n.win = w.win ∧ n.ctl.exited = w.ctl.exited) ∧
  (∀ (s : State) (wv : Nat) (t : Trap),
    let w := waveAt s wv
    let g := groupAt s w.group
    let l := launchAt s g.launch
    g.node = none → l.fault = false → w.group ∈ groupsOf s g.launch → wv ∈ g.waves →
    (w.evt.cause.getLsbD 15 = true ∨ w.evt.trapvec = 0) →
    tbGet? (takeTrap s wv t).waves wv = none ∧ (launchAt (takeTrap s wv t) g.launch).fault = true ∧
    (launchAt (takeTrap s wv t) g.launch).next = lbX l * lbY l * lbZ l ∧
    (let i := islandAt (takeTrap s wv t) l.island
     ∃ r ∈ i.q4 ++ i.q4wait,
       r.kind = 12 ∧ r.cause = (if w.evt.cause.getLsbD 15 then 0x21 else 0x22) ∧ r.addr = l.addr))

/-- R395, R396: returning from a trap restores the counters, the MODE and the pc that its entry saved, and releases the held splits.
R396, R397, R399: TRAP, TRET, REGION and REGEND. -/
def Obligations.TrapAndRegions : Prop :=
  (∀ (w : Wave) (t : Trap),
    let x := getSplit w t.split
    let n := returnTrap (enterTrap w t) t.split
    t.split < 4 → w.ctl.splits.length = 4 → x.valid = true → t.code < 2 ^ 12 → t.timm < 2 ^ 16 → spWf 0 w.ctl.counters = true →
      (∀ i, (getSplit w i).held = false) →
    (getSplit n t.split).mode = x.mode ∧ (getSplit n t.split).pc = t.tpc ∧ (getSplit n t.split).lanes = x.lanes ∧
    (∀ i, i < 4 → i ≠ t.split → getSplit n i = getSplit w i) ∧ (getSplit n t.split).held = false ∧
    (∀ i, i < 128 → cntGet n i = cntGet w i) ∧ n.evt.cause.getLsbD 15 = false ∧ n.regs = w.regs ∧ n.win = w.win) ∧
  (∀ (y : Bool) (k : BitVec 16) (s : State) (wv sp : Nat),
    let w := waveAt s wv
    (ready s wv sp {} = true →
      exec (.trap y k) s = .next (settleSlots (takeTrap (entered s wv sp false) wv
        { split := sp, code := 0x11, timm := k.toNat, tpc := ((getSplit w sp).pc + 4) % 2 ^ 57 }) wv)) ∧
    (ready s wv sp {} = true → w.evt.cause.getLsbD 15 = true →
      exec (.tret y) s = .next (settleSlots (putWave { s with free := s.free + 2 } wv (returnTrap (openIssue w sp false) sp)) wv)) ∧
    (ready s wv sp {} = true → w.evt.cause.getLsbD 15 = false → exec (.tret y) s = .next (traps s wv sp {} 0x01 0 0)) ∧
    CompletesWith (.region y) { closes := true } (fun c w =>
      let x := getSplit w c.sp
      let z := putSplit w c.sp { x with region := {
        isOpen := true, entry := (x.pc + 4) % 2 ^ 57, rollbacks := 0, cnt := (x.region.cnt + 1) % 2 ^ 64, filter := [], opened := w.evt.openings + 1,
        snap := { mode := x.mode, counters := spKeep (fun i => mbit x.lanes i) w.ctl.counters, frame := x.frame, leftover := x.leftover,
                  retry := x.retry, batch := w.batch, lanes := x.lanes } } }
      { z with evt := { z.evt with openings := w.evt.openings + 1 } }) ∧
    CompletesWith (.regend y) { closes := true } (fun _ w => w))

/-- R382, R383: the barrier instructions of a wave with one live split: an arrival is added and, when the last live wave of the group has
arrived, the barrier completes for all of them; BAR and BARWT then go on, and otherwise wait.
R382: a barrier completes exactly when every live wave of the group has an arrival pending. -/
def Obligations.BarrierInstructions : Prop :=
  (∀ (y : Bool) (b : Fin 16) (s : State) (wv sp : Nat),
    let u (arrives : Bool) : Usage := { skipExec := true, collective := true, closes := arrives }
    let w := waveAt s wv
    let e (arrives : Bool) : State := entered (begun s wv sp (u arrives)) wv sp arrives
    let free : State := onWave (e true) wv fun w => { w with tim := { w.tim with owed := none } }
    let pending (t : State) : Bool := (waveAt t wv).tim.pending.contains b.val
    let waits (t : State) : State := settleSlots (onWave t wv fun w =>
      { w with ctl := { w.ctl with wait := .barrier b.val, waitSplit := sp, markAfter := y, again := true } }) wv
    (ready s wv sp (u true) = true → releaseClear s wv = true → exec (.bararv y b) s = .next (stepped (arrive (e true) wv b.val) wv sp)) ∧
    (ready s wv sp (u false) = true → pending s = false → exec (.barwt y b) s = .next (stepped (e false) wv sp)) ∧
    (ready s wv sp (u false) = true → pending s = true → exec (.barwt y b) s = .next (waits (e false))) ∧
    (ready s wv sp (u true) = true → releaseClear s wv = true → w.tim.owed = none → pending (arrive free wv b.val) = false →
      exec (.bar y b) s = .next (stepped (arrive free wv b.val) wv sp)) ∧
    (ready s wv sp (u true) = true → releaseClear s wv = true → w.tim.owed = none → pending (arrive free wv b.val) = true →
      exec (.bar y b) s = .next (waits (arrive free wv b.val)))) ∧
  (∀ (s : State) (g b : Nat), b < (groupAt s g).phases.length →
    let all : Prop := liveWaves s g ≠ [] ∧ ∀ k ∈ liveWaves s g, b ∈ (waveAt s k).tim.pending
    let t := barrierCheck s g b
    (¬ all → t = s) ∧
    (all → (∀ k ∈ liveWaves s g, b ∉ (waveAt t k).tim.pending ∧ (waveAt t k).ctl.wait ≠ .barrier b ∧ (waveAt t k).regs = (waveAt s k).regs) ∧
      (groupAt t g).phases.getD b false = !((groupAt s g).phases.getD b false) ∧
      (∀ k, k ∉ liveWaves s g → waveAt t k = waveAt s k) ∧ t.dev = s.dev))

/-- R181, R184, R188, R206: the vector loads, when every lane passes the checks of R182 and waits for nothing: one pending result with the value
that each lane read, for the registers from d on; the registers themselves are still as they were. LDS changes no byte of any memory; LD, and LDA below SC 7, leave the
caches and memory as translating and reading the lanes leave them. -/
def Obligations.LoadInstructions : Prop := ∀ (y : Bool) (d a : VReg) (b : SReg) (z : Fin 8) (s : State) (wv sp : Nat),
  let u := useLoad d a b (memRun z.val)
  let c := seen s wv sp
  let w := waveAt s wv
  let n := accBytes z.val
  let sc := modeSC c.split.mode
  let loads (i : Instr) (space : Space) (level : Nat) (before : State → List Acc → State) (left : State → State → Prop) : Prop :=
    let p := resolveLanes space w 0 n (laneAddrs c a b) (entered s wv sp false)
    let q := readAll c (coreOf w) (islandOf s w) n level p.2 (before (walkOver p.1 wv) p.2)
    ready s wv sp u = true → passes p (coreOf w) = true →
    ∃ t, exec i s = .next t ∧
      (waveAt t wv).out.map (fun r => (r.rows, r.keys, r.vec)) =
        (if laneAddrs c a b = [] then [] else
          [((vecResult w c.split.frame d.val (memRun z.val) (q.2.map fun v => (v.1, extend z.val v.2.2))).rows,
            (vecResult w c.split.frame d.val (memRun z.val) (q.2.map fun v => (v.1, extend z.val v.2.2))).keys,
            (vecResult w c.split.frame d.val (memRun z.val) (q.2.map fun v => (v.1, extend z.val v.2.2))).vec)]) ∧
      (waveAt t wv).regs = w.regs ∧ (waveAt t wv).win = w.win ∧ (getSplit (waveAt t wv) sp).pc = ((getSplit w sp).pc + 4) % 2 ^ 57 ∧
      (∀ k, k ≠ wv → waveAt t k = waveAt s k) ∧ t.islands = s.islands ∧ (y = false → t.quarters = s.quarters) ∧ left q.1 t
  let same (q t : State) : Prop := t.dev = q.dev ∧ t.cores = q.cores ∧ t.clusters = q.clusters
  loads (.ld y d a b z) .global 0 (fun s _ => s) same ∧
  loads (.lds y d a b z) .scratch 0 (fun s xs => countConflicts s w n xs) (fun _ t =>
    t.dev = s.dev ∧ t.clusters = s.clusters ∧ ∀ k, (coreAt t k).spad = (coreAt s k).spad ∧ (coreAt t k).l1 = (coreAt s k).l1) ∧
  loads (.lda y d a b z) .global (scopeLevel sc) (fun s _ => acquireInvalidate s (coreOf w) sc) (fun q t => sc ≠ 7 → same q t)

/-- R185, R188, R205: the vector stores, when every lane passes the checks and waits for nothing, and a release has nothing to wait for: the
lanes write their data in order, and no register of any wave changes. -/
def Obligations.StoreInstructions : Prop := ∀ (y : Bool) (d a : VReg) (b : SReg) (z : Fin 8) (s : State) (wv sp : Nat),
  let c := seen s wv sp
  let w := waveAt s wv
  let n := accBytes z.val
  let sc := modeSC c.split.mode
  let data (x : Acc) : List Nat := leBytes n (laneData c d (memRun z.val) x.lane)
  let stores (i : Instr) (u : Usage) (space : Space) (level : Nat) (prom : Bool) (before : State → List Acc → State) (rel : Option Nat) : Prop :=
    let p := resolveLanes space w 1 n ((laneAddrs c a b).filter fun p => !mbit w.ctl.helpers p.1) (entered s wv sp u.closes)
    let done := p.2.foldl (fun s x => writeAcc wv (coreOf w) (islandOf s w) level prom (data x) s x) (before (walkOver p.1 wv) p.2)
    let t := clearCovered level (coreOf w) ((accLines p.2).foldl (recordStore w.fenced rel (coreOf w)) done) n p.2
    ready s wv sp u = true → passes p (coreOf w) = true →
    exec i s = .next (stepped (onWave t wv fun w =>
      let n := noteWrites w sp (accKeys p.2)
      if w.evt.replaying then { n with evt := { n.evt with replay := 0, replaying := false } } else n) wv sp) ∧
    (∀ k, (waveAt t k).regs = (waveAt s k).regs ∧ (waveAt t k).out = (waveAt s k).out)
  let u := useStore d a b (memRun z.val)
  stores (.st y d a b z) u .global 0 false (fun s _ => s) none ∧
  stores (.sts y d a b z) u .scratch 0 false (fun s xs => countConflicts s w n xs) none ∧
  (releaseClear s wv = true → stores (.strel y d a b z) { u with closes := sc == 6 } .global (scopeLevel sc) (sc == 7)
    (fun s _ => releasePush s (coreOf w) (islandOf s w) sc) (some sc))

/-- R187: the scalar unit's load and store of one address; it has no helper lanes. -/
def Obligations.ScalarMemoryInstructions : Prop := ∀ (y : Bool) (d a : SReg) (z : Fin 8) (i : BitVec 6) (s : State) (wv sp : Nat),
  let c := seen s wv sp
  let w := waveAt s wv
  let n := accBytes z.val
  let va := (((sget w a.val).toNat : Int) + i.toInt * n) % 2 ^ 64
  let e0 := onWave (entered s wv sp false) wv fun w => { w with ctl := { w.ctl with helpers := w.ctl.helpers &&& ~~~ 1#128 } }
  let e (access : Nat) : State × List Acc := resolveLanes .global (waveAt e0 wv) access n [(0, va.toNat)] e0
  let fits (access : Nat) : Prop := passes (e access) (coreOf w) = true
  let from_ (access : Nat) : State := walkOver (e access).1 wv
  let read := readAll c (coreOf w) (islandOf s w) n 0 (e 0).2 (from_ 0)
  let stored := (accLines (e 1).2).foldl (recordStore w.fenced none (coreOf w))
    ((e 1).2.foldl (fun s x => writeAcc wv (coreOf w) (islandOf s w) 0 false (leBytes n (sget w d.val).toNat) s x) (from_ 1))
  let goesOn (t : State) : Prop := (waveAt t wv).regs = w.regs ∧ (waveAt t wv).win = w.win ∧ (waveAt t wv).ctl.helpers = w.ctl.helpers ∧
    (∀ k, k ≠ wv → waveAt t k = waveAt s k) ∧ t.groups = s.groups ∧ t.launches = s.launches ∧
    (getSplit (waveAt t wv) sp).pc = ((getSplit w sp).pc + 4) % 2 ^ 57
  (ready s wv sp (useSS d a) = true → fits 0 →
    ∃ t, exec (.ldu y d a z i) s = .next t ∧
      (waveAt t wv).out.map (fun r => (r.scalars, r.sca)) = [([d.val], read.2.map fun v => (d.val, BitVec.ofNat 64 (extendTo 64 z.val v.2.2)))] ∧ read.2.length = 1 ∧
      goesOn t ∧ t.dev = read.1.dev ∧ t.cores = read.1.cores ∧ t.clusters = read.1.clusters ∧ t.islands = s.islands) ∧
  (ready s wv sp { sr := [d.val, a.val] } = true → fits 1 →
    ∃ t, exec (.stu y d a z i) s = .next t ∧
      goesOn t ∧ (waveAt t wv).out = [] ∧ t.dev = stored.dev ∧ t.cores = stored.cores ∧ t.clusters = stored.clusters ∧ t.islands = stored.islands)

/-- R182, R314, R354: the first check that fails in the order of the rule decides the trap, nothing having been read or written but by the table
walks; an access that takes a walk parks first, and issues again. The lanes checked are those of the write mask, without the helper lanes for
a store or an atomic; a release, which has nothing to wait for here, is checked like any other (that it parks while it has is log 10). -/
def Obligations.AccessTraps : Prop :=
 ∀ (y : Bool) (d a : VReg) (b q r : SReg) (z : Fin 8) (ord : Fin 4) (wide : Bool) (o : BitVec 6) (s : State) (wv sp : Nat),
  let w := waveAt s wv
  let c := seen s wv sp
  let n := accBytes z.val
  let first (xs : List Acc) (f : LaneRes → Bool) (x : Acc) : Prop :=
    ∃ l r, xs = l ++ x :: r ∧ (∀ v ∈ l, v.helper = true ∨ f v.res = false) ∧ x.helper = false ∧ f x.res = true
  let never (xs : List Acc) (f : LaneRes → Bool) : Prop := ∀ x ∈ xs, x.helper = true ∨ f x.res = false
  let checks (i : Instr) (u : Usage) (space : Space) (access n : Nat) (addrs : List (Nat × Nat)) (from_ : State) (back : State → State) : Prop :=
    let p := resolveLanes space (waveAt from_ wv) access n addrs from_
    let held : Bool := !w.ctl.walked && p.2.any fun x => x.walked
    let trapped (t : State) (code addr trans : Nat) : State :=
      settleSlots (takeTrap (back (walkOver t wv)) wv { split := sp, code := code, tpc := (getSplit w sp).pc, taddr := addr, trans := trans }) wv
    ready s wv sp u = true →
      (∀ x, first p.2 resMis x → exec i s = .next (trapped from_ 0x03 x.addr 0)) ∧
      (never p.2 resMis → held = true → ∃ t, exec i s = .next t ∧ (waveAt t wv).ctl.wait = .walk ∧
        (waveAt t wv).regs = w.regs ∧ (waveAt t wv).out = [] ∧ (getSplit (waveAt t wv) sp).pc = (getSplit w sp).pc) ∧
      (∀ x r l, never p.2 resMis → held = false → first p.2 resProt x → x.res = .prot r l →
        exec i s = .next (trapped p.1 0x02 x.addr (if l = 0 then 0 else transWord 0 access r l))) ∧
      (∀ x, never p.2 resMis → held = false → first p.2 resProt x → x.res = .engine → ∃ v ∈ p.2, v.helper = false ∧ v.res = .engine ∧
        (∀ v' ∈ p.2, v'.helper = false → v'.res = .engine → v.addr ≤ v'.addr) ∧ exec i s = .next (trapped p.1 0x02 v.addr 0)) ∧
      (∀ x, never p.2 resMis → held = false → never p.2 resProt → first p.2 resRange x → exec i s = .next (trapped p.1 0x04 x.addr 0))
  let vector (i : Instr) (u : Usage) (space : Space) (access n : Nat) : Prop :=
    checks i u space access n (if access = 0 then laneAddrs c a b else (laneAddrs c a b).filter fun p => !mbit w.ctl.helpers p.1)
      (entered s wv sp u.closes) id
  let scalar (i : Instr) (u : Usage) (access : Nat) : Prop :=
    let helpers (m : Mask) (t : State) : State := onWave t wv fun w => { w with ctl := { w.ctl with helpers := m } }
    checks i u .global access n [(0, ((((sget w r.val).toNat : Int) + o.toInt * n) % 2 ^ 64).toNat)]
      (helpers (w.ctl.helpers &&& ~~~ 1#128) (entered s wv sp false)) (helpers w.ctl.helpers)
  let load := useLoad d a b (memRun z.val)
  let store := useStore d a b (memRun z.val)
  let atom := useAtom c.split.mode d a b wide
  vector (.ld y d a b z) load .global 0 n ∧
  vector (.lds y d a b z) load .scratch 0 n ∧
  vector (.lda y d a b z) load .global 0 n ∧
  vector (.st y d a b z) store .global 1 n ∧
  vector (.sts y d a b z) store .scratch 1 n ∧
  (releaseClear s wv = true → vector (.strel y d a b z) { store with closes := modeSC c.split.mode == 6 } .global 1 n) ∧
  ((ord.val = 2 ∨ ord.val = 3 → releaseClear s wv = true) →
    vector (.atom y d a b ord wide) atom .global 2 (if wide then 8 else 4) ∧
    vector (.atoms y d a b ord wide) atom .scratch 2 (if wide then 8 else 4)) ∧
  scalar (.ldu y q r z o) (useSS q r) 0 ∧
  scalar (.stu y q r z o) { sr := [q.val, r.val] } 1

/-- R166, R167: scratchpad bytes read back as they were written, and a write leaves every other byte, every other core and memory alone.
R202: memory at the home agents reads back what was written, byte by byte, and every other byte is as before.
R172: a load at wave to core scope whose line the L1 holds whole delivers the bytes that the core's loads find, and changes none that any
load finds. A store at wave to core scope whose line the L1 holds changes the bytes it stores to, as a load of the core reads them, and no other
byte; memory behind the cache is untouched, and exactly the stored bytes become dirty. -/
def Obligations.MemoryReadsBack : Prop :=
  (∀ (s : State) (core pos : Nat) (bytes : List Nat),
    spWf 0 (coreAt s core).spad = true → (∀ v ∈ bytes, v < 256) →
    let t := spadPut s core pos bytes
    spadNat t core pos bytes.length = leNat bytes ∧ spWf 0 (coreAt t core).spad = true ∧
    (∀ k, (k < pos ∨ pos + bytes.length ≤ k) → spGet 0 (coreAt t core).spad k = spGet 0 (coreAt s core).spad k) ∧
    (∀ k, k ≠ core → coreAt t k = coreAt s k) ∧ t.dev = s.dev ∧ t.clusters = s.clusters ∧ t.waves = s.waves) ∧
  (∀ (s : State) (pa : Nat) (bytes : List Nat),
    Memory.wf s.dev.mem = true → (∀ v ∈ bytes, v < 256) →
    let t := homeWrite s pa bytes
    homeBytes t pa bytes.length = bytes ∧ Memory.wf t.dev.mem = true ∧
    (∀ a, (a < pa ∨ pa + bytes.length ≤ a) → homeByte t a = homeByte s a) ∧ t.waves = s.waves ∧ t.cores = s.cores ∧ t.islands = s.islands) ∧
  (∀ (s : State) (core isl pa cls n : Nat) (bytes : List Nat) (l : Line),
    findLine (coreAt s core).l1 (pa / 128) isl = some l → spWf 0 l.data = true → (∀ v ∈ bytes, v < 256) →
    pa % 128 + bytes.length ≤ 128 → pa / 2 ^ 48 ≠ 9 →
    let t := cacheWrite s core isl pa cls bytes
    let r := cacheRead s core isl pa n cls
    (l.valid = BitVec.allOnes 128 → pa % 128 + n ≤ 128 → r.2 = leNat ((List.range n).map fun j => (viewByte s core isl (pa + j)).toNat) ∧
      r.1.dev = s.dev ∧ r.1.clusters = s.clusters ∧ r.1.waves = s.waves ∧ ∀ k i a, viewByte r.1 k i a = viewByte s k i a) ∧
    (∀ a, viewByte t core isl a = if pa ≤ a ∧ a < pa + bytes.length then BitVec.ofNat 8 (bytes.getD (a - pa) 0) else viewByte s core isl a) ∧
    t.dev = s.dev ∧ t.clusters = s.clusters ∧ t.waves = s.waves ∧
    ∃ l', findLine (coreAt t core).l1 (pa / 128) isl = some l' ∧
      ∀ k, k < 128 → mbit l'.dirty k = (mbit l.dirty k || (decide (pa % 128 ≤ k) && decide (k < pa % 128 + bytes.length))))

/-- R190, R191: the atomics, when every lane passes the checks and waits for nothing: the lanes act one after another, and the pending result
holds the old values.
R190: the new value of each atomic operation. -/
def Obligations.AtomicInstructions : Prop :=
  (∀ (y : Bool) (d a : VReg) (b : SReg) (ord : Fin 4) (wide : Bool) (s : State) (wv sp : Nat),
    let c := seen s wv sp
    let w := waveAt s wv
    let m := c.split.mode
    let n := if wide then 8 else 4
    let u := useAtom m d a b wide
    let who := (laneAddrs c a b).filter fun p => !mbit w.ctl.helpers p.1
    let acts (i : Instr) (space : Space) (sc : Nat) : Prop :=
      let p := resolveLanes space w 2 n who (entered s wv sp true)
      let e := walkOver p.1 wv
      let s0 := if space = .scratch then countConflicts e w n p.2 else e
      let s1 := if ord.val = 2 ∨ ord.val = 3 then releasePush s0 (coreOf w) (islandOf s w) sc else s0
      let s2 := if ord.val = 1 ∨ ord.val = 3 then acquireInvalidate s1 (coreOf w) sc else s1
      let q := atomAll c (coreOf w) (islandOf s w) (modeET m) (modeAO m) wide d (scopeLevel sc) (sc == 7) p.2 s2
      let line (s : State) (l : Nat) : State := recordStore w.fenced (if ord.val = 2 ∨ ord.val = 3 then some sc else none) (coreOf w) s l
      let lead := if sc = 7 then (accLines p.2).foldl (fun s l => promote s l (coreOf w) (islandOf s w)) q.1 else q.1
      let after := clearCovered (scopeLevel sc) (coreOf w) ((accLines p.2).foldl line lead) n p.2
      let r := vecResult w c.split.frame d.val (n / 4) (q.2.map fun v => (v.1, v.2.2))
      ready s wv sp u = true → passes p (coreOf w) = true → ((ord.val = 2 ∨ ord.val = 3) → releaseClear s wv = true) →
      ∃ t, exec i s = .next t ∧
        (waveAt t wv).out.map (fun r => (r.rows, r.keys, r.vec)) = (if who = [] then [] else [(r.rows, r.keys, r.vec)]) ∧
        (waveAt t wv).regs = w.regs ∧ (waveAt t wv).win = w.win ∧ (getSplit (waveAt t wv) sp).pc = ((getSplit w sp).pc + 4) % 2 ^ 57 ∧
        t.dev = after.dev ∧ t.cores = after.cores ∧ t.clusters = after.clusters ∧ t.islands = after.islands ∧
        (∀ k, k ≠ wv → (waveAt t k).regs = (waveAt s k).regs)
    acts (.atom y d a b ord wide) .global (modeSC m) ∧
    acts (.atoms y d a b ord wide) .scratch (if modeSC m = 7 then 5 else modeSC m)) ∧
  (∀ (et bits old v v2 : Nat), bits = 32 ∨ bits = 64 → old < 2 ^ bits → v < 2 ^ bits →
    let less (x y : Nat) : Prop := if et = 1 then x < y else signedOf bits x < signedOf bits y
    (atomNew et 0 bits old v v2 + 2 ^ bits - v) % 2 ^ bits = old ∧ atomNew et 0 bits old v v2 < 2 ^ bits ∧
    (less v old → atomNew et 1 bits old v v2 = v) ∧ (¬ less v old → atomNew et 1 bits old v v2 = old) ∧
    (less old v → atomNew et 2 bits old v v2 = v) ∧ (¬ less old v → atomNew et 2 bits old v v2 = old) ∧
    (∀ k, (atomNew et 3 bits old v v2).testBit k = (old.testBit k && v.testBit k)) ∧
    (∀ k, (atomNew et 4 bits old v v2).testBit k = (old.testBit k || v.testBit k)) ∧
    (∀ k, (atomNew et 5 bits old v v2).testBit k = (old.testBit k != v.testBit k)) ∧
    atomNew et 6 bits old v v2 = v ∧ atomNew et 7 bits v v v2 = v2 ∧ (old ≠ v → atomNew et 7 bits old v v2 = old))

/-- R39, R94, R189: the events that bring a result back, end a spin quantum, or end a wait for pushes.
R209 to R211, R351: replicated commits, their stall report, a poisoned write, and a walk of the page tables. -/
def Obligations.ResultAndMemoryEvents : Prop :=
  (∀ (s : State) (wv idx : Nat),
    let w := waveAt s wv
    tbGet? s.waves wv = some w →
    let landed (r : Result) : Wave := noteHeld w (landResult r w)
    (∀ r, w.out[idx]? = some r → r.ready = true →
      exec (.variableResultReturn wv idx) s =
        .next (settleSlots (putWave s wv (drained (if r.repeats then spinPark (landed r) else landed r))) wv) ∧
      (∃ v, landed r = { landResult r w with win := v }) ∧
      (landResult r w).out = w.out.filter (fun x => x.id != r.id) ∧ (landResult r w).regs.flags = w.regs.flags ||| r.flags ∧
      (landResult r w).win = w.win ∧
      (spWf 0 w.regs.vec = true → ∀ k, spGet 0 (landResult r w).regs.vec k = if k ∈ r.keys then spGet 0 r.vec k else spGet 0 w.regs.vec k)) ∧
    (w.ctl.wait = .spin → w.tim.spinUntil ≤ w.tim.wtime → exec (.spinQuantumExpiry wv) s = .next (putWave s wv (endWait w))) ∧
    (w.ctl.wait = .pushes → releaseClear s wv = true → exec (.pushesComplete wv) s = .next (putWave s wv (endWait w))) ∧
    (endWait w).regs = w.regs ∧ (endWait w).out = w.out ∧ ((endWait w).ctl.wait = .no ∨ (endWait w).ctl.wait = .marker)) ∧
  (∀ (s : State) (idx line core island asid va kind : Nat) (k : Commit),
    let i := islandAt s island
    (s.dev.commits[idx]? = some k → (∀ j ∈ s.dev.commits.take idx, j.line ≠ k.line) →
      ∃ t, exec (.replicatedCommit idx) s = .next t ∧ t.dev.commits = dropAt s.dev.commits idx ∧
        t.dev.mem = (k.writes.foldl (fun t e => homePut t e.1 e.2.toNat) s).dev.mem ∧
        (∀ w, tbGet? s.waves k.wave = some w → waveAt t k.wave = { w with commits := w.commits - 1 })) ∧
    (s.dev.commits[idx]? = some k → k.reported = false → (islandAt s k.island).repstall < s.dev.cycle - k.start →
      exec (.replicatedStall idx) s =
        .next (placeEvent (putDev s { s.dev with commits := s.dev.commits.set idx { k with reported := true } }) k.island
          { kind := 3, addr := k.line * 128, aux := s.dev.cycle - k.start })) ∧
    (∃ t, exec (.poisonedWrite line) s = .next t ∧ isPoisoned t line = true ∧ t.dev.mem = s.dev.mem ∧ t.waves = s.waves) ∧
    (asid = islAsid i → va < 2 ^ 57 → kind < 4 →
      exec (.tableWalk core island asid va kind) s = .next (walk s core island va kind true).1 ∧
      (∀ pa pte, (walk s core island va kind true).2 = .ok pa pte → tlbFind (walk s core island va kind true).1 core island va ≠ none) ∧
      (∀ l, (walk s core island va kind true).2 = .absent l → (walk s core island va kind true).1 = s) ∧
      (∀ l, (walk s core island va kind true).2 = .held l → (walk s core island va kind true).1 = s) ∧
      (∀ r l, (walk s core island va kind true).2 = .prot r l → (walk s core island va kind true).1 = s)))

/-- R189, R192, R193: FENCE and the cache instructions; a release fence of a scope past the L1 is over and its wave then waits for the pushes (that
the bytes move at the issue and the wave parks after it is the model's choice, log 10). A cache instruction whose lanes need a table walk parks
for it first.
R176, R177: SRCFG writes the way-partition register of the wave's cluster once no copy has far-scratchpad bytes left to access, and SPCFG the limit and swizzle of the group's scratchpad; the wave
then leaves its slots. An SRCFG waits for the copies and for the SRCFGs of its cluster that are older than it, and keeps the value it issued with;
that it and SPCFG take one step at issue, and give up the slots then, is the model's choice (log 42). -/
def Obligations.FenceAndConfiguration : Prop :=
  (∀ (y : Bool) (z : Fin 8) (a : VReg) (b : SReg) (s : State) (wv sp : Nat),
    let c := seen s wv sp
    let w := waveAt s wv
    let sc := if modeSC c.split.mode = 7 then 5 else modeSC c.split.mode
    let u : Usage := { closes := modeSC c.split.mode == 6 }
    let e := entered s wv sp u.closes
    let e0 := entered s wv sp false
    let push := noteFence true sc (releasePush e (coreOf w) (islandOf s w) sc) wv
    let done (t : State) : State := if z.val = 1 ∨ z.val = 3 then acquireInvalidate t (coreOf w) sc else t
    (ready s wv sp u = true → z.val = 1 → exec (.fence y z) s = .next (stepped (done e) wv sp)) ∧
    (ready s wv sp u = true → (z.val = 2 ∨ z.val = 3) → scopeLevel sc = 0 → releaseClear s wv = true →
      exec (.fence y z) s = .next (stepped (done push) wv sp)) ∧
    (ready s wv sp u = true → (z.val = 2 ∨ z.val = 3) → (scopeLevel sc ≠ 0 ∨ releaseClear s wv = false) →
      exec (.fence y z) s = .next (settleSlots (onWave (done push) wv fun w =>
        let x := putSplit w sp (stepPast (getSplit w sp))
        { x with ctl := { x.ctl with wait := .pushes, waitSplit := sp, markAfter := y } }) wv)) ∧
    (ready s wv sp (useAddr a b) = true → walkDue w (resolveLanes .global w 0 1 (laneAddrs c a b) e0).2 = true →
      ∀ i, i ∈ [.cflush y a b, .cinv y a b, .pref y a b z] → ∃ t, exec i s = .next t ∧ (waveAt t wv).ctl.wait = .walk ∧
        (waveAt t wv).regs = w.regs ∧ (getSplit (waveAt t wv) sp).pc = (getSplit w sp).pc) ∧
    (ready s wv sp (useAddr a b) = true → walkDue w (resolveLanes .global w 0 1 (laneAddrs c a b) e0).2 = false →
      exec (.cflush y a b) s = .next (stepped (flushBody false a b c e0).1 wv sp) ∧
      exec (.cinv y a b) s = .next (stepped (flushBody true a b c e0).1 wv sp) ∧
      (∃ t, exec (.pref y a b z) s = .next (stepped t wv sp) ∧ t.waves = (walkOver e0 wv).waves ∧ t.quarters = s.quarters ∧ t.groups = s.groups ∧
        t.islands = s.islands ∧ (∀ k, (coreAt t k).spad = (coreAt s k).spad) ∧ ∀ line, isPoisoned t line = true → isPoisoned s line = true) ∧
      ((∀ p ∈ laneAddrs c a b, 2 ^ 57 ≤ p.2) → exec (.cflush y a b) s = .next (stepped (walkOver e0 wv) wv sp) ∧
        exec (.cinv y a b) s = .next (stepped (walkOver e0 wv) wv sp) ∧ exec (.pref y a b z) s = .next (stepped (walkOver e0 wv) wv sp))) ∧
    (∀ k, (waveAt (flushBody true a b c e0).1 k).regs = (waveAt s k).regs) ∧
    (∀ (core isl line : Nat) (drop : Bool), Memory.wf s.dev.mem = true →
      let t := flushLine core isl drop s line
      (∀ k, k < 128 → homeByte t (line * 128 + k) = deviceByte s { core := core, isl := isl, priv := false } (line * 128 + k)) ∧
      (∀ pa, pa / 128 ≠ line → homeByte t pa = homeByte s pa) ∧ t.waves = s.waves ∧
      (∀ l, findLine (coreAt t core).l1 line isl = some l → drop = false ∧ l.dirty = 0) ∧
      (∀ l, findLine (clusterAt t (core / 8)).lines line isl = some l → drop = false ∧ l.dirty = 0))) ∧
  (∀ (y : Bool) (d : SReg) (s : State) (wv sp : Nat),
    let u : Usage := { sr := [d.val], closes := true }
    let w := waveAt s wv
    let v := (sget w d.val).toNat
    let e := entered s wv sp true
    let g := groupAt s w.group
    let cl := w.quarter / 32
    let tk := w.ctl.srcfg.getD (s.nextId, v)
    let asks (p : Option (Nat × Nat)) (w : Wave) : Wave := { w with ctl := { w.ctl with srcfg := p } }
    let set := setWays (onWave e wv (asks none)) cl tk.2
    let may : Bool := lbWayCfg (launchOf s w) && ownsCluster s (islandOf s w) (w.quarter / 32)
    (ready s wv sp u = true → may = false → exec (.srcfg y d) s = .next (traps s wv sp u 0x02 0 0)) ∧
    (ready s wv sp u = true → may = true → waysLegal v = false → exec (.srcfg y d) s = .next (traps s wv sp u 0x01 0 0)) ∧
    (ready s wv sp u = true → may = true → waysLegal v = true → srcfgHeld e wv cl tk.1 tk.2 = true →
      ∃ t, exec (.srcfg y d) s = .next t ∧ (waveAt t wv).ctl.wait = .farAccess cl ∧ (waveAt t wv).ctl.srcfg = some tk ∧ (waveAt t wv).regs = w.regs) ∧
    (ready s wv sp u = true → may = true → waysLegal v = true → srcfgHeld e wv cl tk.1 tk.2 = false →
      exec (.srcfg y d) s = .next (stepped (leaveSlots set wv) wv sp) ∧
      (clusterAt set cl).ways = tk.2 ∧ (∀ k, (waveAt set k).regs = (waveAt s k).regs)) ∧
    (ready s wv sp u = true → (v / 2 ^ 18 ≠ 0 ∨ v / 2 ^ 13 % 8 ≠ 0 ∨ 2 ≤ v / 2 ^ 16 % 4) →
      exec (.spcfg y d) s = .next (traps s wv sp u 0x01 0 0)) ∧
    (ready s wv sp u = true → v / 2 ^ 18 = 0 → v / 2 ^ 13 % 8 = 0 → v / 2 ^ 16 % 4 < 2 → g.grant < v % 2 ^ 13 →
      exec (.spcfg y d) s = .next (traps s wv sp u 0x02 0 0)) ∧
    (ready s wv sp u = true → v / 2 ^ 18 = 0 → v / 2 ^ 13 % 8 = 0 → v / 2 ^ 16 % 4 < 2 → v % 2 ^ 13 ≤ g.grant →
      ∃ t, exec (.spcfg y d) s = .next t ∧ groupAt t w.group = { g with limit := v % 2 ^ 13, swz := v / 2 ^ 16 % 4 } ∧
        (waveAt t wv).regs = w.regs ∧ t.dev = s.dev ∧ (getSplit (waveAt t wv) sp).pc = ((getSplit w sp).pc + 4) % 2 ^ 57 ∧
        (g.swz = v / 2 ^ 16 % 4 → v % 2 ^ 13 ≤ g.limit → t.cores = s.cores)))

/-- R226 to R230: the instructions of the transform pipe: a job joins the pipe of the core, and its result, the block and its tag, the outstanding
set; a tag that does not fit takes the tag trap.
R214, R215: the pending result of a block: register k of a lane that has not exited holds the elements of its features. -/
def Obligations.TileInstructions : Prop :=
  (∀ (y : Bool) (d a : VReg) (ts : SReg) (th : ThReg) (fn : Fin 8) (s : State) (wv sp : Nat),
    let ut := tileUse [(a.val, 16)] [(d.val, 16)] [ts.val] [ts.val]
    let un := tileUse [(a.val, 16)] [(d.val, 16)] [] []
    let ub := tileUse [(d.val, 16), (a.val, 1)] [(d.val, 16)] [ts.val] []
    let e := entered (begun s wv sp ut) wv sp false
    let c := seen (begun s wv sp ut) wv sp
    let t := (sca c ts).toNat % 2 ^ 32
    let mode := c.split.mode
    let tiles := c.view.width / 32
    let columns (from_ et : Nat) (g : Nat → List Nat → ColRes) : List (List ColRes) := mapCols c from_ et c.view.ctl.exited g
    let turned (L : Nat) : Result :=
      tagWrite ts (tagAt t L) (blockResult c d.val (tagEt t) (columns a.val (tagEt t) fun _ => transformCol (tagEt t) (modeRM mode) (tagLv t) L))
    let goes (i : Instr) (r : Result) (recons : Nat) : Prop := exec i s = .next (finish (pushTile e wv r { wave := 0, recons := recons }) wv sp y true .done)
    (ready s wv sp ut = true → tagValid t = true →
      (tagDom t = 0 → goes (.haar y d a ts) (turned (modeTL mode)) 0) ∧
      (tagDom t = 1 → goes (.ihaar y d a ts) (turned 0) tiles) ∧
      (tagDom t ≠ 0 → exec (.haar y d a ts) s = .next (traps (begun s wv sp ut) wv sp ut 0x0E 0 0)) ∧
      (tagDom t ≠ 1 → exec (.ihaar y d a ts) s = .next (traps (begun s wv sp ut) wv sp ut 0x0E 0 0)) ∧
      goes (.trecon y d a ts) (turned (modeTL mode)) (if tagDom t = 1 ∧ modeTL mode = 0 then tiles else 0) ∧
      goes (.tact y d a ts fn) (tagWrite ts (tagAt t (modeTL mode)) (blockResult c d.val (tagEt t) (columns a.val (tagEt t) fun _ =>
        tactCol (tagEt t) (modeRM mode) fn.val (tagLv t) (modeTL mode) (thGet c.view (tagTh t))))) (if tagDom t = 1 then tiles else 0)) ∧
    (ready s wv sp ut = true → tagValid t = false →
      exec (.haar y d a ts) s = .next (traps (begun s wv sp ut) wv sp ut 0x0E 0 0) ∧
      exec (.ihaar y d a ts) s = .next (traps (begun s wv sp ut) wv sp ut 0x0E 0 0) ∧
      exec (.trecon y d a ts) s = .next (traps (begun s wv sp ut) wv sp ut 0x0E 0 0) ∧
      exec (.tact y d a ts fn) s = .next (traps (begun s wv sp ut) wv sp ut 0x0E 0 0)) ∧
    (ready s wv sp un = true →
      let et := if 5 ≤ modeET mode ∧ modeET mode ≤ 7 then modeET mode else 5
      goes (.thr y d a th) (blockResult c d.val et (columns a.val et fun _ x =>
        threshCol et (modeTL mode) (thGet c.view th.val) { elems := x, flags := [] })) 0) ∧
    (ready s wv sp ub = true → tagValid t = true →
      goes (.tbias y d a ts) (blockResult c d.val (tagEt t) (columns d.val (tagEt t) fun f =>
        biasCol (tagEt t) (modeRM mode) (32 / 2 ^ tagLv t) (biasOf c a (tagEt t) f))) 0) ∧
    (ready s wv sp ub = true → tagValid t = false → exec (.tbias y d a ts) s = .next (traps (begun s wv sp ub) wv sp ub 0x0E 0 0))) ∧
  (∀ (c : Ctx) (d et : Nat) (cols : List (List ColRes)) (k lane : Nat),
    et ∈ [5, 6, 7] → k < tileRegs et → lane < c.view.width → lane < 128 → mbit c.view.ctl.exited lane = false →
    (∀ i j, i < tileRegs et → j < tileRegs et → rowOf c.view c.split.frame (d + i) = rowOf c.view c.split.frame (d + j) → i = j) →
    let r := blockResult c d et cols
    let key := laneKey (rowOf c.view c.split.frame (d + k)) lane
    key ∈ r.keys ∧ ∀ e, e < tilePer et →
      elemAt (tileW et) (spGet 0 r.vec key).toNat e = ((cols.getD (lane / 32) []).getD (tilePer et * k + e) { elems := [], flags := [] }).elems.getD (lane % 32) 0 % 2 ^ tileW et)

/-- R223, R232 to R234: TST, TLD and TLDQ when their slots lie where they may: the images are written or read, and a job joins the pipe. A
slot that needs a table walk parks first. That TLDQ with rows left keeps the head of the pipe is the model's choice (log 19), and so is what a
malformed block delivers to the tag and the registers (log 18).
R226, R234: the events of the transform pipe. -/
def Obligations.TileSlotInstructions : Prop :=
  (∀ (y : Bool) (d : VReg) (a ts : SReg) (th : Fin 8) (s : State) (wv sp : Nat),
    let us := tileUse [(d.val, 16)] [] [a.val, ts.val] [ts.val]
    let ul := tileUse [] [(d.val, 16)] [a.val] [ts.val]
    let uq := tileUse [] [] [a.val] [ts.val]
    let e := entered (begun s wv sp us) wv sp false
    let c := seen (begun s wv sp us) wv sp
    let w := waveAt e wv
    let A := (sca c a).toNat
    let p (access : Nat) : State × List Acc := slotLocate w access A (segsOf (A % 2 ^ 63) (2304 * (w.width / 32))) e
    let from_ (access : Nat) : State := walkOver (p access).1 wv
    let fits (access : Nat) (touched : List (Nat × Nat)) : Prop :=
      A % 128 = 0 ∧ gateTrap 4 access (p access).2 = none ∧ walkDue w (p access).2 = false ∧ (p access).2.any (fun x => resAbsent x.res) = false ∧
        slotWait (from_ access) w access A touched = none
    let clear (t : State) : State := onWave t wv fun w =>
      if w.evt.replaying then { w with evt := { w.evt with replay := 0, replaying := false } } else w
    let t := tagOf c ts
    let mode := c.split.mode
    let turn : Bool := tagDom t == 0 && modeTL mode != 0
    let L := if turn then modeTL mode else tagLv t
    let tag := mkTag (if turn then 1 else tagDom t) L (tagEt t) th.val 1
    let cols := mapCols c d.val (tagEt t) (c.view.ctl.exited ||| c.view.ctl.helpers) fun _ x =>
      threshCol (tagEt t) L (thGet c.view th.val)
        (if turn then transformCol (tagEt t) (modeRM mode) 0 L x else { elems := x, flags := [] })
    let images : List (Nat × Nat) := cols.zipIdx.map fun p => (2304 * p.2, (imageBytes tag (colRows p.1)).length)
    let stored := writeImages c A tag cols 0 (from_ 1)
    let is := readImages (from_ 0) (waveAt (from_ 0) wv) A
    let none_ : Image := {}
    let t0 := (is.headD none_).tag
    let noted := onWave (from_ 0) wv fun w => noteReads w sp (is.flatMap (·.keys))
    (let parks (i : Instr) (access : Nat) : Prop := A % 128 = 0 → walkDue w (p access).2 = true → ∃ t, exec i s = .next t ∧
       (waveAt t wv).ctl.wait = .walk ∧ (waveAt t wv).regs = w.regs ∧ (waveAt t wv).out = []
     (ready s wv sp us = true → tagValid t = true → parks (.tst y d a ts th) 1) ∧
     (ready s wv sp ul = true → parks (.tld y d a ts) 0) ∧
     (ready s wv sp uq = true → holdsSlots s (waveAt s wv) = true → parks (.tldq y a ts) 0)) ∧
    (ready s wv sp us = true → fits 1 images → tagValid t = true →
      exec (.tst y d a ts th) s = .next (finish (clear (pushTile stored.1 wv
        (tagWrite ts tag { unit := .tile, ready := false, flags := colFlags c.view cols }) { wave := 0, survivors := stored.2 })) wv sp y true .done)) ∧
    (ready s wv sp us = true → A % 128 = 0 → gateTrap 4 1 (p 1).2 = none → tagValid t = false → exec (.tst y d a ts th) s = .next (traps (begun s wv sp us) wv sp us 0x0E 0 0)) ∧
    (ready s wv sp ul = true → fits 0 (imageRuns (from_ 0) (waveAt (from_ 0) wv) A) → (∀ i ∈ is, i.good = true ∧ sameDomain i.tag t0 = true) →
      exec (.tld y d a ts) s = .next (finish (clear (pushTile noted wv
        { tagWrite ts t0 (blockResult c d.val (tagEt t0) ((List.range is.length).map fun t => (List.range 32).map fun f =>
          { elems := (List.range 32).map fun p => ((is.getD t none_).rows.getD p []).getD f 0, flags := [] })) with
          imprecise := imageEvents c (from_ 0) A false is, reads := imageReads c (from_ 0) A } { wave := 0 })) wv sp y true .done)) ∧
    (ready s wv sp ul = true → fits 0 (imageRuns (from_ 0) (waveAt (from_ 0) wv) A) → ∃ t r j, exec (.tld y d a ts) s = .next t ∧ (waveAt t wv).out = [r] ∧ r.rows = (List.range (tileRegs
        (if is.all (fun i => i.good && sameDomain i.tag t0) then tagEt t0 else 5))).map (fun k => rowOf w c.split.frame (d.val + k)) ∧
      (coreAt t (coreOf w)).pipe = (coreAt e (coreOf w)).pipe ++ [j] ∧ j.res = r.id ∧ j.wave = wv) ∧
    (ready s wv sp uq = true → holdsSlots s (waveAt s wv) = false → exec (.tldq y a ts) s = .next (traps (begun s wv sp uq) wv sp uq 0x02 0 0)) ∧
    (ready s wv sp uq = true → holdsSlots s (waveAt s wv) = true → fits 0 (imageRuns (from_ 0) (waveAt (from_ 0) wv) A) →
      exec (.tldq y a ts) s = .next (finish (clear (pushTile noted wv
        (tagWrite ts (tagRead is) {
          unit := .tile, ready := false, imprecise := imageEvents c (from_ 0) A (is.any fun i => !i.good) is
          reads := imageReads c (from_ 0) A })
        {
          wave := 0, isFeed := true, cmd := (from_ 0).nextId
          rows := (List.range is.length).flatMap fun t => feedRows (waveAt (from_ 0) wv) wv sp (from_ 0).nextId t (is.getD t none_) })) wv sp y true .done))) ∧
  (∀ (s : State) (core : Nat) (j : TileJob) (rest : List TileJob),
    let k := coreAt s core
    k.pipe = j :: rest →
    ((j.isFeed = false ∨ j.res ≠ 0) →
      let t := landById s j.wave j.res
      exec (.tileInstructionComplete core) s = .next (putCore t core { coreAt t core with
        recons := (k.recons + j.recons) % 2 ^ 64, survivors := (k.survivors + j.survivors) % 2 ^ 64,
        pipe := if j.rows = [] then rest else { j with res := 0 } :: rest }) ∧
      (∀ w r, tbGet? s.waves j.wave = some w → w.out.find? (fun r => r.id == j.res) = some r →
        (waveAt t j.wave).out = w.out.filter (fun x => x.id != r.id))) ∧
    (j.isFeed = true → j.res = 0 → ∀ r rs, j.rows = r :: rs → (quarterAt s j.quarter).feed.length < 128 → lineAhead s j.quarter j.cmd = false →
      exec (.tldqRowPush core) s = .next (putCore
        (putQuarter s j.quarter { quarterAt s j.quarter with feed := (quarterAt s j.quarter).feed ++ [r] })
        core { k with pipe := if rs = [] then rest else { j with rows := rs } :: rest })))

/-- R251 to R256, R258: a matrix instruction whose group holds the slots, whose tag is valid and whose quarter has room joins the command queue,
with its sources as they are at issue; MMAX is over when the four waves of its role have all issued.
R265 to R267: MLAYOUT reads a layout record from the scratchpad of the group, and MLDB gathers a block of B through the layout. -/
def Obligations.MatrixAndLayoutInstructions : Prop :=
  (∀ (y : Bool) (acc : AccReg) (d a b : VReg) (q : SReg) (s : State) (wv sp : Nat),
    let uz := matUse [] [] [q.val] [] false
    let uw := matUse [(a.val, 16)] [] [q.val] [] true
    let um := matUse [(a.val, 16), (b.val, 8)] [] [] [] true
    let uq := matUse [(b.val, 8)] [] [] [] true
    let ur := matUse [] [(d.val, 16)] [q.val] [q.val] true
    let w := waveAt s wv
    let k := w.quarter
    let e0 := entered s wv sp false
    let c0 := seen s wv sp
    let e := entered (begun s wv sp um) wv sp false
    let c := seen (begun s wv sp um) wv sp
    let slot := accSlot (quarterAt s k) acc.val
    let v := (sget w q.val).toNat
    let may : Bool := holdsSlots s w && queueRoom s w
    (ready s wv sp uz = true → may = true → tagValid (v % 2 ^ 32) = true →
      exec (.mzero y acc q) s = .next (stepped (tagSlot (pushCmd e0 k (newCmd c0 e0 .mzero acc.val (v % 2 ^ 32))) k acc.val (v % 2 ^ 32)) wv sp)) ∧
    (ready s wv sp uw = true → may = true → tagValid (v % 2 ^ 32) = true →
      exec (.mwra y acc a q) s = .next (stepped (tagSlot (pushCmd e k
        { newCmd c e .mwra acc.val (v % 2 ^ 32) with a := capture c a.val 16, col := v / 2 ^ 32 % 4 }) k acc.val (v % 2 ^ 32)) wv sp)) ∧
    (ready s wv sp um = true → may = true → tagValid slot.tag = true →
      exec (.mma y acc a b) s = .next (stepped (pushCmd e k
        { newCmd c e .mma acc.val slot.tag with a := capture c a.val 16, b := capture c b.val 8 }) wv sp)) ∧
    (ready s wv sp uq = true → may = true → tagValid slot.tag = true →
      exec (.mmaq y acc b) s = .next (stepped (pushCmd e k
        { newCmd c e .mmaq acc.val slot.tag with b := capture c b.val 8, owed := w.width }) wv sp)) ∧
    (ready s wv sp ur = true → may = true → tagValid slot.tag = true →
      ∃ t r m, exec (.mrda y d acc q) s = .next t ∧ (waveAt t wv).out = [r] ∧ r.known = false ∧
        r.rows = (List.range 16).map (fun j => rowOf w (getSplit w sp).frame (d.val + j)) ∧ r.sca = [(q.val, BitVec.ofNat 64 slot.tag)] ∧
        (quarterAt t k).queue = (quarterAt s k).queue ++ [m] ∧ m.op = .mrda ∧ m.res = r.id ∧ m.col = v / 2 ^ 32 % 4 ∧ m.acc = acc.val ∧
        (waveAt t wv).regs = w.regs) ∧
    (ready s wv sp um = true → may = true → tagValid slot.tag = true → w.width = 32 → roleCovers (launchOf s w).block w.role = true →
      let s1 := pushCmd e k { newCmd c e .mmax acc.val slot.tag with a := capture c a.val 16, b := capture c b.val 8 }
      let wvs := roleWavesOf s1 (waveAt s1 wv)
      let all : Bool := decide (wvs.length = 4) && wvs.all fun k => (openMmax s1 k).isSome
      (all = false → exec (.mmax y acc a b) s = .next (settleSlots (onWave s1 wv fun w =>
        { w with ctl := { w.ctl with wait := .meet, waitSplit := sp, markAfter := y, again := true } }) wv)) ∧
      (all = true → (∀ m ∈ wvs.filterMap (openMmax s1), m.acc = acc.val ∧ sameDomain m.tag slot.tag = true ∧ sameDomain slot.tag m.tag = true) →
        exec (.mmax y acc a b) s =
          .next (finish ((wvs.filter (· != wv)).foldl releaseMeet (mapMmax s1 wvs fun m => some { m with meet := wvs })) wv sp y true .done))) ∧
    (ready s wv sp um = true → holdsSlots s w = false → exec (.mma y acc a b) s = .next (traps (begun s wv sp um) wv sp um 0x02 0 0)) ∧
    (ready s wv sp um = true → holdsSlots s w = true → tagValid slot.tag = false →
      exec (.mma y acc a b) s = .next (traps (begun s wv sp um) wv sp um 0x0E 0 0)) ∧
    (ready s wv sp um = true → holdsSlots s w = true → tagValid slot.tag = true → queueRoom s w = false →
      ∃ t, exec (.mma y acc a b) s = .next t ∧ (waveAt t wv).ctl.wait = .matrixQueue ∧ (quarterAt t k).queue = (quarterAt s k).queue)) ∧
  (∀ (y : Bool) (a : SReg) (d : VReg) (s : State) (wv sp : Nat),
    let u := useSr a
    let ul := matUse [] [(d.val, 8)] [a.val] [] true
    let w := waveAt s wv
    let g := groupAt s w.group
    let v := (sget w a.val).toNat
    let r := spadSeen (entered s wv sp false) g.core (g.base * 128 + v) 32
    let clean : Bool := !accPoison s g.core 32 { lane := 0, addr := v, res := .spad (g.base * 128 + v) }
    let lay := layoutOf w
    let n := layEsz lay
    let off (k : Nat) : Int := mldbOff lay v k
    let inside (k : Nat) : Prop := off k % (n : Int) = 0 ∧ 0 ≤ off k ∧ off k + n ≤ g.limit * 128 ∧ engineRange g (off k).toNat n = false
    (ready s wv sp u = true → v % 2 ^ 19 % 32 ≠ 0 → exec (.mlayout y a) s = .next (traps s wv sp u 0x03 0 (v % 2 ^ 19))) ∧
    (ready s wv sp u = true → v < 2 ^ 19 → v % 32 = 0 → g.limit * 128 < v + 32 → exec (.mlayout y a) s = .next (traps s wv sp u 0x02 0 v)) ∧
    (ready s wv sp u = true → v < 2 ^ 19 → v % 32 = 0 → v + 32 ≤ g.limit * 128 → engineRange g v 32 = false → clean = true → layoutLegal r = false →
      exec (.mlayout y a) s = .next (traps s wv sp u 0x01 0 0)) ∧
    (ready s wv sp u = true → v < 2 ^ 19 → v % 32 = 0 → v + 32 ≤ g.limit * 128 → engineRange g v 32 = false → layoutLegal r = true →
      ∃ t, exec (.mlayout y a) s = .next t ∧ (waveAt t wv).layout = r ∧ (waveAt t wv).regs = w.regs ∧ t.dev = s.dev ∧ t.cores = s.cores ∧
        (getSplit (waveAt t wv) sp).pc = ((getSplit w sp).pc + 4) % 2 ^ 57) ∧
    (ready s wv sp ul = true → n ∈ [1, 2, 4] → v < 2 ^ 19 → (∀ k, k < 1024 / n → inside k) →
      ∃ t x, exec (.mldb y d a) s = .next t ∧ (waveAt t wv).out = [x] ∧ (waveAt t wv).regs = w.regs ∧ t.dev = s.dev ∧
        x.rows = (List.range 8).map (fun j => rowOf w (getSplit w sp).frame (d.val + j)) ∧
        (∀ j f, j < 8 → f < 32 → mbit w.ctl.exited f = false →
          laneKey (rowOf w (getSplit w sp).frame (d.val + j)) f ∈ x.keys) ∧
        (getSplit (waveAt t wv) sp).pc = ((getSplit w sp).pc + 4) % 2 ^ 57))

/-- R253, R255 to R257, R262: the command at the head of a quarter's queue is performed on its accumulator slot; other slots are unchanged.
R72, R78: a step of the array over integer elements adds the exact products and clamps to the 36-bit range, and the slot's overflow bit rises
exactly when clamping changed the sum. -/
def Obligations.MatrixEvents : Prop :=
  (∀ (s : State) (q : Nat) (m : MatCmd) (rest : List MatCmd),
    let x := quarterAt s q
    let a := accSlot x m.acc
    let gone (a' : AccSlot) : State := putQuarter s q { x with accs := x.accs.set m.acc a', queue := rest }
    x.queue = m :: rest →
    (m.op = .mzero → exec (.matrixCommandExecute q) s = .next (gone { a with entries := [], flags := 0, ov := false, bad := [] })) ∧
    (m.op = .mwra → exec (.matrixCommandExecute q) s = .next (gone (setEntries (mwraCol m) { a with flags := 0, ov := false }))) ∧
    (m.op = .mma → a.bad = [] → exec (.matrixCommandExecute q) s =
      .next (gone ((List.range (m.width / 32)).foldl (fun a t => denseTile m m.b t (16 * t) a) a))) ∧
    (m.op = .mmaq → exec (.matrixCommandExecute q) s = .next (putQuarter s q { x with queue := { m with started := true } :: rest })) ∧
    (m.op = .mrda → a.bad = [] → ∃ t, exec (.matrixCommandExecute q) s = .next t ∧ (quarterAt t q).queue = rest ∧ (quarterAt t q).accs = x.accs ∧
      (∀ w, tbGet? s.waves m.wave = some w →
        (waveAt t m.wave).out = w.out.map fun r => if r.id = m.res then mrdaFill m a r else r)) ∧
    (m.op = .mmax → meetReady s m q = false → exec (.matrixCommandExecute q) s = .next s) ∧
    (m.op = .mmaq → m.started = true →
      let n := min (min m.owed 16) x.feed.length
      exec (.mmaqPass q) s = .next ((x.feed.take n).foldl (consumeRow q m)
        (putQuarter s q { x with feed := x.feed.drop n, queue := if m.owed = n then rest else { m with owed := m.owed - n } :: rest })))) ∧
  (∀ (m : MatCmd) (acc : AccVal) (ps : List (Nat × Nat)),
    tagEt m.tag = 7 → acc.v < 2 ^ 36 →
    let bits := if modeET m.mode = 9 ∨ modeET m.mode = 10 then 4 else 8
    let bv (x : Nat) : Int := if modeET m.mode = 8 ∨ modeET m.mode = 10 then (x : Int) else signedOf bits x
    let sum := signedOf 36 acc.v + (ps.map fun p => signedOf 8 p.1 * bv p.2).sum
    let r := accStep m acc ps
    r.v < 2 ^ 36 ∧ r.fl = acc.fl ∧
    (-(2 ^ 35 : Int) ≤ sum → sum < 2 ^ 35 → signedOf 36 r.v = sum ∧ r.ov = acc.ov) ∧
    (sum < -(2 ^ 35 : Int) → signedOf 36 r.v = -(2 ^ 35 : Int) ∧ r.ov = true) ∧
    ((2 ^ 35 : Int) ≤ sum → signedOf 36 r.v = 2 ^ 35 - 1 ∧ r.ov = true))

/-- R269 to R278: a copy instruction that no check turns away and for which the queue has room is over once its command is queued; a command of no
bytes only counts its arrival; a check that fails takes its trap. A CPYM whose destination is not in scratch traps 0x02 with that address, which is the model's choice
(log 21).
The place of the slices in the order of starts (beforeSlices, startsBefore) is the model's choice (log 20).
R277: CPYB queues the wave's slice and counts the wave's arrival at its key; the slices start together once all have arrived. -/
def Obligations.CopyInstructions : Prop :=
  (∀ (y : Bool) (d a l : SReg) (v : VReg) (q : Fin 8) (s : State) (wv sp : Nat),
    let e (closes : Bool) := entered s wv sp closes
    let c := seen s wv sp
    let w := waveAt s wv
    let core := coreOf w
    let dst := (sget w d.val).toNat
    let src := (sget w a.val).toNat
    let len := (sget w l.val).toNat
    let n := q.val + 1
    let queues (i : Instr) (u : Usage) (p : CopyPlan) (far : Bool) : Prop := ready s wv sp u = true →
      (planTrap (e u.closes) (islandOf s w) w.group p far = none → p.bytes ≠ 0 → copiesQueued s core < 32 →
        ∃ t m, exec i s = .next t ∧ (coreAt t core).copies = (coreAt s core).copies ++ [m] ∧ m.kind = p.kind ∧ m.wave = wv ∧ m.split = sp ∧
          m.batch = w.batch ∧ m.slot = (if refEn p.ref then some (refHdr p.ref, refSlot p.ref) else none) ∧ m.dests = p.dests ∧
          m.started = false ∧ m.failed = none ∧ m.pieces.map (fun x => (x.num, x.hop, x.src, x.dst, x.len, x.done)) =
            (planPieces p).map (fun x => (x.num, x.hop, x.src, x.dst, x.len, false)) ∧
          (waveAt t wv).regs = w.regs ∧ (waveAt t wv).out = [] ∧ (getSplit (waveAt t wv) sp).pc = ((getSplit w sp).pc + 4) % 2 ^ 57) ∧
      (planTrap (e u.closes) (islandOf s w) w.group p far = none → p.bytes = 0 → refEn p.ref = false →
        exec i s = .next (stepped (if p.srcFifo || p.dstFifo then onWave (e u.closes) wv fun w => putSplit w sp (closeRegion (getSplit w sp))
          else e u.closes) wv sp)) ∧
      (∀ code addr, planTrap (e u.closes) (islandOf s w) w.group p far = some (.trap code 0 addr) →
        exec i s = .next (traps s wv sp u code 0 addr))
    queues (.cpy y d a l) (useCopy d a l) (cpyPlan .cpy (e false) wv [w.group] dst src len) false ∧
    queues (.cpyg y d v a q) (useRows d v a) (rowsPlan false (e false) d v a q.val c) false ∧
    queues (.cpys y d v a q) (useRows d v a) (rowsPlan true (e false) d v a q.val c) false ∧
    (isScratch dst = false → endBad dst = false → endBad src = false → ready s wv sp { useCopy d a l with closes := true } = true →
      exec (.cpym y d a l q) s = .next (traps s wv sp { useCopy d a l with closes := true } 0x02 0 dst)) ∧
    (isScratch dst = true ∨ endBad dst = true ∨ endBad src = true → queues (.cpym y d a l q) { useCopy d a l with closes := true }
      (cpyPlan .multi (e true) wv (atollGroups (e true) w.group n) dst src len)
      (decide ((groupAt s w.group).atoll < (groupAt s w.group).member + n)))) ∧
  (∀ (y : Bool) (d a l : SReg) (q : Fin 8) (s : State) (wv sp : Nat),
    let u : Usage := { useCopy d a l with skipExec := true, collective := true, closes := true }
    let e := entered (begun s wv sp u) wv sp true
    let w := waveAt s wv
    let key := if bitOf q.val 2 then q.val + 8 * w.role else q.val
    let gen := arrivalsOf (groupAt s w.group) key wv + 1
    let p := cpyPlan (.collective key gen) e wv [w.group] (sget w d.val).toNat (sget w a.val).toNat (sget w l.val).toNat
    (ready s wv sp u = true → planTrap e (islandOf s w) w.group p false = none → p.bytes ≠ 0 → copiesQueued s (coreOf w) < 32 →
      ∃ t m, exec (.cpyb y d a l q) s = .next t ∧ m ∈ (coreAt t (coreOf w)).copies ∧ m.kind = .collective key gen ∧ m.wave = wv ∧ m.started = false ∧
        m.batch = w.batch ∧ arrivalsOf (groupAt t w.group) key wv = gen ∧ (waveAt t wv).regs = w.regs ∧
        (getSplit (waveAt t wv) sp).pc = ((getSplit w sp).pc + 4) % 2 ^ 57) ∧
    (∀ g k, let whole (c : CopyCmd) : Bool := match c.kind with
        | .collective k' gen => k' == k && hopGroup c 0 == g && collectiveWhole s g k gen
        | _ => false
      let go (c : CopyCmd) : Bool := whole c && startsBefore s (beforeSlices s g whole)
      exec (.collectiveCopyStart g k) s = .next (sweepCopies { s with cores := tbMap (fun _ x =>
        { x with copies := x.copies.map fun c => if go c then { c with started := true } else c }) s.cores })))

/-- R280, R281: batches: BATCH delivers and closes the open one, and BWAIT waits for the commands of a batch and those before it.
R284, R285, R288, R289: the ring instructions, when their reference names a slot of a ring, and their trap when it does
not. That they give up the slots when they are over, and that a trap tells the ring's failure once, is the model's choice (log 22).
R283, R285 to R287: an update of a slot adds to its counts; when both reach zero the slot fills: its phase turns and the ring's write pointer
advances by one modulo the slot count. The slot's word is one that no program store has touched: after one, each field is the stored or the
counted one by a free choice. -/
def Obligations.BatchAndRingInstructions : Prop :=
  (∀ (y : Bool) (d : SReg) (s : State) (wv sp : Nat),
    let w := waveAt s wv
    let n := (sget w d.val).toNat
    let e := entered s wv sp false
    CompletesWith (.batch y d) (useSw d) (fun _ w => { sset w d.val (BitVec.ofNat 64 w.batch) with batch := (w.batch + 1) % 2 ^ 64 }) ∧
    (ready s wv sp (useSr d) = true → batchOver e wv n = true → batchFailure e wv n = none →
      exec (.bwait y d) s = .next (stepped (invalidateClean e (coreOf w)) wv sp)) ∧
    (ready s wv sp (useSr d) = true → batchOver e wv n = false →
      exec (.bwait y d) s = .next (settleSlots (putWave e wv
        { waveAt e wv with ctl := { (waveAt e wv).ctl with wait := .batch n, waitSplit := sp, markAfter := y, again := false } }) wv)) ∧
    (ready s wv sp (useSr d) = true → batchOver e wv n = true → ∀ f code addr, batchFailure e wv n = some f → f.failed = some (code, addr) →
      exec (.bwait y d) s = .next (settleSlots (takeTrap (sweepCopies { e with cores := tbMap (fun _ k => { k with
        copies := k.copies.map fun c => if c.id = f.id then { c with told := true } else c }) e.cores }) wv
        { split := sp, code := code, tpc := (getSplit w sp).pc, taddr := addr, trans := f.failTrans }) wv)) ∧
    (∀ c, c ∈ covered s wv n ↔ c ∈ allCopies s ∧ c.wave = wv ∧ c.batch ≤ n)) ∧
  (∀ (y : Bool) (a b : SReg) (s : State) (wv sp : Nat),
    let w := waveAt s wv
    let g := w.group
    let v := (sget w a.val).toNat
    let n := (sget w b.val).toNat
    let e (closes : Bool) : State := entered s wv sp closes
    let k := (refHdr v, refSlot v)
    let uc : Usage := { useSr a with closes := true }
    let ub : Usage := { sr := [a.val, b.val], closes := true }
    let hdr := v % 2 ^ 19
    let sc := modeSC (getSplit w sp).mode
    (ready s wv sp uc = true → (v / 2 ^ 19 % 2 ^ 13 ≠ 0 ∨ v / 2 ^ 38 % 4 ≠ 0) → exec (.rnginit y a) s = .next (traps s wv sp uc 0x01 0 0)) ∧
    (ready s wv sp uc = true → v / 2 ^ 19 % 2 ^ 13 = 0 → v / 2 ^ 38 % 4 = 0 →
      (hdr % 16 ≠ 0 ∨ spadGood s g hdr (16 + 8 * (v / 2 ^ 32 % 64 + 1)) = false) → exec (.rnginit y a) s =
        .next (traps s wv sp uc 0x02 0 (if hdr % 16 ≠ 0 then hdr else spadFails s g hdr (16 + 8 * (v / 2 ^ 32 % 64 + 1))))) ∧
    (ready s wv sp uc = true → v / 2 ^ 19 % 2 ^ 13 = 0 → v / 2 ^ 38 % 4 = 0 → hdr % 16 = 0 →
      spadGood s g hdr (16 + 8 * (v / 2 ^ 32 % 64 + 1)) = true →
      exec (.rnginit y a) s = .next (stepped (leaveSlots (forgetFailures (initRing (e true) g hdr (v / 2 ^ 32 % 64) (v / 2 ^ 40)) g hdr none) wv) wv sp)) ∧
    (refGood s g v = false →
      (ready s wv sp (useSr a) = true → exec (.rwait y a) s = .next (traps s wv sp (useSr a) 0x02 0 (refFails s g v))) ∧
      (ready s wv sp uc = true → exec (.rrel y a) s = .next (traps s wv sp uc 0x02 0 (refFails s g v))) ∧
      (ready s wv sp ub = true → exec (.rarrv y a b) s = .next (traps s wv sp ub 0x02 0 (refFails s g v)))) ∧
    (ready s wv sp (useSr a) = true → refGood s g v = true → ringFailure (e false) g k = none → slotPhase (slotWord (e false) g k.1 k.2) = refPh v →
      exec (.rwait y a) s = .next (stepped (leaveSlots (invalidateClean (e false) (coreOf w)) wv) wv sp)) ∧
    (ready s wv sp (useSr a) = true → refGood s g v = true → ringFailure (e false) g k = none → slotPhase (slotWord (e false) g k.1 k.2) ≠ refPh v →
      ∃ t, exec (.rwait y a) s = .next t ∧ (waveAt t wv).ctl.wait = .ring k.1 k.2 (refPh v) ∧ (waveAt t wv).regs = w.regs) ∧
    (ready s wv sp (useSr a) = true → refGood s g v = true → ∀ f, ringFailure (e false) g k = some f →
      exec (.rwait y a) s = .next (settleSlots (takeTrap (tellRing (e false) g k) wv
        { split := sp, code := f.1, tpc := (getSplit w sp).pc, taddr := f.2.1, trans := f.2.2 }) wv)) ∧
    (ready s wv sp uc = true → refGood s g v = true →
      exec (.rrel y a) s = .next (stepped (leaveSlots (advanceRp (slotFault (forgetFailures (e true) g k.1 (some k.2)) g k false) g k.1) wv) wv sp)) ∧
    (ready s wv sp ub = true → refGood s g v = true → releaseClear s wv = true →
      exec (.rarrv y a b) s = .next (stepped (leaveSlots (countSlot (releasePush (e true) (coreOf w) (islandOf s w) (if sc = 7 then 5 else sc)) g k
        (n % 2 ^ 28) (n / 2 ^ 28 % 2 ^ 8)) wv) wv sp))) ∧
  (∀ (s : State) (g hdr slot dp da : Nat),
    let gr := groupAt s g
    let t := countSlot s g (hdr, slot) dp da
    let w := slotWord s g hdr slot
    let h := ringNat s g hdr 4
    let p := (w % 2 ^ 28 + dp) % 2 ^ 28
    let n := (w / 2 ^ 28 % 2 ^ 8 + da) % 2 ^ 8
    let fills : Bool := decide (p = 0 ∧ n = 0)
    let w' := slotWord t g hdr slot
    spWf 0 (coreAt s gr.core).spad = true → (∀ e, slotEntry s g hdr slot = some e → e = (ringNat s g (slotOff hdr slot) 8, none)) →
    w' % 2 ^ 28 = p ∧ w' / 2 ^ 28 % 2 ^ 8 = n ∧ slotPhase w' = (slotPhase w != fills) ∧ slotFaulted w' = slotFaulted w ∧
    (∀ k, k ≠ slot → slotWord t g hdr k = slotWord s g hdr k) ∧
    ringNat t g hdr 4 % 2 ^ 6 = h % 2 ^ 6 ∧ ringNat t g hdr 4 / 2 ^ 12 = h / 2 ^ 12 ∧
    ringNat t g hdr 4 / 2 ^ 6 % 2 ^ 6 = (if fills then (h / 2 ^ 6 % 2 ^ 6 + 1) % (h % 2 ^ 6 + 1) else h / 2 ^ 6 % 2 ^ 6) ∧
    t.waves = s.waves ∧ t.dev = s.dev)

/-- The order among the slices of a collective (log 20), the clock on which an arrival is counted (log 20) and the failure of a hop to a group
that is gone (log 21) are the model's choice.
R279, R286, R291: a command starts in order of issue, and a piece whose turn has come and whose bytes and lines are at hand is written and
counted. -/
def Obligations.CopyEvents : Prop := ∀ (s : State) (core idx i : Nat) (c : CopyCmd) (p : CopyPiece),
  copyAt s core idx = some c →
  (isCollective c = false → c.started = false → startsBefore s ((coreAt s core).copies.take idx) = true →
    exec (.copyCommandStart core idx) s = .next (mapCopy s core c.id fun d => { d with started := true })) ∧
  (c.pieces[i]? = some p → c.started = true → c.failed = none → p.done = false → p.fault = none → p.bad = none → p.commit = 0 →
    pieceTurn c i p = true → c.cut = false → limitFails s c p = none →
    c.srcFifo = false → c.dstFifo = false → ∀ s1, pieceBad s core c p = (s1, none) →
    let q := endLocate (copyAsker core c) (hopGroup c p.hop) 1 (p.dst + p.pos) (chunkLen c p) s1
    q.2.any (segWait q.1 core c.id) = false → ∀ bytes, hopData c p = some bytes →
    (p.hop = 0 → c.owed = [] → settles s core c p = false → exec (.copyPiece core idx i) s = .next (putPiece q.1 core c i p bytes q.2)) ∧
    (p.hop ≠ 0 → hopGood s c p.hop = true → exec (.cpymHop core idx i) s = .next (putPiece q.1 core c i p bytes q.2))) ∧
  (c.pieces[i]? = some p → c.started = true → c.failed = none → p.done = false → p.fault = none → pieceTurn c i p = true →
    p.hop ≠ 0 → hopGood s c p.hop = false → exec (.cpymHop core idx i) s = .next (failHop s core c p.hop (p.dst % 2 ^ 63)))

/-- R259, R319, R326, R328, R342, R404: the queue instructions. That QPOP of q3 gives the helper lanes of the write mask zero is the model's
choice (log 27). -/
def Obligations.QueueInstructions : Prop := ∀ (y : Bool) (q : Fin 8) (a d : VReg) (r : SReg) (s : State) (wv sp : Nat),
  let w := waveAt s wv
  let x := getSplit w sp
  let c := seen s wv sp
  let g := groupAt s w.group
  let isl := islandOf s w
  let i := islandAt s isl
  let qr := quarterAt s w.quarter
  let up : Usage := { vr := [(a.val, 16)], legal := q.val == 0 || q.val == 2, closes := true }
  let uo : Usage := { vw := [(d.val, if q.val = 3 then 16 else 8)], legal := q.val == 1 || q.val == 3 || q.val == 4, priv := q.val == 4,
                      closes := true, collective := q.val == 1, skipExec := q.val == 1, allLanes := q.val == 1 }
  let us : Usage := { useSw r with legal := decide (q.val < 5), priv := q.val == 4 }
  let after (t : State) : Prop := (getSplit (waveAt t wv) sp).pc = (x.pc + 4) % 2 ^ 57 ∧ (waveAt t wv).regs = w.regs
  let denied : Bool := decide (q.val = 2) && !holdsSlots s w
  let list : Option (Graph × NodeList) := g.node.bind fun t => (graphOf s isl t.graph).map fun z => (z, z.lists.getD t.node {})
  let count : Nat := match q.val with
    | 0 => if g.bcfg = 0 then 0 else g.beams.length
    | 1 => g.q1.length
    | 2 => qr.feed.length
    | 3 => (list.map fun p => p.2.recs.length).getD 0
    | _ => i.q4.length
  let peek : Nat := match q.val with
    | 0 => if g.bcfg = 0 then 0 else poolFree g * 2 ^ 32 + (bcEntries g.bcfg - poolFree g)
    | 1 => (g.q1.head?.map fun z => z.getD 0 0 + 2 ^ 47).getD 0
    | 2 => (qr.feed.head?.map fun z =>
        z.tag % 2 ^ 32 + z.pos * 2 ^ 32 + z.tile * 2 ^ 37 + z.elems.length * 2 ^ 40 + z.esz * 2 ^ 46 + 2 ^ 47).getD 0
    | 3 => (list.map fun p => p.2.recs.length % 2 ^ 32 + (freeBlocks p.1).length % 2 ^ 16 * 2 ^ 32 + 2 ^ 63).getD 0
    | _ => (i.q4.head?.map fun z => (evWords isl z).getD 0 0 + 2 ^ 47).getD 0
  (q.val = 0 → ready s wv sp up = true → g.scene ≠ none → g.bcfg ≠ 0 → ∃ t, exec (.qpush y q a) s = .next t ∧ after t ∧
    (groupAt t w.group).roots.map (fun z => (z.wave, z.split, z.desc, z.past)) = g.roots.map (fun z => (z.wave, z.split, z.desc, z.past)) ++
      (realLanes c).map (fun l => (wv, sp, (List.range 16).map fun k => (vget w x.frame (a.val + k) l).toNat, pastNow s (coreOf w))) ∧
    (waveAt t wv).ctl.wait = (if realLanes c = [] then .no else .pool) ∧ t.dev = s.dev ∧ t.cores = s.cores) ∧
  (q.val = 0 → ready s wv sp up = true → (g.scene = none ∨ g.bcfg = 0) → exec (.qpush y q a) s = .next (traps s wv sp up 0x02 0 0)) ∧
  (q.val = 2 → ready s wv sp up = true → holdsSlots s w = false → exec (.qpush y q a) s = .next (traps s wv sp up 0x02 0 0)) ∧
  (q.val = 2 → ready s wv sp up = true → holdsSlots s w = true → realLanes c = [] →
    exec (.qpush y q a) s = .next (stepped (entered s wv sp true) wv sp)) ∧
  (q.val = 2 → ready s wv sp up = true → holdsSlots s w = true → realLanes c ≠ [] → feedReady s wv w (realLanes c).length = true →
    exec (.qpush y q a) s = .next (stepped (putQuarter (entered s wv sp true) w.quarter
      { qr with feed := qr.feed ++ (realLanes c).map (pushRow c a), line := qr.line.filter fun e => e.2 != wv }) wv sp)) ∧
  (q.val = 2 → ready s wv sp up = true → holdsSlots s w = true → realLanes c ≠ [] → feedReady s wv w (realLanes c).length = false →
    ∃ t, exec (.qpush y q a) s = .next t ∧ (waveAt t wv).ctl.wait = .feedRoom (realLanes c).length ∧ (quarterAt t w.quarter).feed = qr.feed) ∧
  (q.val = 1 → ready s wv sp uo = true → (g.q1 ≠ [] ∨ g.beams = []) →
    let p := packQuads (openQuads w) g.q1
    let lanes := quadLanes w g.q1 p.1
    ∃ t z, exec (.qpop y d q) s = .next t ∧ after t ∧ groupAt t w.group = { g with q1 := p.2 } ∧ (waveAt t wv).out = [z] ∧
      z.rows = (List.range 8).map (fun k => rowOf w x.frame (d.val + k)) ∧
      z.vec = (wordsResult c d.val 8 (lanes.map fun v => (v.1, v.2.1))).vec ∧
      z.helpers = some (maskOfList (lanes.map (·.1)), maskOfList ((lanes.filter fun v => v.2.2).map (·.1)))) ∧
  (q.val = 1 → ready s wv sp uo = true → g.q1 = [] → g.beams ≠ [] →
    ∃ t, exec (.qpop y d q) s = .next t ∧ (waveAt t wv).ctl.wait = .fragment ∧ groupAt t w.group = g ∧ (waveAt t wv).regs = w.regs) ∧
  (q.val = 3 → ready s wv sp uo = true → g.node = none → exec (.qpop y d q) s = .next (traps s wv sp uo 0x02 0 0)) ∧
  (q.val = 3 → ready s wv sp uo = true → ∀ t gr, g.node = some t → graphOf s isl t.graph = some gr →
    let l := gr.lists.getD t.node {}
    let n := (realLanes c).length
    ∃ u z, exec (.qpop y d q) s = .next u ∧ after u ∧ (waveAt u wv).out = [z] ∧
      ((graphOf u isl t.graph).map fun k => (k.lists.getD t.node {}).recs) = some (l.recs.drop n) ∧
      (groupAt u w.group).node = some { t with blocks := t.blocks ++ l.recs.take n } ∧
      z.rows = (List.range 16).map (fun k => rowOf w x.frame (d.val + k)) ∧
      z.vec = (wordsResult c d.val 16 ((maskList c.wm).map fun j =>
        (j, wordsOf 16 ((((realLanes c).zip (l.recs.take n)).find? fun p => p.1 == j).elim [] fun p => p.2.2)))).vec) ∧
  (q.val = 4 → ready s wv sp uo = true →
    let n := (maskList c.wm).length
    ∃ t z, exec (.qpop y d q) s = .next t ∧ after t ∧ (waveAt t wv).out = [z] ∧
      (islandAt t isl).q4 = i.q4.drop n ++ (i.q4wait.take (256 - (i.q4.drop n).length)).map (fun r => { r with clock := s.dev.cycle % 2 ^ 32 }) ∧
      (islandAt t isl).q4wait = i.q4wait.drop (256 - (i.q4.drop n).length) ∧
      z.vec = (wordsResult c d.val 8 ((maskList c.wm).map fun j =>
        (j, (((maskList c.wm).zip (i.q4.take n)).find? fun p => p.1 == j).elim [] fun p => evWords isl p.2))).vec) ∧
  (ready s wv sp us = true → denied = true → exec (.qcnt y r q) s = .next (traps s wv sp us 0x02 0 0) ∧
    exec (.qpeek y r q) s = .next (traps s wv sp us 0x02 0 0)) ∧
  (ready s wv sp us = true → denied = false →
    exec (.qcnt y r q) s = .next (ends s wv sp us fun w => sset w r.val (BitVec.ofNat 64 count)) ∧
    ∃ t, exec (.qpeek y r q) s = .next t ∧ after t ∧
      (waveAt t wv).out.map (fun z => (z.scalars, z.sca)) = [([r.val], [(r.val, BitVec.ofNat 64 peek)])]) ∧
  (∀ (ks : List Nat) (rs : List (List Nat)),
    (((packQuads ks rs).1.flatMap fun z => z.2.filterMap id) ++ (packQuads ks rs).2).Perm rs)

/-- R316, R317, R335, R336, R343, R344, R347: the instructions that configure the beam engine and drive work graphs, when the record that some of
them read is readable and well formed and needs no table walk. That a forbidden LAUNCH traps with taddr 0 (log 26), and that BCFG and BSCN act
at once (log 42), is the model's choice. -/
def Obligations.GraphInstructions : Prop := ∀ (y : Bool) (a : SReg) (v : VReg) (s : State) (wv sp : Nat),
  let w := waveAt s wv
  let c := seen s wv sp
  let g := groupAt s w.group
  let isl := islandOf s w
  let u1 : Usage := { useSr a with closes := true }
  let ua : Usage := { vr := [(v.val, 16)], sr := [a.val], closes := true }
  let uq : Usage := { sr := [a.val], sw := [a.val] }
  let e (cl : Bool) : State := entered s wv sp cl
  let k := (sget w a.val).toNat
  let found (cl : Bool) (n : Nat) : State × List (Seg × LaneRes) :=
    let p := locate (askerOf (e cl) wv) 0 (segsOf k n) (e cl)
    (walkOver p.1 wv, p.2)
  let bytes (cl : Bool) (n : Nat) : List Nat := (found cl n).2.flatMap (segBytes (found cl n).1 (askerOf s wv))
  let reads (cl : Bool) (n align : Nat) : Prop := k % align = 0 ∧
    passes ((found cl n).1, segAccs (found cl n).2) (coreOf w) = true ∧ (found cl n).2.any (segPoison (found cl n).1 (askerOf s wv)) = false ∧
    (w.ctl.walked = true ∨ recordWalks (e cl) (askerOf (e cl) wv) k n = false)
  let after (t : State) : Prop := (getSplit (waveAt t wv) sp).pc = ((getSplit w sp).pc + 4) % 2 ^ 57 ∧ (waveAt t wv).regs = w.regs
  (ready s wv sp u1 = true → k ≠ 0 → bcLegal k = false → exec (.bcfg y a) s = .next (traps s wv sp u1 0x01 0 0)) ∧
  (ready s wv sp u1 = true → (k = 0 ∨ bcLegal k = true) → (beamBusy g = true ∨ (k ≠ 0 ∧ bcFits g k = false)) →
    exec (.bcfg y a) s = .next (traps s wv sp u1 0x02 0 0)) ∧
  (ready s wv sp u1 = true → (k = 0 ∨ (bcLegal k = true ∧ bcFits g k = true)) → beamBusy g = false →
    ∃ t, exec (.bcfg y a) s = .next t ∧ after t ∧ groupAt t w.group = { g with bcfg := k, q1 := [], pool := [] } ∧ t.dev = s.dev) ∧
  (ready s wv sp (useSr a) = true → reads false 32 32 →
    let r := bytes false 32
    (sceneLegal r = true → ∃ t, exec (.bscn y a) s = .next t ∧ after t ∧
      groupAt t w.group = { g with scene := some [recGet r 0 8, recGet r 8 8, recGet r 16 8, recGet r 24 4] }) ∧
    (sceneLegal r = false → ∃ t, exec (.bscn y a) s = .next (settleSlots (takeTrap t wv { split := sp, code := 0x01, tpc := (getSplit w sp).pc }) wv) ∧
      groupAt t w.group = g)) ∧
  (ready s wv sp u1 = true → k % 64 ≠ 0 → exec (.wlcfg y a) s = .next (traps s wv sp u1 0x03 0 k)) ∧
  (ready s wv sp u1 = true → reads true 64 64 →
    let r := bytes true 64
    let n : Graph := { desc := r }
    let busy := graphBusy s isl n
    (recGet r 0 8 = 0 → unbindLegal n = true → busy = false →
      ∃ t, exec (.wlcfg y a) s = .next t ∧ after t ∧ graphOf t isl (gGid n) = none) ∧
    (recGet r 0 8 ≠ 0 → descLegal n = true → busy = false → poolTaken s isl n = false →
      (readNodes c (fun z ns => (leaveSlots (bindGraph z isl (!privileged z (waveAt z wv)) n ns) wv, .done)) (gNodes n) (gTable n) [] (onWave (found true 64).1 wv fun z =>
        noteReads (endReplay z) sp (accKeys (segAccs (found true 64).2)))).2 = .done →
      ∃ t b, exec (.wlcfg y a) s = .next t ∧ after t ∧ graphOf t isl (gGid n) = some b ∧ b.desc = r ∧ b.bare = !privileged s w ∧ b.nodes.length = gNodes n ∧
        (∀ p ∈ b.nodes, 1 ≤ p.2.1 ∧ p.2.1 ≤ 8) ∧ b.lists = List.replicate (gNodes n) {} ∧ b.used = [])) ∧
  (ready s wv sp uq = true → k / 2 ^ 3 ≠ 0 → exec (.wquiet y a) s = .next (traps s wv sp uq 0x01 0 0)) ∧
  (ready s wv sp uq = true → k / 2 ^ 3 = 0 → graphOf s isl k = none → exec (.wquiet y a) s = .next (traps s wv sp uq 0x02 0 0)) ∧
  (ready s wv sp uq = true → k / 2 ^ 3 = 0 → ∀ gr, graphOf s isl k = some gr →
    let quiet := isQuiet (e false) isl k gr
    let word := graphRecords gr % 2 ^ 32 + (graphFormed gr + graphResident s isl k) % 2 ^ 16 * 2 ^ 32 + (if gr.faulted then 2 ^ 62 else 0) +
      (if quiet then 2 ^ 63 else 0)
    let t := onWave (e false) wv fun w => sset w a.val (BitVec.ofNat 64 word)
    exec (.wquiet y a) s = .next (stepped (leaveSlots (if quiet then invalidateClean t (coreOf w) else t) wv) wv sp)) ∧
  (ready s wv sp u1 = true → (w.block = [] → reads true 128 128) →
    let b := if w.block = [] then bytes true 128 else w.block
    let cls := blClass b
    let i := islandAt s isl
    let tail := i.tails.getD cls 0
    cls ≠ 3 → (launchOf s w).cls ≤ cls → (blPriv b = true → privileged s w = true) → releaseClear s wv = true →
      (tail + 2 ^ 32 - i.heads.getD cls 0) % 2 ^ 32 < 2 ^ islQueueLog i cls →
      ∃ t, exec (.launch y a) s = .next t ∧ after t ∧ (islandAt t isl).tails = i.tails.set cls ((tail + 1) % 2 ^ 32) ∧
        (islandAt t isl).heads = i.heads) ∧
  (ready s wv sp u1 = true → (w.block = [] → reads true 128 128) →
    let b := if w.block = [] then bytes true 128 else w.block
    (blClass b = 3 ∨ blClass b < (launchOf s w).cls ∨ (blPriv b = true ∧ privileged s w = false)) →
    ∃ t, exec (.launch y a) s = .next (settleSlots (takeTrap t wv { split := sp, code := 0x02, tpc := (getSplit w sp).pc }) wv) ∧
      t.islands = s.islands) ∧
  (ready s wv sp ua = true → k / 2 ^ 9 ≠ 0 → exec (.apnd y v a) s = .next (traps s wv sp ua 0x01 0 0)) ∧
  (ready s wv sp ua = true → k / 2 ^ 9 = 0 → nodeBound s isl (k / 2 ^ 6) (k % 2 ^ 6) = false →
    exec (.apnd y v a) s = .next (traps s wv sp ua 0x02 0 0)) ∧
  (ready s wv sp ua = true → k / 2 ^ 9 = 0 → nodeBound s isl (k / 2 ^ 6) (k % 2 ^ 6) = true → releaseClear s wv = true →
    let recs := (realLanes c).map (laneRecord c v 16)
    let t := onWave (releasePush (e true) (coreOf w) isl 5) wv fun w =>
      { w with apnd := { graph := k / 2 ^ 6, node := k % 2 ^ 6, pc := (getSplit (waveAt s wv) sp).pc, recs := recs } }
    (recs = [] → exec (.apnd y v a) s = .next (stepped (leaveSlots (endAppend wv t) wv) wv sp)) ∧
    (recs ≠ [] → (appendRun wv recs.length t).2 = .done →
      exec (.apnd y v a) s = .next (stepped (leaveSlots (endAppend wv (appendRun wv recs.length t).1) wv) wv sp))) ∧
  (ready s wv sp u1 = true → k = 0 → exec (.tdone y a) s = .next (stepped (leaveSlots (e true) wv) wv sp)) ∧
  (ready s wv sp u1 = true → k ≠ 0 → releaseClear s wv = true →
    let st := onWave (e true) wv fun w => { w with ctl := { w.ctl with helpers := w.ctl.helpers &&& ~~~ 1#128 } }
    let p := resolveLanes .global (waveAt st wv) 2 64 [(0, k)] st
    ∀ x, p.2 = [x] →
    let before := releasePush (walkOver p.1 wv) (coreOf w) isl 5
    let r := readAcc (coreOf w) isl 8 2 before x
    let old := r.2 % 2 ^ 32
    passes p (coreOf w) = true → accPoisonAt 2 before (coreOf w) 8 x = false →
    ∃ t, exec (.tdone y a) s = .next t ∧ after t ∧
      (old ≠ 0 → t.dev.mem = (writeAcc wv (coreOf w) isl 2 false (leBytes 4 (old - 1)) r.1 x).dev.mem) ∧
      (old = 0 → t.dev.mem = r.1.dev.mem ∧ islandAt t isl = islandAt (placeEvent r.1 isl { kind := 7, who := whoWord w sp, addr := k }) isl) ∧
      (islandAt t isl).succ.map (fun z => (z.counter, z.graph, z.node)) = (islandAt s isl).succ.map (fun z => (z.counter, z.graph, z.node)) ++
        (if old = 1 then [(k, r.2 / 2 ^ 38 % 2 ^ 3, r.2 / 2 ^ 32 % 2 ^ 6)] else []))

/-- R319 to R325: the moves of the beam engine of a group whose core does not halt. Which missed boxes it skips is a free choice, and that SA is raised in the
submitting wave is the model's choice (log 24, log 25). -/
def Obligations.BeamEvents : Prop := ∀ (s : State) (g idx : Nat) (gr : Group), workingGroup s g = some gr →
  let stands (t : State) : Prop := t.waves = s.waves ∧ t.dev = s.dev ∧ t.cores = s.cores ∧ t.islands = s.islands
  (∀ r rest, gr.roots = r :: rest → waitOrders gr = [] → bcReserve gr.bcfg + 1 ≤ poolFree gr → descCause r.desc (gr.scene.getD []) = 0 →
    let b : Beam :=
      { id := s.nextId, desc := r.desc, bind := gr.scene.getD [], wave := r.wave, split := r.split, who := r.who, pc := r.pc, past := r.past }
    exec (.beamAccept g) s = .next (endPush g r.wave (putGroup { s with nextId := s.nextId + 1 } g
      { gr with roots := rest, pool := gr.pool ++ [{ beam := s.nextId, stack := [1] }], beams := gr.beams ++ [b] }))) ∧
  (∀ r rest, gr.roots = r :: rest → waitOrders gr = [] → bcReserve gr.bcfg + 1 ≤ poolFree gr → descCause r.desc (gr.scene.getD []) ≠ 0 →
    exec (.beamAccept g) s = .next (endPush g r.wave (placeEvent (putGroup s g { gr with roots := rest }) (launchAt s gr.launch).island
      { kind := 2, cause := descCause r.desc (gr.scene.getD []), who := r.who, aux := r.desc.getD 3 0, aux2 := r.desc.getD 2 0 / 2 ^ 16 % 2 ^ 16 }))) ∧
  (∀ d b, descCause d b = 0 ↔ (dMode d < 2 ∧ dFlags d = 0 ∧ 3 ≤ dNV d ∧ dNV d ≤ 8 ∧ 1 ≤ dW d ∧ dW d ≤ 64 ∧ 1 ≤ dH d ∧ dH d ≤ 64 ∧
    dOX d + dW d ≤ 2 ^ 15 ∧ dOY d + dH d ≤ 2 ^ 15 ∧ polyGood (dPoly d) = true ∧ dCam d < b.getD 3 0)) ∧
  (∀ e, gr.pool[idx]? = some e → e.ended = true → exec (.beamTraversalStep g idx) s = .next (putGroup s g
    (if dMode (beamOf gr e.beam).desc = 1 ∨ visPending gr (beamOf gr e.beam) = [] then dropEntry idx gr else gr))) ∧
  (∀ e c, gr.pool[idx]? = some e → e.ended = false → e.fault = none → emitStalled gr = false → (beamOf gr e.beam).cam = some c → e.wait = [] →
    (∀ w rest, e.stack = w :: rest → w % 4 = 0 →
      ∃ t, exec (.beamTraversalStep g idx) s = .next t ∧ stands t ∧ (groupAt t g).beams = gr.beams) ∧
    (∀ w rest t ws, e.stack = w :: rest → w % 4 = 1 →
      sceneRead s g (beamOf gr e.beam) ((beamOf gr e.beam).bind.getD 0 0 + 64 * (w / 4)) 16 = (t, .words ws) →
      ∃ kept, exec (.beamTraversalStep g idx) s = .next (putGroup { t with free := t.free + 1 } g (storeEntry (groupAt t g) idx
        { (groupAt t g).pool.getD idx {} with stack := kept ++ rest } (beamOf gr e.beam))) ∧
        (∀ v ∈ kept, v % 4 ≠ 0) ∧ (∃ keep : Nat → Bool, kept = ((List.range 4).filter keep).map fun k => ws.getD (12 + k) 0) ∧
        (∀ k, k < 4 → ws.getD (12 + k) 0 % 4 ≠ 0 → missed (beamOf gr e.beam) ws k = false → ws.getD (12 + k) 0 ∈ kept)) ∧
    (e.stack = [] → e.ray = none →
      let g1 := setEntry idx { e with ended := true }
        (if (dMode (beamOf gr e.beam).desc = 1 ∧ e.cands = []) ∨ (dMode (beamOf gr e.beam).desc ≠ 1 ∧ e.cands ≠ []) then
          mapBeam (beamOf gr e.beam).id (fun x => { x with done := x.done ++ [(e.poly, e.cands)] }) gr else gr)
      exec (.beamTraversalStep g idx) s = .next (putGroup s g
        (if dMode (beamOf g1 (beamOf gr e.beam).id).desc = 1 ∨ visPending g1 (beamOf g1 (beamOf gr e.beam).id) = [] then dropEntry idx g1 else g1)))) ∧
  (∀ e px py wt, gr.pool[idx]? = some e → e.ray = some (px, py, wt) → e.fault = none → e.stack = [] →
    let b := beamOf gr e.beam
    let seen := visibleAt (testRegion b.desc) e.cands (e.poly.headD ⟨0, 0⟩)
    (seen = none → exec (.rayEmit g idx) s = .next (putGroup s g { gr with pool := dropAt gr.pool idx })) ∧
    (∀ A, seen = some A → gr.q1.length < bcFqCap gr.bcfg → exec (.rayEmit g idx) s = .next
      (clampFlag (centroidClamps ((e.poly.headD ⟨0, 0⟩).x - (px : Int)) || centroidClamps ((e.poly.headD ⟨0, 0⟩).y - (py : Int))) b (putGroup s g
        { gr with pool := dropAt gr.pool idx, q1 := gr.q1 ++ [fragWords (b.cam.getD []) A px py wt (e.poly.headD ⟨0, 0⟩) false true] }))) ∧
    (∀ A, seen = some A → bcFqCap gr.bcfg ≤ gr.q1.length → exec (.rayEmit g idx) s = .next s)) ∧
  (∀ id key rec, (groupPending gr)[idx]? = some (id, key, rec) → gr.q1.length < bcFqCap gr.bcfg →
    ∃ t, exec (.fragmentEmit g idx) s = .next t ∧
      ((dMode (beamOf gr id).desc = 1 ∨ visClamps (beamOf gr id) key = false) → stands t) ∧ (groupAt t g).q1 = gr.q1 ++ [rec] ∧ (groupAt t g).pool = gr.pool ∧
      (∀ b ∈ gr.beams, b.id = id → { b with emitted := b.emitted ++ [key] } ∈ (groupAt t g).beams)) ∧
  (bcFqCap gr.bcfg ≤ gr.q1.length → exec (.fragmentEmit g idx) s = .next s) ∧
  (∀ b, gr.beams.find? (fun z => z.id == idx) = some b → beamIdle gr b = true → pendingOf gr b = [] →
    ∃ t, exec (.beamRetire g idx) s = .next t ∧ stands t ∧ (∀ z ∈ (groupAt t g).beams, z.id ≠ idx) ∧ (∀ z ∈ (groupAt t g).pool, z.beam ≠ idx) ∧
      (groupAt t g).q1 = gr.q1)

/-- R336 to R339, R343, R345, R362: the moves of the work-graph engine. That KIND 8 packs the node and the graph into AUX as
node + 64 * graph is the model's choice (log 26). -/
def Obligations.GraphEvents : Prop := ∀ (s : State) (wv isl gid node : Nat),
  let w := waveAt s wv
  (tbGet? s.waves wv = some w → w.ctl.wait = .append → w.apnd.fault = none → (groupAt s w.group).away = false →
    ∀ t, appendNext s wv = (t, .done) → exec (.appendRecord wv) s = .next
      (if (waveAt t wv).apnd.recs = [] then onWave (endAppend wv t) wv endWait else t)) ∧
  (∀ g l, graphOf s isl gid = some g → node < g.lists.length → g.lists.getD node {} = l → l.recs ≠ [] →
    ∀ c, l.timer = some c → c + nodeTimeout g node ≤ s.dev.cycle →
    let R := nodeR g node
    ∃ t, exec (.batchTimerExpiry isl gid node) s = .next t ∧ t.waves = s.waves ∧ t.dev = s.dev ∧
      (graphOf t isl gid).map (fun z => z.lists.getD node {}) = some
        { recs := l.recs.drop R, timer := if l.recs.length ≤ R then none else some s.dev.cycle, nextBatch := (l.nextBatch + 1) % 2 ^ 32,
          formed := l.formed ++ [{ num := l.nextBatch, blocks := l.recs.take R }] }) ∧
  (∀ q rec t g, appendOne s isl gid node q wv rec = (t, .done) → graphOf s isl gid = some g → node < g.lists.length →
    ∃ b g', b ∈ freeBlocks g ∧ graphOf t isl gid = some g' ∧ g'.used = b :: g.used ∧ g'.desc = g.desc ∧
      (∀ k, k ≠ node → g'.lists.getD k {} = g.lists.getD k {}) ∧
      ((g'.lists.getD node {}).formed.drop (g.lists.getD node {}).formed.length).flatMap (·.blocks) ++ (g'.lists.getD node {}).recs =
        (g.lists.getD node {}).recs ++ [(b, withNode rec node)]) ∧
  (∀ x t, (islandAt s isl).succ.find? (fun x => x.graph == gid) = some x → x.fault = none → nodeBound s isl x.graph x.node = true →
    locate (succAsker isl x) 0 (segsOf ((x.counter + 64) % 2 ^ 64) 64) s = t → firstBad t.2 = none →
    t.2.any (segWait t.1 x.core t.1.nextId) = false → t.2.any (segPoison t.1 (succAsker isl x)) = false →
    ∀ u, appendOne t.1 isl x.graph x.node (succAsker isl x) 0 (t.2.flatMap (sceneBytes t.1 (succAsker isl x))) = (u, .done) →
    exec (.successorAppend isl gid) s = .next (graphCheck isl (dropSucc u isl gid) gid)) ∧
  (∀ x, (islandAt s isl).succ.find? (fun x => x.graph == gid) = some x → x.fault = none → nodeBound s isl x.graph x.node = false →
    exec (.successorAppend isl gid) s = .next (graphCheck isl (placeEvent (dropSucc s isl gid) isl
      { kind := 8, who := x.who, addr := x.counter, aux := x.node + x.graph * 2 ^ 6 }) x.graph)) ∧
  (∀ p rest, (islandAt s isl).parkQ = p :: rest → (islandAt s isl).fqWait = [] → (islandAt s isl).q4.length < 256 → (islandAt s isl).q4wait = [] →
    let i := islandAt s isl
    let n := 1 + (p.blocks.length - 15 + 15) / 16
    let log := islFqLog i
    fqUsed i + n ≤ 2 ^ log →
    ∃ t, exec (.taskControlBlockWrite isl) s = .next t ∧ (islandAt t isl).parkQ = rest ∧ (islandAt t isl).fqTail = (i.fqTail + n) % 2 ^ 32 ∧
      (islandAt t isl).fqHead = i.fqHead)

/-- R24, R27, R28, R244 to R246, R389: slot grants, displacement and timers. -/
def Obligations.BarrelEvents : Prop := ∀ (s : State) (q slot wv : Nat),
  let w := waveAt s wv
  (grantee s q slot = none → exec (.slotGrant q slot) s = .next s) ∧
  (grantee s q slot = some wv →
    let n := max (w.width / 32) 1
    let x := quarterAt s q
    let pin := decide ((launchOf s w).cls = 0) && lbPin (launchOf s w)
    ∃ t, exec (.slotGrant q slot) s = .next t ∧ t.waves = s.waves ∧ t.dev = s.dev ∧ (∀ k, k ≠ q → quarterAt t k = quarterAt s k) ∧
      (quarterAt t q).accs = x.accs ∧ (quarterAt t q).accHolder = x.accHolder ∧ (quarterAt t q).slots.length = x.slots.length ∧
      ∀ i, i < x.slots.length → (quarterAt t q).slots.getD i none =
        if slot / n * n ≤ i ∧ i < slot / n * n + n then some { wave := wv, pin := pin } else x.slots.getD i none) ∧
  (∀ h, tbGet? s.waves wv = some w → holdOf (quarterAt s w.quarter) wv = some h → h.pin = false → 4 ≤ h.hold →
    (∃ e ∈ pendingReady s w.quarter, classOf s e.2 ≤ classOf s w) →
    exec (.holdCountDisplace wv) s = .next (putWave (putQuarter s w.quarter (vacate wv (quarterAt s w.quarter))) wv
      { w with tim := { w.tim with age := max s.dev.cycle (w.tim.passEnd - 1) } })) ∧
  (∀ h, tbGet? s.waves wv = some w → holdOf (quarterAt s w.quarter) wv = some h →
    (h.pin = true ∨ h.hold < 4 ∨ ∀ e ∈ pendingReady s w.quarter, classOf s w < classOf s e.2) → exec (.holdCountDisplace wv) s = .next s) ∧
  (∀ b, tbGet? s.waves wv = some w → displaceGroup s wv w = some b →
    exec (.classDisplace wv) s = .next ((((holdersOf (quarterAt s w.quarter) b (max (w.width / 32) 1)).map (·.wave)).eraseDups).foldl displaceHolder s)) ∧
  (∀ b, displaceGroup s wv w = some b → ∀ h ∈ holdersOf (quarterAt s w.quarter) b (max (w.width / 32) 1),
    h.pin = false ∧ (h.leave = true ∨ classOf s w < classOf s (waveAt s h.wave))) ∧
  (tbGet? s.waves wv = some w →
    let runs : Bool := w.tim.tmcmp.getLsbD 63 && decide (w.tim.tmcmp.toNat % 2 ^ 63 ≤ w.tim.wtime)
    let expired : Wave := if runs then { w with tim := { w.tim with tmcmp := w.tim.tmcmp &&& 0x7FFFFFFFFFFFFFFF, fired := true } } else w
    runs = true ∨ w.tim.fired = true →
    (∀ i, timerSplit s wv w = some i → exec (.timerFire wv) s = .next (settleSlots (takeTrap (putWave s wv
      { breakWait expired with tim := { (breakWait expired).tim with fired := false } }) wv { split := i, code := 0x10, tpc := (getSplit w i).pc }) wv)) ∧
    (timerSplit s wv w = none → exec (.timerFire wv) s = .next (putWave s wv expired))) ∧
  (tbGet? s.waves wv = some w → w.tim.fired = false → (w.tim.tmcmp.getLsbD 63 = false ∨ w.tim.wtime < w.tim.tmcmp.toNat % 2 ^ 63) →
    exec (.timerFire wv) s = .next s)

/-- R22, R238 to R243, R295, R341, R360: the moves of the distributor. That a queue entry whose line is poisoned, or
lies in another island's sealed carve-out, is treated as a malformed one (fault code 0x24, the entry passed over) is the model's choice
(log 26). -/
def Obligations.DistributorEvents : Prop := ∀ (s : State) (isl cls tail id core g : Nat),
  let i := islandAt s isl
  let head := i.heads.getD cls 0
  let old := i.tails.getD cls 0
  let size := 2 ^ islQueueLog i cls
  let ahead := (tail % 2 ^ 32 + 2 ^ 32 - head) % 2 ^ 32
  let used := (old + 2 ^ 32 - head) % 2 ^ 32
  let l := launchAt s id
  let n := blAtoll l.block
  (s.dev.pwrState = 0 → hasQueue i cls = true → used ≤ ahead → ahead ≤ size →
    exec (.launchDoorbellWrite isl cls tail) s = .next (putIsland s isl { i with tails := i.tails.set cls (tail % 2 ^ 32) })) ∧
  (s.dev.pwrState = 0 → hasQueue i cls = true → (ahead < used ∨ size < ahead) →
    exec (.launchDoorbellWrite isl cls tail) s = .next (placeEvent s isl { kind := 4, addr := 0x100000 + isl * 0x10000 + 8 * cls, aux := cls })) ∧
  (s.dev.pwrState = 0 → hasQueue i cls = true → head ≠ old → queueLaunch s isl cls = none →
    let pa := islQueueBase i cls + 128 * (head % size)
    lineWait s (pa / 128) = none →
    let r := recallLine s (pa / 128)
    let b := homeBytes r pa 128
    (isPoisoned r (pa / 128) = false → sealedFrom r isl pa = false → blockGood b cls (islPrivQ i) (onEveryDie i) = true →
      exec (.launchEntryRead isl cls) s = .next (putLaunch { r with nextId := r.nextId + 1 } r.nextId
        { island := isl, cls := cls, block := b, addr := pa, r0 := s.dev.cycle, running := !blRt b,
          bare := i.bare.contains (cls, head) })) ∧
    ((isPoisoned r (pa / 128) = true ∨ sealedFrom r isl pa = true ∨ blockGood b cls (islPrivQ i) (onEveryDie i) = false) →
      exec (.launchEntryRead isl cls) s = .next (moveHead (placeFault r isl { code := 0x24, addr := pa, block := pa }).1 isl cls))) ∧
  (tbGet? s.launches id = some l → blRt l.block = true → l.isNode = false → l.released < blRepeat l.block →
    l.r0 + l.released * blPeriod l.block ≤ s.dev.cycle →
    (l.running = true → exec (.realTimeRelease id) s = .next (putLaunch s id { l with merged := l.merged + 1, released := l.released + 1 })) ∧
    (l.running = false → exec (.realTimeRelease id) s = .next (putLaunch s id { l with
      running := true, inst := l.released, deadline := l.r0 + l.released * blPeriod l.block + blDeadline l.block, next := 0, resident := 0,
      finished := 0, merged := 0, late := false, fault := false, recorded := false, released := l.released + 1 }))) ∧
  (tbGet? s.launches id = some l → blRt l.block = true → l.isNode = false → l.running = true → l.late = false → l.deadline ≤ s.dev.cycle →
    exec (.deadlineMiss id) s = .next (placeEvent (putLaunch s id { l with late := true }) l.island { kind := 5, addr := l.addr, aux := l.inst })) ∧
  (tbGet? s.launches id = some l → launchWaits l = true → higherWaits s l.island l.cls = false → priorityWaits s l.island l.cls = false → deadlineWaits s id l = false →
    launchFits s l id core = true →
    ∃ t, exec (.groupResidency (.launch id) core) s = .next t ∧ (launchAt t id).next = l.next + n ∧ (launchAt t id).resident = l.resident + n ∧
      ∀ k, k < n → ∃ e gr, tbGet? t.groups e = some gr ∧ gr.launch = id ∧ gr.core = core + k ∧ gr.index = l.next + k ∧ gr.member = k ∧ gr.atoll = n ∧
        gr.gx = (l.next + k) % lbX l ∧ gr.gy = (l.next + k) / lbX l % lbY l ∧ gr.gz = (l.next + k) / (lbX l * lbY l)) ∧
  (∀ w b gr p, let v := newWave b gr id w p
    v.width = blWidth b ∧ v.num = p.num ∧ v.role = p.role ∧ v.quarter = gr.core * 4 + p.quarter ∧ v.win.rows = p.rows ∧
    sget v 1 = BitVec.ofNat 64 (blArg b) ∧ sget v 2 = BitVec.ofNat 64 (gr.x + gr.y * 2 ^ 21 + gr.z * 2 ^ 42) ∧
    sget v 3 = BitVec.ofNat 64 (p.num + p.role * 2 ^ 8) ∧ (∀ k, 5 ≤ k → sget v k = 0) ∧ v.regs.vec = [] ∧ v.regs.msk = [] ∧
    (getSplit v 0).valid = true ∧ (getSplit v 0).lanes = maskLow (blWidth b) ∧ (getSplit v 0).mode = 0 ∧
    (gr.recs = [] → (getSplit v 0).pc = p.entry) ∧ (∀ j, 0 < j → (getSplit v j).valid = false) ∧ v.evt.trapvec = blTrapvec b) ∧
  (∀ gr, tbGet? s.groups g = some gr → movable s g = true → moveFits s g core = true →
    ∃ t, exec (.atollGroupMove g core) s = .next t ∧ (groupAt t g).core = core ∧ (groupAt t g).launch = gr.launch ∧
      (groupAt t g).waves = gr.waves ∧ (groupAt t g).phases = gr.phases ∧
      ∀ k w, tbGet? s.waves k = some w → w.group = g → (waveAt t k).quarter = core * 4 + w.quarter % 4 ∧ (waveAt t k).regs = w.regs) ∧
  (∀ gr, tbGet? s.groups g = some gr → movable s g = false → mayMove s g = true → moveFits s g core = true →
    exec (.atollGroupMove g core) s = .next (putGroup s g { gr with moving := some core })) ∧
  (groupOver s g = false → exec (.groupEnd g) s = .next s) ∧
  ((tbGet? s.groups g).isSome = true → groupOver s g = true → ∃ t, exec (.groupEnd g) s = .next t ∧ tbGet? t.groups g = none)

/-- R398, R401, R408, R410, R411: imprecise events and the phases of a reclaim. That an event waits while any result of its
wave is outstanding (log 30), and the LANES of the record that ends the launch (log 17), are the model's choice. -/
def Obligations.RecoveryEvents : Prop := ∀ (s : State) (wv idx cl : Nat),
  let w := waveAt s wv
  let c := clusterAt s cl
  (∀ e, tbGet? s.waves wv = some w → w.evt.imprecise[idx]? = some e → qualifies w e = true → w.out = [] → e.split < 4 → w.ctl.splits.length = 4 →
    (getSplit w e.split).region.rollbacks + 1 ≠ 4 →
    let x := getSplit w e.split
    ∃ t, exec (.impreciseEvent wv idx) s = .next t ∧
      let z := getSplit (waveAt t wv) e.split
      z.pc = x.region.entry ∧ z.mode = x.region.snap.mode ∧ z.frame = x.region.snap.frame ∧ z.leftover = x.region.snap.leftover ∧
      z.retry = x.region.snap.retry ∧ z.lanes = x.lanes ∧ z.park.kind = .no ∧ z.region.isOpen = true ∧ z.region.snap = x.region.snap ∧
      z.region.rollbacks = x.region.rollbacks + 1 ∧ (waveAt t wv).batch = x.region.snap.batch ∧ (waveAt t wv).regs = w.regs ∧
      (∀ l, l < 128 → mbit x.region.snap.lanes l = true → spWf 0 w.ctl.counters = true →
        cntGet (waveAt t wv) l = spGet 0 x.region.snap.counters l)) ∧
  (∀ e, tbGet? s.waves wv = some w → w.evt.imprecise[idx]? = some e → qualifies w e = true → w.out ≠ [] →
    exec (.impreciseEvent wv idx) s = .next s) ∧
  (∀ e, tbGet? s.waves wv = some w → w.evt.imprecise[idx]? = some e → qualifies w e = false → e.kind = 0 →
    exec (.impreciseEvent wv idx) s = .next (faultEnd
      (onWave s wv fun w => { w with evt := { w.evt with imprecise := w.evt.imprecise.eraseIdx idx } }) w.group
      { code := e.code, who := whoWord w e.split, addr := e.addr, taddr := w.evt.taddr, pc := e.pc, lanes := w.evt.replay })) ∧
  (∀ e, (qualifies w e = true ↔ (getSplit w e.split).valid = true ∧ (getSplit w e.split).region.isOpen = true ∧
      (getSplit w e.split).region.opened ≤ e.opened ∧
      ∀ l, mbit e.lanes l = true → mbit w.ctl.exited l = false → mbit (getSplit w e.split).lanes l = true)) ∧
  (∀ b o, c.lent = some b → ownerOf s cl = some o → b ≠ o → c.reclaim = none → isOwed s o = true →
    exec (.clusterReclaim cl) s = .next (drainedCluster (putCluster s cl { c with reclaim := some { start := s.dev.cycle } }) cl)) ∧
  (∀ r, c.reclaim = some r → r.swap = none → r.start + (ownerIsland s cl).t1 ≤ s.dev.cycle →
    exec (.reclaimSwap cl) s = .next ((clusterCores cl).foldl haltCore (putCluster s cl
      { c with reclaim := some { r with swap := some s.dev.cycle } }))) ∧
  (∀ r k, c.reclaim = some r → r.swap = some k → k + (ownerIsland s cl).t2 ≤ s.dev.cycle → copiesLeft s cl = true →
    exec (.reclaimForcedReset cl) s = .next ((((clusterGroups s cl).map fun g => (groupAt s g).launch).eraseDups).foldl (forceEnd cl) s)) ∧
  (∀ r k, c.reclaim = some r → r.swap = some k → copiesLeft s cl = false → (∀ g ∈ clusterGroups s cl, rayBusy (groupAt s g) = false) →
    ∃ t, exec (.contextSave cl) s = .next t ∧ (clusterAt t cl).lent = none ∧ (clusterAt t cl).reclaim = none ∧
      ((clusterAt t cl).saved.isSome = !(clusterGroups s cl).isEmpty) ∧
      (∀ g gr, tbGet? t.groups g = some gr → gr.core / 8 = cl → gr.away = true) ∧
      (∀ q, 32 * cl ≤ q → q < 32 * cl + 32 → tbGet? t.quarters q = none) ∧
      (∀ k, k / 8 = cl → (coreAt t k).l1 = [] ∧ (coreAt t k).tlb = (coreAt s k).tlb ∧ (coreAt t k).spad = [] ∧ (coreAt t k).copies = [] ∧ (coreAt t k).pipe = []) ∧
      (∀ k, (waveAt t k).regs = (waveAt s k).regs)) ∧
  (∀ x, c.saved = some x → restoreDue s cl = true →
    let t := contextBack cl x s
    exec (.contextRestore cl) s = .next (if x.bad then (lostGroups t cl).foldl loseGroup t else t) ∧ (clusterAt t cl).saved = none ∧
      (clusterAt t cl).lent = (if c.lent.isSome then c.lent else some x.island) ∧
      (∀ g gr, tbGet? t.groups g = some gr → gr.core / 8 = cl → gr.away = false) ∧
      (∀ k, (waveAt t k).regs = (waveAt s k).regs)) ∧
  (∀ x, c.saved = some x → restoreDue s cl = false → exec (.contextRestore cl) s = .next s)

/-- R403, R412: an instruction that reads a register element with an uncorrectable error in an active lane goes on and leaves an imprecise event of
kind 13 with the quarter and the row of the register, and the lane then holds a free value (log 39); a write of the element and a result that
lands on it clear the error. A matrix command reads an accumulator entry with an error as a free value, and leaves its event with bit 31 set. -/
def Obligations.RegisterErrors : Prop := ∀ (y : Bool) (d a : VReg) (s : State) (wv sp lane row k q j : Nat) (w' : Wave) (v : Lane) (r : Result) (m : MatCmd) (hit : Nat → Bool),
  let w := waveAt s wv
  let x := getSplit w sp
  let n := rowOf w x.frame a.val
  let slot := accSlot (quarterAt s q) m.acc
  let t := readSlot s q m hit
  (tbGet? s.waves wv = some w → ready (putWave s wv { w with regs := { w.regs with bad := [] } }) wv sp (useVV d a) = true →
    mbit (actOf w sp) lane = true → lane < 128 → laneKey n lane ∈ w.regs.bad →
    ∃ t e, exec (.mov y d a) s = .next t ∧ e ∈ (waveAt t wv).evt.imprecise ∧ e.kind = 13 ∧ e.code = 0x12 ∧ e.split = sp ∧ e.pc = x.pc ∧
      e.lanes = actOf w sp ∧ e.aux2 = w.quarter % 4 * 2 ^ 13 + n ∧ (getSplit (waveAt t wv) sp).pc = (x.pc + 4) % 2 ^ 57) ∧
  (k ∈ (rowSet w' row lane v).regs.bad ↔ k ∈ w'.regs.bad ∧ k ≠ laneKey row lane) ∧
  (k ∈ (landResult r w').regs.bad ↔ k ∈ w'.regs.bad ∧ k ∉ r.keys) ∧
  ((∀ e ∈ slot.bad, hit e = false) → t = (s, slot)) ∧
  (∀ e, e ∈ t.2.bad ↔ e ∈ slot.bad ∧ hit e = false) ∧
  (j ∉ slot.bad → spWf 0 slot.entries = true → spGet 0 t.2.entries j = spGet 0 slot.entries j) ∧
  (tbGet? s.waves m.wave = some (waveAt s m.wave) → j ∈ slot.bad → hit j = true →
    ∃ e ∈ (waveAt t.1 m.wave).evt.imprecise, e.kind = 13 ∧ e.code = 0x12 ∧ e.split = m.split ∧ e.pc = m.pc ∧
      e.aux2 = 2 ^ 31 + q % 4 * 2 ^ 13 + m.acc * 2 ^ 11 + j)


/-- R353, R362, R406: verdicts on fault records, the head of the fault queue, and TLB invalidation. -/
def Obligations.VerdictAndInvalidationEvents : Prop := ∀ (s : State) (isl slot head va wv : Nat) (ok : Bool),
  let i := islandAt s isl
  let w := waveAt s wv
  let n := (head % 2 ^ 32 + 2 ^ 32 - i.fqHead) % 2 ^ 32
  let started (v : Nat) : State := { putIsland s isl { i with tlbinv := v } with free := s.free + 1 }
  let part (v : Nat) : State := dropTlb (fun t => invHits v isl t && Config.race s.free (t.va / 4096)) (started v)
  (slotIndex i slot = none → exec (.faultresResolved isl slot) s = .next s ∧ exec (.faultresUnresolvable isl slot) s = .next s) ∧
  (∀ k, slotIndex i slot = some k → exec (.faultresResolved isl slot) s = .next (applyVerdict isl k true s) ∧
    exec (.faultresUnresolvable isl slot) s = .next (applyVerdict isl k false s)) ∧
  (∀ k, slotIndex i slot = some k → ∃ j, j < fqUsed i ∧ k = (i.fqHead + j) % 2 ^ 32 ∧ k % 2 ^ islFqLog i = slot) ∧
  (∀ k, (∀ p ∈ i.pending, p.slot ≠ k) → applyVerdict isl k ok s = s) ∧
  (tbGet? s.waves wv = some w →
    let z := waveAt (waveVerdict true va s wv) wv
    z.ctl.wait = .no ∧ z.evt.refetch = none ∧ z.regs = w.regs ∧ z.ctl.splits = w.ctl.splits ∧
    (w.evt.refetch = none → z.evt.replay = w.evt.replay ∧ z.evt.replaying = decide (w.evt.replay ≠ 0)) ∧
    (∀ m, w.evt.refetch = some m → z.evt.replay = m ∧ z.evt.replaying = true)) ∧
  (fqUsed i < n → exec (.faultQueueHeadWrite isl head) s = .next s) ∧
  (n ≤ fqUsed i → let t := (List.range n).foldl (fun s k => applyVerdict isl ((i.fqHead + k) % 2 ^ 32) false s) s
    (islandAt t isl).fqWait = [] →
    exec (.faultQueueHeadWrite isl head) s = .next (putIsland t isl { islandAt t isl with fqHead := head % 2 ^ 32 })) ∧
  (s.dev.pwrState = 0 → isl < 8 → i.tlbinv % 2 = 0 →
    exec (.tlbinvPage isl va) s = .next (part (va / 2 ^ 12 % 2 ^ 45 * 4096 + 1)) ∧
    exec (.tlbinvNonglobal isl) s = .next (part 3) ∧ exec (.tlbinvAll isl) s = .next (part 5)) ∧
  (s.dev.pwrState = 0 → isl < 8 → i.tlbinv % 2 = 1 →
    exec (.tlbinvPage isl va) s = .next s ∧ exec (.tlbinvNonglobal isl) s = .next s ∧ exec (.tlbinvAll isl) s = .next s) ∧
  (∀ t : TlbEntry, (invHits 5 isl t = true ↔ t.island = isl) ∧ (invHits 3 isl t = true ↔ t.island = isl ∧ pteG t.attrs = false) ∧
    (invHits (va / 2 ^ 12 % 2 ^ 45 * 4096 + 1) isl t = true ↔ t.island = isl ∧ (va / 2 ^ 12 % 2 ^ 45 * 4096) / 2 ^ tlbPage t = t.va / 2 ^ tlbPage t)) ∧
  (i.tlbinv % 2 = 1 → (∀ c ∈ s.dev.commits, c.island ≠ isl) →
    ∃ t, exec (.tlbinvComplete isl) s = .next t ∧ (islandAt t isl).tlbinv = i.tlbinv - 1 ∧ t.dev = s.dev ∧ t.waves = s.waves ∧
      (∀ e ∈ t.cores, ∀ x ∈ e.2.tlb, invHits i.tlbinv isl x = false) ∧
      (∀ k x, x ∈ (coreAt s k).tlb → invHits i.tlbinv isl x = false → x ∈ (coreAt t k).tlb)) ∧
  (i.tlbinv % 2 = 0 ∨ (∃ c ∈ s.dev.commits, c.island = isl) → exec (.tlbinvComplete isl) s = .next s)

/-- R361, R404, R407, R413, R417 to R423: accesses of the host and of peers, the registers of BAR0, and the security engine, of a device that
runs. That a HEAD beyond TAIL is ignored (log 12), and that a mailbox OP that is not listed is refused (log 23), is the model's choice. -/
def Obligations.HostEvents : Prop := ∀ (s : State) (isl addr v link line nonce : Nat) (bytes : List Nat) (acc : OutsideAccess),
  let i := islandAt s isl
  let new : Island := { i with entry := tableEntry i.entry bytes }
  let status (n : Nat) (t : State) : State := { t with dev := { t.dev with mailbox := n, mailCmd := none } }
  let answers (b : List Nat) (t : State) : State := { t with dev := { t.dev with reply := b, replyBad := [] } }
  let lines (pa : Nat) := spanLines pa (accessSize acc)
  let alone : Prop := ∀ e ∈ s.islands, e.1 ≠ isl → islSealed e.2 = true → islKeySlot e.2 ≠ islKeySlot i
  let quiet : State := { s with dev := { s.dev with reply := [], replyBad := [] } }
  s.dev.pwrState = 0 → isl < 8 →
    (launchInFlight s isl = false → islSealed new = islSealed i → entryClash s isl new = false →
      (islSealed i = false ∨ (islCarve i = islCarve new ∧ islKeySlot i = islKeySlot new) →
        exec (.islandTableWrite isl bytes) s = .next (putIsland s isl new)) ∧
      (islSealed i = true → (islCarve i ≠ islCarve new ∨ islKeySlot i ≠ islKeySlot new) →
        exec (.islandTableWrite isl bytes) s = .next (changeKey new (changeKey i (putIsland s isl new))))) ∧
    (launchInFlight s isl = false → islSealed new = islSealed i → entryClash s isl new = true → exec (.islandTableWrite isl bytes) s = .next s) ∧
    ((launchInFlight s isl = true ∨ islSealed new ≠ islSealed i) → exec (.islandTableWrite isl bytes) s =
      .next (placeEvent s isl { kind := 4, addr := 0x10000 + 128 * isl, aux := islClass i })) ∧
    exec (.esctWrite isl v) s = .next (putIsland s isl { i with t1 := v % 2 ^ 32, t2 := v / 2 ^ 32 % 2 ^ 32 }) ∧
    (i.q4 = [] → i.q4wait = [] → ∃ t, exec (.evqWindowRead isl) s = .next t ∧ t.dev.reply = List.replicate 32 0 ∧ (islandAt t isl).q4 = []) ∧
    (∀ r rest, i.q4 = r :: rest → ∃ t, exec (.evqWindowRead isl) s = .next t ∧ t.dev.reply = (evWords isl r).flatMap (leBytes 4) ∧
      (islandAt t isl).q4 = rest ++ (i.q4wait.take (256 - rest.length)).map (fun r => { r with clock := s.dev.cycle % 2 ^ 32 }) ∧ t.dev.mem = s.dev.mem) ∧
    (v % 4 ≠ 3 → exec (.registerWrite 0 v) s = .next { s with dev := { s.dev with pwrReq := v % 4 } }) ∧
    exec (.registerWrite 0x300000 v) s = .next { s with dev := { s.dev with frozen := decide (v % 2 = 1) } } ∧
    (addr < 0x80000 → spWf 0 s.dev.retention = true → ∃ t, exec (.registerWrite (0x400000 + 8 * addr) v) s = .next t ∧
      readBar t (0x400000 + 8 * addr) = some (v % 2 ^ 64) ∧ (∀ k, k / 8 ≠ addr → retByte t k = retByte s k) ∧
      t = { s with dev := { s.dev with retention := t.dev.retention } }) ∧
    (s.dev.mailbox = 2 → exec (.registerWrite 0x200000 v) s = .next s) ∧
    (s.dev.mailbox ≠ 2 → (v % 256 = 0 ∨ 4 < v % 256) → exec (.registerWrite 0x200000 v) s = .next (status 1 s)) ∧
    (s.dev.mailbox ≠ 2 → v % 256 ∈ [1, 2, 3, 4] → exec (.registerWrite 0x200000 v) s =
      .next { s with dev := { s.dev with mailbox := 2, mailCmd := some (v % 256, v / 2 ^ 8 % 8) } }) ∧
    readBar s 0x200000 = some s.dev.mailbox ∧ readBar s 0x300000 = some (if s.dev.frozen then 1 else 0) ∧
    readBar s (0x100000 + isl * 0x10000 + 0x20) = some i.fqHead ∧ readBar s (0x100000 + isl * 0x10000 + 0x28) = some i.fqTail ∧
    readBar s (0x100000 + isl * 0x10000 + 0x40) = some (i.t1 + i.t2 * 2 ^ 32) ∧
    (∀ k, k < 3 → readBar s (0x100000 + isl * 0x10000 + 8 * k) = some (i.tails.getD k 0)) ∧
    (addr % 8 ≠ 0 ∨ (8 ≤ addr ∧ addr < 0x10000) ∨ (0x10400 ≤ addr ∧ addr < 0x100000) ∨ 0x800000 ≤ addr → readBar s addr = some 0) ∧
    (addr % 8 ≠ 0 → exec (.registerWrite addr v) s = .next s) ∧
    (launchInFlight s isl = true → exec (.seal isl) s = .next (status 1 s) ∧ exec (.unseal isl) s = .next (status 1 s)) ∧
    (launchInFlight s isl = false →
      (∃ t, exec (.seal isl) s = .next t ∧ t.dev.log = s.dev.log ++ [[1, isl]] ∧ t.dev.mailbox = 0 ∧ (islandAt t isl).keyGen = some s.nextId ∧
        t.dev.mem = s.dev.mem ∧ (islandAt t isl).entry = recPut i.entry 4 4 (recGet i.entry 4 4 - b2n (islSealed i) * 4 + 4) ∧ t.waves = s.waves ∧
        (∀ pa, inCarve i pa = true → alone → homeByte t pa = Config.keyByte s.nextId pa (rawLine s.dev.mem (pa / 128))) ∧
        (∀ pa, inCarve i pa = false → alone → homeByte t pa = homeByte s pa)) ∧
      (∃ t, exec (.unseal isl) s = .next t ∧ t.dev.log = s.dev.log ++ [[2, isl]] ∧ t.dev.mailbox = 0 ∧ (islandAt t isl).keyGen = none ∧
        t.dev.mem = s.dev.mem.filter (fun e => !inCarve i e.1) ∧ t.waves = s.waves ∧
        (∀ pa, inCarve i pa = false → alone → homeByte t pa = homeByte s pa))) ∧
    exec (.quote isl nonce) s = .next (answers (Config.sign (leBytes 64 nonce ++ logDigest s.dev.log ++ i.entry)) (status 0 s)) ∧
    exec .cert s = .next (answers Config.certificate (status 0 s)) ∧
    (addr + accessSize acc ≤ 2 ^ 38 → (∃ l ∈ lines addr, lineWait s l ≠ none) →
      exec (.hostCxlMemAccess addr acc) s = .next s ∧ exec (.peerDeviceAccess addr acc) s = .next s) ∧
    (0 < accessSize acc → addr % 128 + accessSize acc ≤ 128 → lineWait s (addr / 128) = none → addr + accessSize acc ≤ 2 ^ 38 →
      (sealedLine s (addr / 128) = false →
        exec (.hostCxlMemAccess addr acc) s = .next (performOutside quiet addr acc) ∧
        exec (.peerDeviceAccess addr acc) s = .next (performOutside quiet addr acc)) ∧
      (sealedLine s (addr / 128) = true → ∃ t, exec (.hostCxlMemAccess addr acc) s = .next t ∧ exec (.peerDeviceAccess addr acc) s = .next t ∧
        t.dev.mem = s.dev.mem ∧ t.waves = s.waves ∧ t.cores = s.cores ∧ t.clusters = s.clusters ∧
        (∀ n, acc = .read n → t.dev.replyBad = [addr / 128] ∧ t.dev.reply.length = n))) ∧
    (0 < accessSize acc → addr % 128 + accessSize acc ≤ 128 → addr + accessSize acc ≤ 2 ^ 48 →
      lineWait s ((2 ^ 51 + addr) / 128) = none → sealedLine s ((2 ^ 51 + addr) / 128) = false →
      exec (.hostSnoop addr acc) s = .next (performOutside quiet (2 ^ 51 + addr) acc)) ∧
    (∀ n, acc = .read n → (∀ l ∈ lines addr, isPoisoned s l = false) →
      (performOutside s addr acc).dev.reply = homeBytes ((lines addr).foldl recallLine { s with free := s.free + 1 }) addr n ∧
      (performOutside s addr acc).dev.replyBad = []) ∧
    (acc = .write bytes → ∃ t, performOutside s addr acc = t ∧
      t.dev.mem = (homeWrite ((lines addr).foldl recallLine { s with free := s.free + 1 }) addr bytes).dev.mem) ∧
    exec (.flitRetry link) s = .next s ∧
    (∃ t, exec (.linkDownPoison line) s = .next t ∧ isPoisoned t line = true ∧ t.dev.mem = s.dev.mem ∧ ∀ k, (waveAt t k).regs = (waveAt s k).regs)

/-- R386, R414 to R416, R424 to R426: power states, boot, the debug freeze and what the debug port reads. That three modules train as
two, and none gives ERR 2 (log 34), what lost memory reads as (log 3), and when the device is idle (log 32) is the model's choice. -/
def Obligations.PowerAndDebugEvents : Prop := ∀ (s : State) (side good : Bool) (mods : Nat),
  let d := s.dev
  let cold (d : Device) : State := { State.reset with
    dev := { d with mem := s.dev.mem.filter (fun e => decide (2 ^ 51 ≤ e.1)), veils := [{ base := 0, size := 2 ^ 51, key := s.nextId }] },
    agenda := s.agenda, free := s.free, nextId := s.nextId + 1 }
  let trained : Nat := if 4 ≤ mods then 4 else if mods = 3 then 2 else mods
  let up (cycle : Nat) : State := cold
    { cycle := cycle, bootCycle := cycle, retention := d.retention, retKey := d.retKey, pwrMods := trained, pwrErr := if mods = 0 then 2 else 0 }
  let failed (cycle : Nat) : State := cold
    { cycle := cycle, retention := d.retention, retKey := d.retKey, pwrState := 2, pwrMods := d.pwrMods, pwrErr := 1 }
  let word : Nat := d.pwrReq % 4 + d.pwrState % 4 * 2 ^ 8 + d.pwrMods % 16 * 2 ^ 16 + d.pwrErr % 16 * 2 ^ 20
  let hears : Prop := d.pwrState ≤ 1 ∨ (d.pwrState = 2 ∧ side = true)
  (hears → exec (.pwrctlReqRun side) s = .next { s with dev := { d with pwrReq := 0 } } ∧
    exec (.pwrctlReqDoze side) s = .next { s with dev := { d with pwrReq := 1 } } ∧
    exec (.pwrctlReqWatch side) s = .next { s with dev := { d with pwrReq := 2 } }) ∧
  (d.pwrState = 2 → side = false → exec (.pwrctlReqRun side) s = .next s ∧ exec (.pwrctlReqDoze side) s = .next s ∧
    exec (.pwrctlReqWatch side) s = .next s) ∧
  (d.pwrState = 0 → d.pwrReq ≠ 0 → deviceIdle s = true → ∃ t, exec .dozeEntry s = .next t ∧ t.dev.pwrState = 1 ∧ t.dev.pwrReq = d.pwrReq ∧
    t.dev.cycle = d.cycle ∧ t.islands = s.islands ∧ t.dev.retention = d.retention) ∧
  (d.pwrReq = 0 → exec .dozeEntry s = .next s) ∧
  (d.pwrState = 1 → d.pwrReq = 0 → exec .dozeWake s = .next { s with dev := { d with pwrState := 0 } }) ∧
  (d.pwrState = 1 → d.pwrReq = 2 → exec .watchEntry s = .next (cold
    { cycle := d.cycle, retention := d.retention, retKey := d.retKey, pwrReq := 2, pwrState := 2, pwrMods := d.pwrMods, pwrErr := d.pwrErr })) ∧
  (d.pwrState = 2 → d.pwrReq = 0 → exec (.watchWake true mods) s = .next (up d.cycle) ∧
    exec (.watchWake false mods) s = .next (failed d.cycle)) ∧
  (d.pwrState = 3 → exec (.powerOnBoot true mods) s = .next (up 0) ∧ exec (.powerOnBoot false mods) s = .next (failed 0)) ∧
  (d.pwrState ≠ 3 → exec (.powerOnBoot good mods) s = .next s) ∧
  exec .powerRemoval s = .next { cold { pwrState := 3, retKey := s.free + 1 } with free := s.free + 1 } ∧
  (d.pwrState ≤ 1 → readBar s 0 = some word) ∧ (2 ≤ d.pwrState → ∀ a, readBar s a = none) ∧
  (d.pwrState ≠ 3 → readSideband s 0 = some word ∧ ∀ k, k < 0x80000 → readSideband s (0x400000 + 8 * k) = some (readRetention s (8 * k))) ∧
  (d.pwrState = 3 → ∀ a, readSideband s a = none) ∧
  (d.frozen = false → readOut s = []) ∧
  (∀ pa, (∀ e ∈ s.islands, islSealed e.2 = true → inCarve e.2 pa = false) → debugByte s pa = (homeByte s pa).toNat) ∧
  (d.pwrState ≤ 1 → exec .debugFreeze s = .next { s with dev := { d with frozen := true } } ∧
    exec .freezePin s = .next { s with dev := { d with frozen := true } }) ∧
  exec .debugUnfreeze s = .next { s with dev := { d with frozen := false } }

/-- R18 to R20, R173, R386, R404, R407, R425: what reset leaves. Nothing is resident, nothing is queued, memory lists nothing (log 3), the device runs
unfrozen (log 4), the agenda is empty and no wave issues (log 1), and each
register that the spec gives a reset value has it. -/
def Obligations.ResetState : Prop :=  let s := State.reset
  Memory.wf s.dev.mem = true ∧ formed s ∧ s.waves = [] ∧ s.groups = [] ∧ s.launches = [] ∧ s.agenda = [] ∧ s.cur = none ∧ s.dev.cycle = 0 ∧
  s.dev.poison = [] ∧ s.dev.commits = [] ∧ s.dev.pwrState = 0 ∧ s.dev.pwrReq = 0 ∧ s.dev.pwrErr = 0 ∧ s.dev.frozen = false ∧ s.dev.corrected = 0 ∧
  (∀ k, (clusterAt s k).ways = 0x0000004000000000 ∧ (clusterAt s k).lines = [] ∧ (clusterAt s k).fifo = []) ∧
  (∀ k, let i := islandAt s k
    i.t1 = 4600 ∧ i.t2 = 2300 ∧ i.repstall = 4600 ∧ i.lost = 0 ∧ i.heads = [0, 0, 0] ∧ i.tails = [0, 0, 0] ∧ i.fqHead = 0 ∧ i.fqTail = 0 ∧
    i.q4 = [] ∧ i.tlbinv = 0 ∧ islValid i = false) ∧
  (∀ k, let c := coreAt s k
    c.recons = 0 ∧ c.survivors = 0 ∧ c.skipped = 0 ∧ c.apart = 0 ∧ c.stalls = [] ∧ c.conflicts = 0 ∧ c.spad = [] ∧ c.l1 = [] ∧ c.tlb = [])

/-- R24, R42, R53, R351, R414: a step of a running device with nothing else due fetches the word at the pc of the split whose turn it is; the word is
decoded and executed, and the slot's issue is counted. A word that is no instruction takes the illegal-instruction trap. -/
def Obligations.StepRunsDecodedInstruction : Prop := ∀ (s t : State) (k wv sp word : Nat) (q : Quarter) (i : Instr),
  s.dev.frozen = false → quietDue s = none → s.agenda = [] → s.dev.mailCmd = none → s.dev.pwrState = 0 → dozeDue s = false → deviceDue s = none → s.quarters[s.turn]? = some (k, q) →
  quarterDue s k = none → stuckWave s k = none → grantee s k (s.dev.cycle % 8) = none →
  issuer s (quarterAt s k) (s.dev.cycle % 8) = some wv → chooseSplit (waveAt s wv) = some sp →
  fetchWord { s with turn := s.turn + 1 } (askerOf s wv) (getSplit (waveAt s wv) sp).pc = (t, .word word) →
  (decodeBytes (wordBytes word) = .ok (i, []) → step s = onNext (endIssue wv (waveAt s wv)) (exec i (beginIssue t wv sp (passCount t wv word)))) ∧
  (isLegalWord word = false → word < 2 ^ 32 → step s = onNext (endIssue wv (waveAt s wv)) (exec (.illegalInstruction word) (beginIssue t wv sp 1))) ∧
  (beginIssue t wv sp (passCount t wv word)).cur = some (wv, sp)

/-- R386, R414, R426: the order of a step: a frozen device takes only moves that unfreeze, remove power or come over the sideband; a graph that turns
quiet is noticed at once, then a listed move of another agent comes, then a command in the mailbox, and a clock ends after its last quarter. -/
def Obligations.StepOrder : Prop := ∀ (s : State) (i : Instr) (rest : List Instr),
  (s.dev.frozen = true → (∀ x ∈ s.agenda, actsFrozen x = false) → step s = .next s) ∧
  (s.dev.frozen = true → s.agenda = i :: rest → actsFrozen i = true → step s = exec i { s with agenda := rest }) ∧
  (∀ x, actsFrozen x = true ↔ x ∈ [.debugFreeze, .debugUnfreeze, .freezePin, .powerRemoval, .pwrctlReqRun true, .pwrctlReqDoze true, .pwrctlReqWatch true] ∨
    ∃ addr v, 2 ^ 26 ≤ addr ∧ x = .registerWrite addr v) ∧
  (s.dev.frozen = false → ∀ isl, quietDue s = some isl → step s = .next (graphSweep s isl)) ∧
  (s.dev.frozen = false → quietDue s = none → s.agenda = i :: rest → encode i = none → step s = exec i { s with agenda := rest }) ∧
  (s.dev.frozen = false → quietDue s = none → s.agenda = i :: rest → encode i ≠ none → step s = .refused .notAnEvent) ∧
  (s.dev.frozen = false → quietDue s = none → s.agenda = [] → ∀ op isl, s.dev.mailCmd = some (op, isl) → s.dev.pwrState = 0 → isl < 8 →
    (op = 1 → step s = exec (.seal isl) s) ∧ (op = 2 → step s = exec (.unseal isl) s) ∧
    (op = 3 → ∃ nonce, step s = exec (.quote isl nonce) s) ∧ (op = 4 → step s = exec .cert s)) ∧
  (s.dev.frozen = false → quietDue s = none → s.agenda = [] → s.dev.mailCmd = none → s.dev.pwrState = 1 → s.dev.pwrReq = 1 →
    step s = .next (endClock s)) ∧
  (s.dev.frozen = false → quietDue s = none → s.agenda = [] → s.dev.mailCmd = none → 2 ≤ s.dev.pwrState → step s = .next s) ∧
  (s.dev.frozen = false → quietDue s = none → s.agenda = [] → s.dev.mailCmd = none → s.dev.pwrState = 0 → dozeDue s = false → deviceDue s = none →
    s.quarters.length ≤ s.turn → step s = .next (endClock s)) ∧
  ((endClock s).dev = { s.dev with cycle := (s.dev.cycle + 1) % 2 ^ 64, corrected := correctedNow s } ∧ (endClock s).turn = 0 ∧
    (endClock s).islands = s.islands ∧
    ∀ k w, tbGet? s.waves k = some w → (waveAt (endClock s) k).regs = w.regs ∧
      (waveAt (endClock s) k).tim.wtime = if (groupAt s w.group).away then w.tim.wtime else (w.tim.wtime + 1) % 2 ^ 64)

/-- R53, R97, R367: what issue checks before the effect of an instruction, in this order, whatever the instruction (`u` is what it reads and writes,
and how it issues). -/
def Obligations.IssueChecks : Prop := ∀ (s : State) (wv sp : Nat) (y : Bool) (u : Usage) (body : Ctx → State → State × Eff) (word : Nat),
  let w := waveAt s wv
  let x := getSplit w sp
  let trapped (code : Nat) : State := settleSlots (takeTrap s wv { split := sp, code := code, tpc := x.pc }) wv
  let inside : Bool := decide (∀ r ∈ winRegs (u.vr ++ u.vw), r < x.frame.nin + x.frame.nloc + x.frame.nout)
  s.cur = some (wv, sp) →
  (u.legal = false → issue s y u body = .next (trapped 0x01)) ∧
  (u.legal = true → u.priv = true → privileged s w = false → issue s y u body = .next (trapped 0x02)) ∧
  (u.legal = true → (u.priv = true → privileged s w = true) → inside = false → issue s y u body = .next (trapped 0x05)) ∧
  (u.legal = true → (u.priv = true → privileged s w = true) → inside = true → actOf w sp = 0 → u.skipExec = false → tbGet? s.waves wv = some w →
    issue s y u body = .next (settleSlots (putWave s wv (putSplit w sp { unparked x with pc := (x.pc + 4) % 2 ^ 57 })) wv)) ∧
  (u.legal = true → (u.priv = true → privileged s w = true) → inside = true → (actOf w sp ≠ 0 ∨ u.skipExec = true) → w.regs.strict = true →
    (u.feed = true → holdsSlots s w = true) → w.evt.replaying = false →
    (∃ r ∈ w.out, (∃ k ∈ heldRows w x.frame (usedRuns u (u.vr ++ u.vw)) ++ u.copied, k ∈ r.rows) ∨ (∃ k ∈ u.sr ++ u.sw, k ≠ 0 ∧ k ∈ r.scalars)) →
    issue s y u body = .next (trapped 0x0B)) ∧
  (isLegalWord word = false → exec (.illegalInstruction word) s = .next (settleSlots (takeTrap s wv { split := sp, code := 0x01, tpc := x.pc }) wv)) ∧
  (isLegalWord word = true → exec (.illegalInstruction word) s = .next s)

/-- R1, R90, R125: the frame of the instructions that write registers only, which are those that the other statements give as `ends` or `jumps`: for
any effect `f` on the wave, no byte of any memory changes, read from home, through any core's caches or from any scratchpad, no other wave changes,
and of the issuing wave nothing but what `f` changes, save the pc and the park record of the split and, where the instruction closes it, its
region.
R95: what follows the effect of an instruction that is over: its split goes on at PC + 4 with everything else as the effect left it; with S set
and results outstanding, the wave then waits for all of them and leaves its slots. -/
def Obligations.RegisterFormFrame : Prop :=
  (∀ (s : State) (wv sp pc : Nat) (u : Usage) (f : Wave → Wave) (core isl a n : Nat),
    let w := waveAt s wv
    let z := f (openIssue w sp u.closes)
    let frame (t : State) (pc : Nat) : Prop :=
      t.dev = s.dev ∧ homeByte t a = homeByte s a ∧ viewByte t core isl a = viewByte s core isl a ∧ spadNat t core a n = spadNat s core a n ∧
      t.quarters = s.quarters ∧ t.islands = s.islands ∧ t.groups = s.groups ∧ t.launches = s.launches ∧
      (∀ k, k ≠ wv → waveAt t k = waveAt s k) ∧
      (waveAt t wv).regs = z.regs ∧ (waveAt t wv).win = z.win ∧ (waveAt t wv).evt = z.evt ∧ (waveAt t wv).tim = z.tim ∧
      (waveAt t wv).out = z.out ∧ (waveAt t wv).batch = z.batch ∧ (waveAt t wv).layout = z.layout ∧
      (waveAt t wv).ctl.counters = z.ctl.counters ∧ (waveAt t wv).ctl.exited = z.ctl.exited ∧ (waveAt t wv).ctl.helpers = z.ctl.helpers ∧
      (∀ i, i ≠ sp → getSplit (waveAt t wv) i = getSplit z i) ∧
      (sp < z.ctl.splits.length → getSplit (waveAt t wv) sp = { unparked (getSplit z sp) with pc := pc })
    frame (ends s wv sp u f) (((getSplit z sp).pc + 4) % 2 ^ 57) ∧ frame (jumps s wv sp u f pc) pc ∧
    (openIssue w sp u.closes).regs = w.regs ∧ (openIssue w sp u.closes).win = w.win ∧ (openIssue w sp u.closes).evt = w.evt ∧
    (openIssue w sp u.closes).tim = w.tim ∧ (openIssue w sp u.closes).out = w.out ∧ (openIssue w sp u.closes).ctl.counters = w.ctl.counters ∧
    (∀ i, i ≠ sp → getSplit (openIssue w sp u.closes) i = getSplit w i) ∧
    (sp < w.ctl.splits.length → getSplit (openIssue w sp u.closes) sp = if u.closes then closeRegion (getSplit w sp) else getSplit w sp)) ∧
  (∀ (t : State) (wv sp : Nat) (y coll : Bool),
    sp < 4 → steady t wv sp = true → (coll = true → liveSplits (waveAt t wv) = [sp]) →
    let n := finish t wv sp y coll .done
    let w := waveAt t wv
    let v := waveAt n wv
    (getSplit v sp).pc = ((getSplit w sp).pc + 4) % 2 ^ 57 ∧ (getSplit v sp).mode = (getSplit w sp).mode ∧ (getSplit v sp).lanes = (getSplit w sp).lanes ∧
    (∀ i, i ≠ sp → getSplit v i = getSplit w i) ∧ v.regs = w.regs ∧ v.win = w.win ∧ v.evt = w.evt ∧ v.out = w.out ∧ v.ctl.counters = w.ctl.counters ∧
    (∀ k, k ≠ wv → waveAt n k = waveAt t k) ∧
    n.dev = t.dev ∧ n.cores = t.cores ∧ n.clusters = t.clusters ∧ n.islands = t.islands ∧ n.groups = t.groups ∧ n.launches = t.launches ∧
    v.ctl.wait = (if y = true ∧ w.out ≠ [] then .marker else .no) ∧
    ((y = false ∨ w.out = []) → n = stepped t wv sp) ∧
    (y = true → w.out ≠ [] → ∀ h, holdOf (quarterAt t w.quarter) wv = some h → h.pin = false → holdOf (quarterAt n w.quarter) wv = none))

/-- R82, R84, R85: the registers of a wave read back as they were written, lane by lane, and a write leaves every other register and lane alone; s0
reads zero and discards writes. -/
def Obligations.RegistersReadBack : Prop := ∀ (w : Wave) (row row' lane r r' n k n' k' : Nat) (m : Mask) (f : Nat → Lane) (x : Scalar) (p : Mask) (v : Nat),
  (spWf 0 w.regs.vec = true → w.width ≤ 128 → lane < 128 →
    rowGet (writeRow w row m f) row' lane = if row' = row ∧ mbit m lane = true ∧ lane < w.width then f lane else rowGet w row' lane) ∧
  (spWf 0 w.regs.sca = true → sget (sset w r x) r' = if r' = r ∧ r ≠ 0 then x else sget w r') ∧ sget w 0 = 0 ∧ sset w 0 x = w ∧
  (spWf 0 w.regs.msk = true → mget (mset w r p) r' = if r' = r then p else mget w r') ∧
  (spWf 0 w.regs.th = true → 1 ≤ k → k ≤ 5 → 1 ≤ k' → k' ≤ 5 → thGet (thSet w n k v) n' k' = if n' = n ∧ k' = k then v else thGet w n' k')

/-- R402, R404, R405, R418: where an event record and a fault record go. -/
def Obligations.EventAndFaultRecords : Prop := ∀ (s : State) (isl n : Nat) (r : EvRec) (b : List Nat),
  let i := islandAt s isl
  let stamped : EvRec := { r with clock := s.dev.cycle % 2 ^ 32 }
  let t := placeEvent s isl r
  let p := putFaultSlot s isl b
  let slot := i.fqTail % 2 ^ islFqLog i
  (i.q4.length < 256 → i.q4wait = [] → (islandAt t isl).q4 = i.q4 ++ [stamped] ∧ (islandAt t isl).lost = i.lost ∧
    t.dev.msix = if i.q4 = [] ∧ i.evqint / 2 ^ 15 % 2 = 1 then s.dev.msix ++ [i.evqint % 2 ^ 11] else s.dev.msix) ∧
  ((256 ≤ i.q4.length ∨ i.q4wait ≠ []) → r.kind ∈ [1, 9, 11, 12] → t = putIsland s isl { i with q4wait := i.q4wait ++ [stamped] }) ∧
  ((256 ≤ i.q4.length ∨ i.q4wait ≠ []) → r.kind ∉ [1, 9, 11, 12] → t = putIsland s isl { i with lost := (i.lost + 1) % 2 ^ 64 }) ∧
  (i.q4.length ≤ 256 → (islandAt t isl).q4.length ≤ 256) ∧
  ((islandAt (popEvents s isl n) isl).q4 ++ (islandAt (popEvents s isl n) isl).q4wait =
    i.q4.drop n ++ (i.q4wait.take (256 - (i.q4.drop n).length)).map (fun r => { r with clock := s.dev.cycle % 2 ^ 32 }) ++
      i.q4wait.drop (256 - (i.q4.drop n).length)) ∧
  (i.fqWait = [] → fqUsed i < 2 ^ islFqLog i → i.fqTail < 2 ^ 32 → Memory.wf s.dev.mem = true → (∀ v ∈ b, v < 256) →
    p.2 = i.fqTail ∧ (islandAt p.1 isl).fqTail = (i.fqTail + 1) % 2 ^ 32 ∧ homeBytes p.1 (islFqBase i + 1024 * slot) b.length = b) ∧
  (i.fqWait ≠ [] ∨ 2 ^ islFqLog i ≤ fqUsed i → p.1 = putIsland s isl { i with fqWait := i.fqWait ++ [b] }) ∧
  (∀ seq f, (faultBytes s isl seq f).length = 1024)

/-- R42, R43, R45, R49, R50: words written out field by field from the encoding tables decode to the instructions that they stand for; a reserved
opcode, a field that must be zero and is not, and a run that passes g31 decode to nothing. -/
def Obligations.SampleDecodings : Prop :=  let word (w : Nat) : Option Instr := decodeTableWord 32 w
  word 0b0_00000001_0100000_0100001_0100010_00 = some (.iadd false 32 33 (.vec 34)) ∧
  word 0b1_00000001_0100000_0100001_0000101_01 = some (.iadd true 32 33 (.sca 5)) ∧
  word 0b0_00011100_0000001_0000010_111111101 = some (.iaddi false 1 2 (-3)) ∧
  word 0b0_00011010_0000011_1000000000000001 = some (.movi false 3 0x8001) ∧
  word 0b0_10001001_0000010_1111111111111110 = some (.brany false 2 (-2)) ∧
  word 0b0_10000111_11111111111111111111111 = some (.jmp false (-1)) ∧
  word 0b0_10010011_0000000_00011_000101_00111 = some (.frame false 7 5 3) ∧
  word 0b0_10100000_0100100_0100101_000110_100 = some (.ld false 36 37 6 4) ∧
  word 0b0_10100110_0000100_0000101_000110_11_1 = some (.atom false 4 5 6 3 true) ∧
  word 0b0_11000000_0000010_0000000_0010000_00 = some (.mma false 2 0 16) ∧
  word 0b0_11001100_0000001_0000010_000011_101 = some (.cpym false 1 2 3 5) ∧
  word 0b0_01110101_0000100_000000100000_0000 = some (.cwrd false 4 0x020) ∧
  word 0b0_10001101_00000000000000000000000 = some (.exit false) ∧
  word 0 = none ∧ word 0b0_11111111_00000000000000000000000 = none ∧ word 0b0_10001101_00000000000000000000001 = none ∧
  word 0b0_11000000_0000010_0010001_0010000_00 = none

/-- R42 to R53: encoding a well-formed instruction and decoding the word gives the instruction back, with every operand at every value that the
encoding admits. -/
def Obligations.DecodeOfEncode : Prop := ∀ (i : Instr) (w : Nat), encode i = some w → wellFormed i = true →
  w < 2 ^ 32 ∧ decodeBytes (wordBytes w) = .ok (i, [])

/-- R48, R49, R53: a word that decodes is exactly the encoding of the instruction it decodes to, so no bit of it is ignored, and the instruction is
well formed. -/
def Obligations.EncodeOfDecode : Prop := ∀ (i : Instr) (w : Nat), w < 2 ^ 32 → decodeBytes (wordBytes w) = .ok (i, []) →
  encode i = some w ∧ wellFormed i = true

/-- R202, R207, R209, R419, R422: every step keeps memory in its canonical form, so that equal memories are equal data. -/
def Obligations.StepKeepsMemoryForm : Prop := ∀ (s t : State), Memory.wf s.dev.mem = true → step s = .next t → Memory.wf t.dev.mem = true

/-- R82 to R85, R363, R381, R404: every step keeps the forms that the other statements assume: the registers, masks, threshold levels and
nesting counters of every wave and every scratchpad stay in canonical form, a wave has four split entries, q4 holds at most 256 records and a
group has 16 phases. -/
def Obligations.StepKeepsForms : Prop :=
 ∀ (s t : State), formed s → step s = .next t → formed t

/-- No program stops the machine: from every state whose agenda does not begin with an instruction's word, a step leaves a next state. The two
stops are the model's own (logs 1 and 8). -/
def Obligations.StepAlwaysGoesOn : Prop := ∀ (s : State),
  (s.dev.frozen = false → ∀ i rest, s.agenda = i :: rest → encode i = none ∧ ((∃ w, i = .illegalInstruction w) → s.cur.isSome = true)) → SafeStep s
end

