-- ==== Sys2Proof/Laws/Encoding.lean ====
section
/-!
SUPPORT. The fields of an encoded word read back (R43, R49, R50): for each field shape, the opcode of its word and the instruction that its
field decoder makes of it.
-/
set_option linter.unusedSimpArgs false

namespace Sys2Proof.Laws

theorem vecAt_of {w lo : Nat} {r : VReg} (h : w / 2 ^ lo % 128 = r.val) : vecAt w lo = r := Fin.ext (by simpa [vecAt] using h)
theorem scaAt_of {w lo : Nat} {r : SReg} (h : w / 2 ^ lo % 64 = r.val) : scaAt w lo = r := Fin.ext (by simpa [scaAt] using h)
theorem eightAt_of {w lo : Nat} {r : Fin 8} (h : w / 2 ^ lo % 8 = r.val) : eightAt w lo = r := Fin.ext (by simpa [eightAt] using h)
theorem fourAt_of {w lo : Nat} {r : Fin 4} (h : w / 2 ^ lo % 4 = r.val) : fourAt w lo = r := Fin.ext (by simpa [fourAt] using h)
theorem fin_of {n x : Nat} [NeZero n] {r : Fin n} (h : x % n = r.val) : Fin.ofNat n x = r := Fin.ext (by simpa using h)
theorem bits_of {n x : Nat} {r : BitVec n} (h : x % 2 ^ n = r.toNat) : BitVec.ofNat n x = r := BitVec.eq_of_toNat_eq (by simpa using h)
theorem bit_of {w lo : Nat} {b : Bool} (h : w / 2 ^ lo % 2 = b.toNat) : bitAt w lo = b := by
  cases b <;> simp_all [bitAt, field]
theorem zero_of {w lo n : Nat} (h : w / 2 ^ lo % 2 ^ n = 0) : zero w lo n = true := by simpa [zero, field] using h
theorem field_same {w lo lo' n : Nat} (h : w / 2 ^ lo % 2 ^ n = w / 2 ^ lo' % 2 ^ n) : (field w lo n == field w lo' n) = true := by
  simpa [field] using h

/-- A b,k operand read back, from the low nine bits of the word. -/
theorem bop_of {w : Nat} {b : BOp} (h : w % 512 = bopBits b) : bopOk w = true ∧ bopAt w = b := by
  have e1 : w % 4 = bopBits b % 4 := by omega
  have e2 : w / 4 % 128 = bopBits b / 4 := by omega
  have e3 : w / 256 % 2 = bopBits b / 256 % 2 := by omega
  cases b with
  | vec r =>
    have : r.val < 128 := r.isLt
    have f1 : w % 4 = 0 := by simp only [bopBits] at e1; omega
    refine ⟨by simp [bopOk, field, f1], ?_⟩
    simp only [bopAt, field, Nat.pow_zero, Nat.div_one, Nat.reducePow, f1, reduceIte, Nat.reduceEqDiff]
    exact congrArg _ (vecAt_of (by simp only [bopBits] at e2; omega))
  | sca r =>
    have : r.val < 64 := r.isLt
    have f1 : w % 4 = 1 := by simp only [bopBits] at e1; omega
    refine ⟨by simp only [bopBits] at e3; simp [bopOk, field, zero]; omega, ?_⟩
    simp only [bopAt, field, Nat.pow_zero, Nat.div_one, Nat.reducePow, f1, reduceIte, Nat.reduceEqDiff]
    exact congrArg _ (scaAt_of (by simp only [bopBits] at e2; omega))
  | xlane r =>
    have : r.val < 128 := r.isLt
    have f1 : w % 4 = 2 := by simp only [bopBits] at e1; omega
    refine ⟨by simp [bopOk, field, f1], ?_⟩
    simp only [bopAt, field, Nat.pow_zero, Nat.div_one, Nat.reducePow, f1, reduceIte, Nat.reduceEqDiff]
    exact congrArg _ (vecAt_of (by simp only [bopBits] at e2; omega))
  | quad r =>
    have : r.val < 128 := r.isLt
    have f1 : w % 4 = 3 := by simp only [bopBits] at e1; omega
    refine ⟨by simp [bopOk, field, f1], ?_⟩
    simp only [bopAt, field, Nat.pow_zero, Nat.div_one, Nat.reducePow, f1, reduceIte, Nat.reduceEqDiff]
    exact congrArg _ (vecAt_of (by simp only [bopBits] at e2; omega))
theorem bopBits_lt (b : BOp) : bopBits b < 512 := by
  cases b with
  | vec r => have := r.isLt; simp only [bopBits]; omega
  | sca r => have := r.isLt; simp only [bopBits]; omega
  | xlane r => have := r.isLt; simp only [bopBits]; omega
  | quad r => have := r.isLt; simp only [bopBits]; omega
theorem bool_toNat_lt (b : Bool) : b.toNat < 2 := by cases b <;> decide

theorem opcodeOf_encVVB (op : Nat) (y : Bool) (d : VReg) (a : VReg) (b : BOp) (h : op < 256) : opcodeOf (encVVB op y d a b) = op := by
  have := d.isLt
  have := a.isLt
  have := bopBits_lt b
  have := bool_toNat_lt y
  simp only [opcodeOf, field, encVVB, wordBase] at *
  omega

theorem encVVB_lt (op : Nat) (y : Bool) (d : VReg) (a : VReg) (b : BOp) (h : op < 256) : encVVB op y d a b < 2 ^ 32 := by
  have := d.isLt
  have := a.isLt
  have := bopBits_lt b
  have := bool_toNat_lt y
  simp only [encVVB, wordBase] at *
  omega

theorem decVVB_encVVB (c : Bool → VReg → VReg → BOp → Instr) (op : Nat) (y : Bool) (d : VReg) (a : VReg) (b : BOp) (h : op < 256) :
    decVVB c (encVVB op y d a b) = .ok (c y d a b) := by
  have := d.isLt
  have := a.isLt
  have := bopBits_lt b
  have := bool_toNat_lt y
  generalize hw : encVVB op y d a b = w
  replace hw := hw.symm
  have hy : markerOf w = y := bit_of (by simp only [hw, encVVB, wordBase]; omega)
  have h0 : vecAt w 16 = d := vecAt_of (by simp only [hw, encVVB, wordBase]; omega)
  have h1 : vecAt w 9 = a := vecAt_of (by simp only [hw, encVVB, wordBase]; omega)
  have hb := bop_of (w := w) (b := b) (by simp only [hw, encVVB, wordBase]; omega)
  simp only [decVVB, fieldsThen, hy, h0, h1, hb.1, hb.2, Bool.and_self, if_true]

theorem opcodeOf_encVV (op : Nat) (y : Bool) (d : VReg) (a : VReg) (h : op < 256) : opcodeOf (encVV op y d a) = op := by
  have := d.isLt
  have := a.isLt
  have := bool_toNat_lt y
  simp only [opcodeOf, field, encVV, wordBase] at *
  omega

theorem encVV_lt (op : Nat) (y : Bool) (d : VReg) (a : VReg) (h : op < 256) : encVV op y d a < 2 ^ 32 := by
  have := d.isLt
  have := a.isLt
  have := bool_toNat_lt y
  simp only [encVV, wordBase] at *
  omega

theorem decVV_encVV (c : Bool → VReg → VReg → Instr) (op : Nat) (y : Bool) (d : VReg) (a : VReg) (h : op < 256) :
    decVV c (encVV op y d a) = .ok (c y d a) := by
  have := d.isLt
  have := a.isLt
  have := bool_toNat_lt y
  generalize hw : encVV op y d a = w
  replace hw := hw.symm
  have hy : markerOf w = y := bit_of (by simp only [hw, encVV, wordBase]; omega)
  have h0 : vecAt w 16 = d := vecAt_of (by simp only [hw, encVV, wordBase]; omega)
  have h1 : vecAt w 9 = a := vecAt_of (by simp only [hw, encVV, wordBase]; omega)
  have z0 : zero w 0 9 = true := zero_of (by simp only [hw, encVV, wordBase]; omega)
  simp only [decVV, fieldsThen, hy, h0, h1, z0, Bool.and_self, if_true]

theorem opcodeOf_encMVB (op : Nat) (y : Bool) (d : MReg) (a : VReg) (b : BOp) (h : op < 256) : opcodeOf (encMVB op y d a b) = op := by
  have := d.isLt
  have := a.isLt
  have := bopBits_lt b
  have := bool_toNat_lt y
  simp only [opcodeOf, field, encMVB, wordBase] at *
  omega

theorem encMVB_lt (op : Nat) (y : Bool) (d : MReg) (a : VReg) (b : BOp) (h : op < 256) : encMVB op y d a b < 2 ^ 32 := by
  have := d.isLt
  have := a.isLt
  have := bopBits_lt b
  have := bool_toNat_lt y
  simp only [encMVB, wordBase] at *
  omega

theorem decMVB_encMVB (c : Bool → MReg → VReg → BOp → Instr) (op : Nat) (y : Bool) (d : MReg) (a : VReg) (b : BOp) (h : op < 256) :
    decMVB c (encMVB op y d a b) = .ok (c y d a b) := by
  have := d.isLt
  have := a.isLt
  have := bopBits_lt b
  have := bool_toNat_lt y
  generalize hw : encMVB op y d a b = w
  replace hw := hw.symm
  have hy : markerOf w = y := bit_of (by simp only [hw, encMVB, wordBase]; omega)
  have h0 : eightAt w 16 = d := eightAt_of (by simp only [hw, encMVB, wordBase]; omega)
  have h1 : vecAt w 9 = a := vecAt_of (by simp only [hw, encMVB, wordBase]; omega)
  have hb := bop_of (w := w) (b := b) (by simp only [hw, encMVB, wordBase]; omega)
  have z0 : zero w 19 4 = true := zero_of (by simp only [hw, encMVB, wordBase]; omega)
  simp only [decMVB, fieldsThen, hy, h0, h1, hb.1, hb.2, z0, Bool.and_self, if_true]

theorem opcodeOf_encSSS (op : Nat) (y : Bool) (d : SReg) (a : SReg) (b : SReg) (h : op < 256) : opcodeOf (encSSS op y d a b) = op := by
  have := d.isLt
  have := a.isLt
  have := b.isLt
  have := bool_toNat_lt y
  simp only [opcodeOf, field, encSSS, wordBase] at *
  omega

theorem encSSS_lt (op : Nat) (y : Bool) (d : SReg) (a : SReg) (b : SReg) (h : op < 256) : encSSS op y d a b < 2 ^ 32 := by
  have := d.isLt
  have := a.isLt
  have := b.isLt
  have := bool_toNat_lt y
  simp only [encSSS, wordBase] at *
  omega

theorem decSSS_encSSS (c : Bool → SReg → SReg → SReg → Instr) (op : Nat) (y : Bool) (d : SReg) (a : SReg) (b : SReg) (h : op < 256) :
    decSSS c (encSSS op y d a b) = .ok (c y d a b) := by
  have := d.isLt
  have := a.isLt
  have := b.isLt
  have := bool_toNat_lt y
  generalize hw : encSSS op y d a b = w
  replace hw := hw.symm
  have hy : markerOf w = y := bit_of (by simp only [hw, encSSS, wordBase]; omega)
  have h0 : scaAt w 16 = d := scaAt_of (by simp only [hw, encSSS, wordBase]; omega)
  have h1 : scaAt w 9 = a := scaAt_of (by simp only [hw, encSSS, wordBase]; omega)
  have h2 : scaAt w 2 = b := scaAt_of (by simp only [hw, encSSS, wordBase]; omega)
  have z0 : zero w 0 2 = true := zero_of (by simp only [hw, encSSS, wordBase]; omega)
  have z1 : zero w 22 1 = true := zero_of (by simp only [hw, encSSS, wordBase]; omega)
  have z2 : zero w 15 1 = true := zero_of (by simp only [hw, encSSS, wordBase]; omega)
  have z3 : zero w 8 1 = true := zero_of (by simp only [hw, encSSS, wordBase]; omega)
  simp only [decSSS, fieldsThen, hy, h0, h1, h2, z0, z1, z2, z3, Bool.and_self, if_true]

theorem opcodeOf_encSS (op : Nat) (y : Bool) (d : SReg) (a : SReg) (h : op < 256) : opcodeOf (encSS op y d a) = op := by
  have := d.isLt
  have := a.isLt
  have := bool_toNat_lt y
  simp only [opcodeOf, field, encSS, wordBase] at *
  omega

theorem encSS_lt (op : Nat) (y : Bool) (d : SReg) (a : SReg) (h : op < 256) : encSS op y d a < 2 ^ 32 := by
  have := d.isLt
  have := a.isLt
  have := bool_toNat_lt y
  simp only [encSS, wordBase] at *
  omega

theorem decSS_encSS (c : Bool → SReg → SReg → Instr) (op : Nat) (y : Bool) (d : SReg) (a : SReg) (h : op < 256) :
    decSS c (encSS op y d a) = .ok (c y d a) := by
  have := d.isLt
  have := a.isLt
  have := bool_toNat_lt y
  generalize hw : encSS op y d a = w
  replace hw := hw.symm
  have hy : markerOf w = y := bit_of (by simp only [hw, encSS, wordBase]; omega)
  have h0 : scaAt w 16 = d := scaAt_of (by simp only [hw, encSS, wordBase]; omega)
  have h1 : scaAt w 9 = a := scaAt_of (by simp only [hw, encSS, wordBase]; omega)
  have z0 : zero w 0 9 = true := zero_of (by simp only [hw, encSS, wordBase]; omega)
  have z1 : zero w 22 1 = true := zero_of (by simp only [hw, encSS, wordBase]; omega)
  have z2 : zero w 15 1 = true := zero_of (by simp only [hw, encSS, wordBase]; omega)
  simp only [decSS, fieldsThen, hy, h0, h1, z0, z1, z2, Bool.and_self, if_true]

theorem opcodeOf_encSV (op : Nat) (y : Bool) (d : SReg) (a : VReg) (h : op < 256) : opcodeOf (encSV op y d a) = op := by
  have := d.isLt
  have := a.isLt
  have := bool_toNat_lt y
  simp only [opcodeOf, field, encSV, wordBase] at *
  omega

theorem encSV_lt (op : Nat) (y : Bool) (d : SReg) (a : VReg) (h : op < 256) : encSV op y d a < 2 ^ 32 := by
  have := d.isLt
  have := a.isLt
  have := bool_toNat_lt y
  simp only [encSV, wordBase] at *
  omega

theorem decSV_encSV (c : Bool → SReg → VReg → Instr) (op : Nat) (y : Bool) (d : SReg) (a : VReg) (h : op < 256) :
    decSV c (encSV op y d a) = .ok (c y d a) := by
  have := d.isLt
  have := a.isLt
  have := bool_toNat_lt y
  generalize hw : encSV op y d a = w
  replace hw := hw.symm
  have hy : markerOf w = y := bit_of (by simp only [hw, encSV, wordBase]; omega)
  have h0 : scaAt w 16 = d := scaAt_of (by simp only [hw, encSV, wordBase]; omega)
  have h1 : vecAt w 9 = a := vecAt_of (by simp only [hw, encSV, wordBase]; omega)
  have z0 : zero w 0 9 = true := zero_of (by simp only [hw, encSV, wordBase]; omega)
  have z1 : zero w 22 1 = true := zero_of (by simp only [hw, encSV, wordBase]; omega)
  simp only [decSV, fieldsThen, hy, h0, h1, z0, z1, Bool.and_self, if_true]

theorem opcodeOf_encFCVT (op : Nat) (y : Bool) (d : VReg) (a : VReg) (ty : Fin 128) (h : op < 256) : opcodeOf (encFCVT op y d a ty) = op := by
  have := d.isLt
  have := a.isLt
  have := ty.isLt
  have := bool_toNat_lt y
  simp only [opcodeOf, field, encFCVT, wordBase] at *
  omega

theorem encFCVT_lt (op : Nat) (y : Bool) (d : VReg) (a : VReg) (ty : Fin 128) (h : op < 256) : encFCVT op y d a ty < 2 ^ 32 := by
  have := d.isLt
  have := a.isLt
  have := ty.isLt
  have := bool_toNat_lt y
  simp only [encFCVT, wordBase] at *
  omega

theorem decFCVT_encFCVT (c : Bool → VReg → VReg → Fin 128 → Instr) (op : Nat) (y : Bool) (d : VReg) (a : VReg) (ty : Fin 128) (h : op < 256) :
    decFCVT c (encFCVT op y d a ty) = .ok (c y d a ty) := by
  have := d.isLt
  have := a.isLt
  have := ty.isLt
  have := bool_toNat_lt y
  generalize hw : encFCVT op y d a ty = w
  replace hw := hw.symm
  have hy : markerOf w = y := bit_of (by simp only [hw, encFCVT, wordBase]; omega)
  have h0 : vecAt w 16 = d := vecAt_of (by simp only [hw, encFCVT, wordBase]; omega)
  have h1 : vecAt w 9 = a := vecAt_of (by simp only [hw, encFCVT, wordBase]; omega)
  have h2 : Fin.ofNat 128 (w / 2 ^ 2) = ty := fin_of (by simp only [hw, encFCVT, wordBase]; omega)
  have z0 : zero w 0 2 = true := zero_of (by simp only [hw, encFCVT, wordBase]; omega)
  simp only [decFCVT, fieldsThen, hy, h0, h1, h2, z0, Bool.and_self, if_true]

theorem opcodeOf_encMMM (op : Nat) (y : Bool) (d : MReg) (a : MReg) (b : MReg) (h : op < 256) : opcodeOf (encMMM op y d a b) = op := by
  have := d.isLt
  have := a.isLt
  have := b.isLt
  have := bool_toNat_lt y
  simp only [opcodeOf, field, encMMM, wordBase] at *
  omega

theorem encMMM_lt (op : Nat) (y : Bool) (d : MReg) (a : MReg) (b : MReg) (h : op < 256) : encMMM op y d a b < 2 ^ 32 := by
  have := d.isLt
  have := a.isLt
  have := b.isLt
  have := bool_toNat_lt y
  simp only [encMMM, wordBase] at *
  omega

theorem decMMM_encMMM (c : Bool → MReg → MReg → MReg → Instr) (op : Nat) (y : Bool) (d : MReg) (a : MReg) (b : MReg) (h : op < 256) :
    decMMM c (encMMM op y d a b) = .ok (c y d a b) := by
  have := d.isLt
  have := a.isLt
  have := b.isLt
  have := bool_toNat_lt y
  generalize hw : encMMM op y d a b = w
  replace hw := hw.symm
  have hy : markerOf w = y := bit_of (by simp only [hw, encMMM, wordBase]; omega)
  have h0 : eightAt w 16 = d := eightAt_of (by simp only [hw, encMMM, wordBase]; omega)
  have h1 : eightAt w 9 = a := eightAt_of (by simp only [hw, encMMM, wordBase]; omega)
  have h2 : eightAt w 2 = b := eightAt_of (by simp only [hw, encMMM, wordBase]; omega)
  have z0 : zero w 0 2 = true := zero_of (by simp only [hw, encMMM, wordBase]; omega)
  have z1 : zero w 19 4 = true := zero_of (by simp only [hw, encMMM, wordBase]; omega)
  have z2 : zero w 12 4 = true := zero_of (by simp only [hw, encMMM, wordBase]; omega)
  have z3 : zero w 5 4 = true := zero_of (by simp only [hw, encMMM, wordBase]; omega)
  simp only [decMMM, fieldsThen, hy, h0, h1, h2, z0, z1, z2, z3, Bool.and_self, if_true]

theorem opcodeOf_encMTOS (op : Nat) (y : Bool) (d : SReg) (a : MReg) (hi : Bool) (h : op < 256) : opcodeOf (encMTOS op y d a hi) = op := by
  have := d.isLt
  have := a.isLt
  have := bool_toNat_lt hi
  have := bool_toNat_lt y
  simp only [opcodeOf, field, encMTOS, wordBase] at *
  omega

theorem encMTOS_lt (op : Nat) (y : Bool) (d : SReg) (a : MReg) (hi : Bool) (h : op < 256) : encMTOS op y d a hi < 2 ^ 32 := by
  have := d.isLt
  have := a.isLt
  have := bool_toNat_lt hi
  have := bool_toNat_lt y
  simp only [encMTOS, wordBase] at *
  omega

theorem decMTOS_encMTOS (c : Bool → SReg → MReg → Bool → Instr) (op : Nat) (y : Bool) (d : SReg) (a : MReg) (hi : Bool) (h : op < 256) :
    decMTOS c (encMTOS op y d a hi) = .ok (c y d a hi) := by
  have := d.isLt
  have := a.isLt
  have := bool_toNat_lt hi
  have := bool_toNat_lt y
  generalize hw : encMTOS op y d a hi = w
  replace hw := hw.symm
  have hy : markerOf w = y := bit_of (by simp only [hw, encMTOS, wordBase]; omega)
  have h0 : scaAt w 16 = d := scaAt_of (by simp only [hw, encMTOS, wordBase]; omega)
  have h1 : eightAt w 9 = a := eightAt_of (by simp only [hw, encMTOS, wordBase]; omega)
  have h2 : bitAt w 0 = hi := bit_of (by simp only [hw, encMTOS, wordBase]; omega)
  have z0 : zero w 1 8 = true := zero_of (by simp only [hw, encMTOS, wordBase]; omega)
  have z1 : zero w 22 1 = true := zero_of (by simp only [hw, encMTOS, wordBase]; omega)
  have z2 : zero w 12 4 = true := zero_of (by simp only [hw, encMTOS, wordBase]; omega)
  simp only [decMTOS, fieldsThen, hy, h0, h1, h2, z0, z1, z2, Bool.and_self, if_true]

theorem opcodeOf_encSTOM (op : Nat) (y : Bool) (d : MReg) (a : SReg) (hi : Bool) (h : op < 256) : opcodeOf (encSTOM op y d a hi) = op := by
  have := d.isLt
  have := a.isLt
  have := bool_toNat_lt hi
  have := bool_toNat_lt y
  simp only [opcodeOf, field, encSTOM, wordBase] at *
  omega

theorem encSTOM_lt (op : Nat) (y : Bool) (d : MReg) (a : SReg) (hi : Bool) (h : op < 256) : encSTOM op y d a hi < 2 ^ 32 := by
  have := d.isLt
  have := a.isLt
  have := bool_toNat_lt hi
  have := bool_toNat_lt y
  simp only [encSTOM, wordBase] at *
  omega

theorem decSTOM_encSTOM (c : Bool → MReg → SReg → Bool → Instr) (op : Nat) (y : Bool) (d : MReg) (a : SReg) (hi : Bool) (h : op < 256) :
    decSTOM c (encSTOM op y d a hi) = .ok (c y d a hi) := by
  have := d.isLt
  have := a.isLt
  have := bool_toNat_lt hi
  have := bool_toNat_lt y
  generalize hw : encSTOM op y d a hi = w
  replace hw := hw.symm
  have hy : markerOf w = y := bit_of (by simp only [hw, encSTOM, wordBase]; omega)
  have h0 : eightAt w 16 = d := eightAt_of (by simp only [hw, encSTOM, wordBase]; omega)
  have h1 : scaAt w 9 = a := scaAt_of (by simp only [hw, encSTOM, wordBase]; omega)
  have h2 : bitAt w 0 = hi := bit_of (by simp only [hw, encSTOM, wordBase]; omega)
  have z0 : zero w 1 8 = true := zero_of (by simp only [hw, encSTOM, wordBase]; omega)
  have z1 : zero w 19 4 = true := zero_of (by simp only [hw, encSTOM, wordBase]; omega)
  have z2 : zero w 15 1 = true := zero_of (by simp only [hw, encSTOM, wordBase]; omega)
  simp only [decSTOM, fieldsThen, hy, h0, h1, h2, z0, z1, z2, Bool.and_self, if_true]

theorem opcodeOf_encSM (op : Nat) (y : Bool) (d : SReg) (a : MReg) (h : op < 256) : opcodeOf (encSM op y d a) = op := by
  have := d.isLt
  have := a.isLt
  have := bool_toNat_lt y
  simp only [opcodeOf, field, encSM, wordBase] at *
  omega

theorem encSM_lt (op : Nat) (y : Bool) (d : SReg) (a : MReg) (h : op < 256) : encSM op y d a < 2 ^ 32 := by
  have := d.isLt
  have := a.isLt
  have := bool_toNat_lt y
  simp only [encSM, wordBase] at *
  omega

theorem decSM_encSM (c : Bool → SReg → MReg → Instr) (op : Nat) (y : Bool) (d : SReg) (a : MReg) (h : op < 256) :
    decSM c (encSM op y d a) = .ok (c y d a) := by
  have := d.isLt
  have := a.isLt
  have := bool_toNat_lt y
  generalize hw : encSM op y d a = w
  replace hw := hw.symm
  have hy : markerOf w = y := bit_of (by simp only [hw, encSM, wordBase]; omega)
  have h0 : scaAt w 16 = d := scaAt_of (by simp only [hw, encSM, wordBase]; omega)
  have h1 : eightAt w 9 = a := eightAt_of (by simp only [hw, encSM, wordBase]; omega)
  have z0 : zero w 0 9 = true := zero_of (by simp only [hw, encSM, wordBase]; omega)
  have z1 : zero w 22 1 = true := zero_of (by simp only [hw, encSM, wordBase]; omega)
  have z2 : zero w 12 4 = true := zero_of (by simp only [hw, encSM, wordBase]; omega)
  simp only [decSM, fieldsThen, hy, h0, h1, z0, z1, z2, Bool.and_self, if_true]

theorem opcodeOf_encVVV (op : Nat) (y : Bool) (d : VReg) (a : VReg) (b : VReg) (h : op < 256) : opcodeOf (encVVV op y d a b) = op := by
  have := d.isLt
  have := a.isLt
  have := b.isLt
  have := bool_toNat_lt y
  simp only [opcodeOf, field, encVVV, wordBase] at *
  omega

theorem encVVV_lt (op : Nat) (y : Bool) (d : VReg) (a : VReg) (b : VReg) (h : op < 256) : encVVV op y d a b < 2 ^ 32 := by
  have := d.isLt
  have := a.isLt
  have := b.isLt
  have := bool_toNat_lt y
  simp only [encVVV, wordBase] at *
  omega

theorem decVVV_encVVV (c : Bool → VReg → VReg → VReg → Instr) (op : Nat) (y : Bool) (d : VReg) (a : VReg) (b : VReg) (h : op < 256) :
    decVVV c (encVVV op y d a b) = .ok (c y d a b) := by
  have := d.isLt
  have := a.isLt
  have := b.isLt
  have := bool_toNat_lt y
  generalize hw : encVVV op y d a b = w
  replace hw := hw.symm
  have hy : markerOf w = y := bit_of (by simp only [hw, encVVV, wordBase]; omega)
  have h0 : vecAt w 16 = d := vecAt_of (by simp only [hw, encVVV, wordBase]; omega)
  have h1 : vecAt w 9 = a := vecAt_of (by simp only [hw, encVVV, wordBase]; omega)
  have h2 : vecAt w 2 = b := vecAt_of (by simp only [hw, encVVV, wordBase]; omega)
  have z0 : zero w 0 2 = true := zero_of (by simp only [hw, encVVV, wordBase]; omega)
  simp only [decVVV, fieldsThen, hy, h0, h1, h2, z0, Bool.and_self, if_true]

theorem opcodeOf_encVVS (op : Nat) (y : Bool) (d : VReg) (a : VReg) (b : SReg) (h : op < 256) : opcodeOf (encVVS op y d a b) = op := by
  have := d.isLt
  have := a.isLt
  have := b.isLt
  have := bool_toNat_lt y
  simp only [opcodeOf, field, encVVS, wordBase] at *
  omega

theorem encVVS_lt (op : Nat) (y : Bool) (d : VReg) (a : VReg) (b : SReg) (h : op < 256) : encVVS op y d a b < 2 ^ 32 := by
  have := d.isLt
  have := a.isLt
  have := b.isLt
  have := bool_toNat_lt y
  simp only [encVVS, wordBase] at *
  omega

theorem decVVS_encVVS (c : Bool → VReg → VReg → SReg → Instr) (op : Nat) (y : Bool) (d : VReg) (a : VReg) (b : SReg) (h : op < 256) :
    decVVS c (encVVS op y d a b) = .ok (c y d a b) := by
  have := d.isLt
  have := a.isLt
  have := b.isLt
  have := bool_toNat_lt y
  generalize hw : encVVS op y d a b = w
  replace hw := hw.symm
  have hy : markerOf w = y := bit_of (by simp only [hw, encVVS, wordBase]; omega)
  have h0 : vecAt w 16 = d := vecAt_of (by simp only [hw, encVVS, wordBase]; omega)
  have h1 : vecAt w 9 = a := vecAt_of (by simp only [hw, encVVS, wordBase]; omega)
  have h2 : scaAt w 2 = b := scaAt_of (by simp only [hw, encVVS, wordBase]; omega)
  have z0 : zero w 0 2 = true := zero_of (by simp only [hw, encVVS, wordBase]; omega)
  have z1 : zero w 8 1 = true := zero_of (by simp only [hw, encVVS, wordBase]; omega)
  simp only [decVVS, fieldsThen, hy, h0, h1, h2, z0, z1, Bool.and_self, if_true]

theorem opcodeOf_encQSWAP (op : Nat) (y : Bool) (d : VReg) (a : VReg) (k : Fin 4) (h : op < 256) : opcodeOf (encQSWAP op y d a k) = op := by
  have := d.isLt
  have := a.isLt
  have := k.isLt
  have := bool_toNat_lt y
  simp only [opcodeOf, field, encQSWAP, wordBase] at *
  omega

theorem encQSWAP_lt (op : Nat) (y : Bool) (d : VReg) (a : VReg) (k : Fin 4) (h : op < 256) : encQSWAP op y d a k < 2 ^ 32 := by
  have := d.isLt
  have := a.isLt
  have := k.isLt
  have := bool_toNat_lt y
  simp only [encQSWAP, wordBase] at *
  omega

theorem decQSWAP_encQSWAP (c : Bool → VReg → VReg → Fin 4 → Instr) (op : Nat) (y : Bool) (d : VReg) (a : VReg) (k : Fin 4) (h : op < 256) :
    decQSWAP c (encQSWAP op y d a k) = .ok (c y d a k) := by
  have := d.isLt
  have := a.isLt
  have := k.isLt
  have := bool_toNat_lt y
  generalize hw : encQSWAP op y d a k = w
  replace hw := hw.symm
  have hy : markerOf w = y := bit_of (by simp only [hw, encQSWAP, wordBase]; omega)
  have h0 : vecAt w 16 = d := vecAt_of (by simp only [hw, encQSWAP, wordBase]; omega)
  have h1 : vecAt w 9 = a := vecAt_of (by simp only [hw, encQSWAP, wordBase]; omega)
  have h2 : Fin.ofNat 4 (w / 2 ^ 0) = k := fin_of (by simp only [hw, encQSWAP, wordBase]; omega)
  have z0 : zero w 2 7 = true := zero_of (by simp only [hw, encQSWAP, wordBase]; omega)
  simp only [decQSWAP, fieldsThen, hy, h0, h1, h2, z0, Bool.and_self, if_true]

theorem opcodeOf_encSD (op : Nat) (y : Bool) (d : SReg) (h : op < 256) : opcodeOf (encSD op y d) = op := by
  have := d.isLt
  have := bool_toNat_lt y
  simp only [opcodeOf, field, encSD, wordBase] at *
  omega

theorem encSD_lt (op : Nat) (y : Bool) (d : SReg) (h : op < 256) : encSD op y d < 2 ^ 32 := by
  have := d.isLt
  have := bool_toNat_lt y
  simp only [encSD, wordBase] at *
  omega

theorem decSD_encSD (c : Bool → SReg → Instr) (op : Nat) (y : Bool) (d : SReg) (h : op < 256) :
    decSD c (encSD op y d) = .ok (c y d) := by
  have := d.isLt
  have := bool_toNat_lt y
  generalize hw : encSD op y d = w
  replace hw := hw.symm
  have hy : markerOf w = y := bit_of (by simp only [hw, encSD, wordBase]; omega)
  have h0 : scaAt w 16 = d := scaAt_of (by simp only [hw, encSD, wordBase]; omega)
  have z0 : zero w 0 16 = true := zero_of (by simp only [hw, encSD, wordBase]; omega)
  have z1 : zero w 22 1 = true := zero_of (by simp only [hw, encSD, wordBase]; omega)
  simp only [decSD, fieldsThen, hy, h0, z0, z1, Bool.and_self, if_true]

theorem opcodeOf_encSA (op : Nat) (y : Bool) (a : SReg) (h : op < 256) : opcodeOf (encSA op y a) = op := by
  have := a.isLt
  have := bool_toNat_lt y
  simp only [opcodeOf, field, encSA, wordBase] at *
  omega

theorem encSA_lt (op : Nat) (y : Bool) (a : SReg) (h : op < 256) : encSA op y a < 2 ^ 32 := by
  have := a.isLt
  have := bool_toNat_lt y
  simp only [encSA, wordBase] at *
  omega

theorem decSA_encSA (c : Bool → SReg → Instr) (op : Nat) (y : Bool) (a : SReg) (h : op < 256) :
    decSA c (encSA op y a) = .ok (c y a) := by
  have := a.isLt
  have := bool_toNat_lt y
  generalize hw : encSA op y a = w
  replace hw := hw.symm
  have hy : markerOf w = y := bit_of (by simp only [hw, encSA, wordBase]; omega)
  have h0 : scaAt w 9 = a := scaAt_of (by simp only [hw, encSA, wordBase]; omega)
  have z0 : zero w 0 9 = true := zero_of (by simp only [hw, encSA, wordBase]; omega)
  have z1 : zero w 16 7 = true := zero_of (by simp only [hw, encSA, wordBase]; omega)
  have z2 : zero w 15 1 = true := zero_of (by simp only [hw, encSA, wordBase]; omega)
  simp only [decSA, fieldsThen, hy, h0, z0, z1, z2, Bool.and_self, if_true]

theorem encSDA_lt (op : Nat) (y : Bool) (d : SReg) (h : op < 256) : encSDA op y d < 2 ^ 32 := encSS_lt op y d d h
theorem opcodeOf_encSDA (op : Nat) (y : Bool) (d : SReg) (h : op < 256) : opcodeOf (encSDA op y d) = op := opcodeOf_encSS op y d d h
theorem decSDA_encSS (c : Bool → SReg → Instr) (op : Nat) (y : Bool) (d a : SReg) (e : a = d) (h : op < 256) :
    decSDA c (encSS op y d a) = .ok (c y d) := by
  have := d.isLt
  have := a.isLt
  have := bool_toNat_lt y
  generalize hw : encSS op y d a = w
  replace hw := hw.symm
  have hy : markerOf w = y := bit_of (by simp only [hw, encSS, wordBase]; omega)
  have h0 : scaAt w 16 = d := scaAt_of (by simp only [hw, encSS, wordBase]; omega)
  have z0 : zero w 0 9 = true := zero_of (by simp only [hw, encSS, wordBase]; omega)
  have z1 : zero w 22 1 = true := zero_of (by simp only [hw, encSS, wordBase]; omega)
  have f1 : w / 2 ^ 9 % 2 ^ 7 = a.val := by simp only [hw, encSS, wordBase]; omega
  have f2 : w / 2 ^ 16 % 2 ^ 7 = d.val := by simp only [hw, encSS, wordBase]; omega
  have hf : (field w 9 7 == field w 16 7) = true := field_same (by rw [f1, f2, e])
  simp only [decSDA, fieldsThen, hy, h0, z0, z1, hf, Bool.and_self, if_true]
theorem decSDA_encSDA (c : Bool → SReg → Instr) (op : Nat) (y : Bool) (d : SReg) (h : op < 256) :
    decSDA c (encSDA op y d) = .ok (c y d) := decSDA_encSS c op y d d rfl h

theorem opcodeOf_encTHSET (op : Nat) (y : Bool) (d : ThReg) (a : SReg) (b : SReg) (h : op < 256) : opcodeOf (encTHSET op y d a b) = op := by
  have := d.isLt
  have := a.isLt
  have := b.isLt
  have := bool_toNat_lt y
  simp only [opcodeOf, field, encTHSET, wordBase] at *
  omega

theorem encTHSET_lt (op : Nat) (y : Bool) (d : ThReg) (a : SReg) (b : SReg) (h : op < 256) : encTHSET op y d a b < 2 ^ 32 := by
  have := d.isLt
  have := a.isLt
  have := b.isLt
  have := bool_toNat_lt y
  simp only [encTHSET, wordBase] at *
  omega

theorem decTHSET_encTHSET (c : Bool → ThReg → SReg → SReg → Instr) (op : Nat) (y : Bool) (d : ThReg) (a : SReg) (b : SReg) (h : op < 256) :
    decTHSET c (encTHSET op y d a b) = .ok (c y d a b) := by
  have := d.isLt
  have := a.isLt
  have := b.isLt
  have := bool_toNat_lt y
  generalize hw : encTHSET op y d a b = w
  replace hw := hw.symm
  have hy : markerOf w = y := bit_of (by simp only [hw, encTHSET, wordBase]; omega)
  have h0 : eightAt w 16 = d := eightAt_of (by simp only [hw, encTHSET, wordBase]; omega)
  have h1 : scaAt w 9 = a := scaAt_of (by simp only [hw, encTHSET, wordBase]; omega)
  have h2 : scaAt w 2 = b := scaAt_of (by simp only [hw, encTHSET, wordBase]; omega)
  have z0 : zero w 0 2 = true := zero_of (by simp only [hw, encTHSET, wordBase]; omega)
  have z1 : zero w 19 4 = true := zero_of (by simp only [hw, encTHSET, wordBase]; omega)
  have z2 : zero w 15 1 = true := zero_of (by simp only [hw, encTHSET, wordBase]; omega)
  have z3 : zero w 8 1 = true := zero_of (by simp only [hw, encTHSET, wordBase]; omega)
  simp only [decTHSET, fieldsThen, hy, h0, h1, h2, z0, z1, z2, z3, Bool.and_self, if_true]

theorem opcodeOf_encVA (op : Nat) (y : Bool) (a : VReg) (h : op < 256) : opcodeOf (encVA op y a) = op := by
  have := a.isLt
  have := bool_toNat_lt y
  simp only [opcodeOf, field, encVA, wordBase] at *
  omega

theorem encVA_lt (op : Nat) (y : Bool) (a : VReg) (h : op < 256) : encVA op y a < 2 ^ 32 := by
  have := a.isLt
  have := bool_toNat_lt y
  simp only [encVA, wordBase] at *
  omega

theorem decVA_encVA (c : Bool → VReg → Instr) (op : Nat) (y : Bool) (a : VReg) (h : op < 256) :
    decVA c (encVA op y a) = .ok (c y a) := by
  have := a.isLt
  have := bool_toNat_lt y
  generalize hw : encVA op y a = w
  replace hw := hw.symm
  have hy : markerOf w = y := bit_of (by simp only [hw, encVA, wordBase]; omega)
  have h0 : vecAt w 9 = a := vecAt_of (by simp only [hw, encVA, wordBase]; omega)
  have z0 : zero w 0 9 = true := zero_of (by simp only [hw, encVA, wordBase]; omega)
  have z1 : zero w 16 7 = true := zero_of (by simp only [hw, encVA, wordBase]; omega)
  simp only [decVA, fieldsThen, hy, h0, z0, z1, Bool.and_self, if_true]

theorem opcodeOf_encNONE (op : Nat) (y : Bool) (h : op < 256) : opcodeOf (encNONE op y) = op := by
  have := bool_toNat_lt y
  simp only [opcodeOf, field, encNONE, wordBase] at *
  omega

theorem encNONE_lt (op : Nat) (y : Bool) (h : op < 256) : encNONE op y < 2 ^ 32 := by
  have := bool_toNat_lt y
  simp only [encNONE, wordBase] at *
  omega

theorem decNONE_encNONE (c : Bool → Instr) (op : Nat) (y : Bool) (h : op < 256) :
    decNONE c (encNONE op y) = .ok (c y) := by
  have := bool_toNat_lt y
  generalize hw : encNONE op y = w
  replace hw := hw.symm
  have hy : markerOf w = y := bit_of (by simp only [hw, encNONE, wordBase]; omega)
  have z0 : zero w 0 23 = true := zero_of (by simp only [hw, encNONE, wordBase]; omega)
  simp only [decNONE, fieldsThen, hy, z0, Bool.and_self, if_true]

theorem opcodeOf_encTHR (op : Nat) (y : Bool) (d : VReg) (a : VReg) (th : ThReg) (h : op < 256) : opcodeOf (encTHR op y d a th) = op := by
  have := d.isLt
  have := a.isLt
  have := th.isLt
  have := bool_toNat_lt y
  simp only [opcodeOf, field, encTHR, wordBase] at *
  omega

theorem encTHR_lt (op : Nat) (y : Bool) (d : VReg) (a : VReg) (th : ThReg) (h : op < 256) : encTHR op y d a th < 2 ^ 32 := by
  have := d.isLt
  have := a.isLt
  have := th.isLt
  have := bool_toNat_lt y
  simp only [encTHR, wordBase] at *
  omega

theorem decTHR_encTHR (c : Bool → VReg → VReg → ThReg → Instr) (op : Nat) (y : Bool) (d : VReg) (a : VReg) (th : ThReg) (h : op < 256) :
    decTHR c (encTHR op y d a th) = .ok (c y d a th) := by
  have := d.isLt
  have := a.isLt
  have := th.isLt
  have := bool_toNat_lt y
  generalize hw : encTHR op y d a th = w
  replace hw := hw.symm
  have hy : markerOf w = y := bit_of (by simp only [hw, encTHR, wordBase]; omega)
  have h0 : vecAt w 16 = d := vecAt_of (by simp only [hw, encTHR, wordBase]; omega)
  have h1 : vecAt w 9 = a := vecAt_of (by simp only [hw, encTHR, wordBase]; omega)
  have h2 : eightAt w 2 = th := eightAt_of (by simp only [hw, encTHR, wordBase]; omega)
  have z0 : zero w 0 2 = true := zero_of (by simp only [hw, encTHR, wordBase]; omega)
  have z1 : zero w 5 4 = true := zero_of (by simp only [hw, encTHR, wordBase]; omega)
  simp only [decTHR, fieldsThen, hy, h0, h1, h2, z0, z1, Bool.and_self, if_true]

theorem opcodeOf_encAVV (op : Nat) (y : Bool) (d : AccReg) (a : VReg) (b : VReg) (h : op < 256) : opcodeOf (encAVV op y d a b) = op := by
  have := d.isLt
  have := a.isLt
  have := b.isLt
  have := bool_toNat_lt y
  simp only [opcodeOf, field, encAVV, wordBase] at *
  omega

theorem encAVV_lt (op : Nat) (y : Bool) (d : AccReg) (a : VReg) (b : VReg) (h : op < 256) : encAVV op y d a b < 2 ^ 32 := by
  have := d.isLt
  have := a.isLt
  have := b.isLt
  have := bool_toNat_lt y
  simp only [encAVV, wordBase] at *
  omega

theorem decAVV_encAVV (c : Bool → AccReg → VReg → VReg → Instr) (op : Nat) (y : Bool) (d : AccReg) (a : VReg) (b : VReg) (h : op < 256) :
    decAVV c (encAVV op y d a b) = .ok (c y d a b) := by
  have := d.isLt
  have := a.isLt
  have := b.isLt
  have := bool_toNat_lt y
  generalize hw : encAVV op y d a b = w
  replace hw := hw.symm
  have hy : markerOf w = y := bit_of (by simp only [hw, encAVV, wordBase]; omega)
  have h0 : fourAt w 16 = d := fourAt_of (by simp only [hw, encAVV, wordBase]; omega)
  have h1 : vecAt w 9 = a := vecAt_of (by simp only [hw, encAVV, wordBase]; omega)
  have h2 : vecAt w 2 = b := vecAt_of (by simp only [hw, encAVV, wordBase]; omega)
  have z0 : zero w 0 2 = true := zero_of (by simp only [hw, encAVV, wordBase]; omega)
  have z1 : zero w 18 5 = true := zero_of (by simp only [hw, encAVV, wordBase]; omega)
  simp only [decAVV, fieldsThen, hy, h0, h1, h2, z0, z1, Bool.and_self, if_true]

theorem opcodeOf_encAV (op : Nat) (y : Bool) (d : AccReg) (b : VReg) (h : op < 256) : opcodeOf (encAV op y d b) = op := by
  have := d.isLt
  have := b.isLt
  have := bool_toNat_lt y
  simp only [opcodeOf, field, encAV, wordBase] at *
  omega

theorem encAV_lt (op : Nat) (y : Bool) (d : AccReg) (b : VReg) (h : op < 256) : encAV op y d b < 2 ^ 32 := by
  have := d.isLt
  have := b.isLt
  have := bool_toNat_lt y
  simp only [encAV, wordBase] at *
  omega

theorem decAV_encAV (c : Bool → AccReg → VReg → Instr) (op : Nat) (y : Bool) (d : AccReg) (b : VReg) (h : op < 256) :
    decAV c (encAV op y d b) = .ok (c y d b) := by
  have := d.isLt
  have := b.isLt
  have := bool_toNat_lt y
  generalize hw : encAV op y d b = w
  replace hw := hw.symm
  have hy : markerOf w = y := bit_of (by simp only [hw, encAV, wordBase]; omega)
  have h0 : fourAt w 16 = d := fourAt_of (by simp only [hw, encAV, wordBase]; omega)
  have h1 : vecAt w 2 = b := vecAt_of (by simp only [hw, encAV, wordBase]; omega)
  have z0 : zero w 0 2 = true := zero_of (by simp only [hw, encAV, wordBase]; omega)
  have z1 : zero w 9 7 = true := zero_of (by simp only [hw, encAV, wordBase]; omega)
  have z2 : zero w 18 5 = true := zero_of (by simp only [hw, encAV, wordBase]; omega)
  simp only [decAV, fieldsThen, hy, h0, h1, z0, z1, z2, Bool.and_self, if_true]

theorem opcodeOf_encAS (op : Nat) (y : Bool) (d : AccReg) (a : SReg) (h : op < 256) : opcodeOf (encAS op y d a) = op := by
  have := d.isLt
  have := a.isLt
  have := bool_toNat_lt y
  simp only [opcodeOf, field, encAS, wordBase] at *
  omega

theorem encAS_lt (op : Nat) (y : Bool) (d : AccReg) (a : SReg) (h : op < 256) : encAS op y d a < 2 ^ 32 := by
  have := d.isLt
  have := a.isLt
  have := bool_toNat_lt y
  simp only [encAS, wordBase] at *
  omega

theorem decAS_encAS (c : Bool → AccReg → SReg → Instr) (op : Nat) (y : Bool) (d : AccReg) (a : SReg) (h : op < 256) :
    decAS c (encAS op y d a) = .ok (c y d a) := by
  have := d.isLt
  have := a.isLt
  have := bool_toNat_lt y
  generalize hw : encAS op y d a = w
  replace hw := hw.symm
  have hy : markerOf w = y := bit_of (by simp only [hw, encAS, wordBase]; omega)
  have h0 : fourAt w 16 = d := fourAt_of (by simp only [hw, encAS, wordBase]; omega)
  have h1 : scaAt w 9 = a := scaAt_of (by simp only [hw, encAS, wordBase]; omega)
  have z0 : zero w 0 9 = true := zero_of (by simp only [hw, encAS, wordBase]; omega)
  have z1 : zero w 18 5 = true := zero_of (by simp only [hw, encAS, wordBase]; omega)
  have z2 : zero w 15 1 = true := zero_of (by simp only [hw, encAS, wordBase]; omega)
  simp only [decAS, fieldsThen, hy, h0, h1, z0, z1, z2, Bool.and_self, if_true]

theorem opcodeOf_encVAS (op : Nat) (y : Bool) (d : VReg) (a : AccReg) (b : SReg) (h : op < 256) : opcodeOf (encVAS op y d a b) = op := by
  have := d.isLt
  have := a.isLt
  have := b.isLt
  have := bool_toNat_lt y
  simp only [opcodeOf, field, encVAS, wordBase] at *
  omega

theorem encVAS_lt (op : Nat) (y : Bool) (d : VReg) (a : AccReg) (b : SReg) (h : op < 256) : encVAS op y d a b < 2 ^ 32 := by
  have := d.isLt
  have := a.isLt
  have := b.isLt
  have := bool_toNat_lt y
  simp only [encVAS, wordBase] at *
  omega

theorem decVAS_encVAS (c : Bool → VReg → AccReg → SReg → Instr) (op : Nat) (y : Bool) (d : VReg) (a : AccReg) (b : SReg) (h : op < 256) :
    decVAS c (encVAS op y d a b) = .ok (c y d a b) := by
  have := d.isLt
  have := a.isLt
  have := b.isLt
  have := bool_toNat_lt y
  generalize hw : encVAS op y d a b = w
  replace hw := hw.symm
  have hy : markerOf w = y := bit_of (by simp only [hw, encVAS, wordBase]; omega)
  have h0 : vecAt w 16 = d := vecAt_of (by simp only [hw, encVAS, wordBase]; omega)
  have h1 : fourAt w 9 = a := fourAt_of (by simp only [hw, encVAS, wordBase]; omega)
  have h2 : scaAt w 2 = b := scaAt_of (by simp only [hw, encVAS, wordBase]; omega)
  have z0 : zero w 0 2 = true := zero_of (by simp only [hw, encVAS, wordBase]; omega)
  have z1 : zero w 11 5 = true := zero_of (by simp only [hw, encVAS, wordBase]; omega)
  have z2 : zero w 8 1 = true := zero_of (by simp only [hw, encVAS, wordBase]; omega)
  simp only [decVAS, fieldsThen, hy, h0, h1, h2, z0, z1, z2, Bool.and_self, if_true]

theorem opcodeOf_encAVS (op : Nat) (y : Bool) (d : AccReg) (a : VReg) (b : SReg) (h : op < 256) : opcodeOf (encAVS op y d a b) = op := by
  have := d.isLt
  have := a.isLt
  have := b.isLt
  have := bool_toNat_lt y
  simp only [opcodeOf, field, encAVS, wordBase] at *
  omega

theorem encAVS_lt (op : Nat) (y : Bool) (d : AccReg) (a : VReg) (b : SReg) (h : op < 256) : encAVS op y d a b < 2 ^ 32 := by
  have := d.isLt
  have := a.isLt
  have := b.isLt
  have := bool_toNat_lt y
  simp only [encAVS, wordBase] at *
  omega

theorem decAVS_encAVS (c : Bool → AccReg → VReg → SReg → Instr) (op : Nat) (y : Bool) (d : AccReg) (a : VReg) (b : SReg) (h : op < 256) :
    decAVS c (encAVS op y d a b) = .ok (c y d a b) := by
  have := d.isLt
  have := a.isLt
  have := b.isLt
  have := bool_toNat_lt y
  generalize hw : encAVS op y d a b = w
  replace hw := hw.symm
  have hy : markerOf w = y := bit_of (by simp only [hw, encAVS, wordBase]; omega)
  have h0 : fourAt w 16 = d := fourAt_of (by simp only [hw, encAVS, wordBase]; omega)
  have h1 : vecAt w 9 = a := vecAt_of (by simp only [hw, encAVS, wordBase]; omega)
  have h2 : scaAt w 2 = b := scaAt_of (by simp only [hw, encAVS, wordBase]; omega)
  have z0 : zero w 0 2 = true := zero_of (by simp only [hw, encAVS, wordBase]; omega)
  have z1 : zero w 18 5 = true := zero_of (by simp only [hw, encAVS, wordBase]; omega)
  have z2 : zero w 8 1 = true := zero_of (by simp only [hw, encAVS, wordBase]; omega)
  simp only [decAVS, fieldsThen, hy, h0, h1, h2, z0, z1, z2, Bool.and_self, if_true]

theorem opcodeOf_encSAB (op : Nat) (y : Bool) (a : SReg) (b : SReg) (h : op < 256) : opcodeOf (encSAB op y a b) = op := by
  have := a.isLt
  have := b.isLt
  have := bool_toNat_lt y
  simp only [opcodeOf, field, encSAB, wordBase] at *
  omega

theorem encSAB_lt (op : Nat) (y : Bool) (a : SReg) (b : SReg) (h : op < 256) : encSAB op y a b < 2 ^ 32 := by
  have := a.isLt
  have := b.isLt
  have := bool_toNat_lt y
  simp only [encSAB, wordBase] at *
  omega

theorem decSAB_encSAB (c : Bool → SReg → SReg → Instr) (op : Nat) (y : Bool) (a : SReg) (b : SReg) (h : op < 256) :
    decSAB c (encSAB op y a b) = .ok (c y a b) := by
  have := a.isLt
  have := b.isLt
  have := bool_toNat_lt y
  generalize hw : encSAB op y a b = w
  replace hw := hw.symm
  have hy : markerOf w = y := bit_of (by simp only [hw, encSAB, wordBase]; omega)
  have h0 : scaAt w 9 = a := scaAt_of (by simp only [hw, encSAB, wordBase]; omega)
  have h1 : scaAt w 2 = b := scaAt_of (by simp only [hw, encSAB, wordBase]; omega)
  have z0 : zero w 0 2 = true := zero_of (by simp only [hw, encSAB, wordBase]; omega)
  have z1 : zero w 16 7 = true := zero_of (by simp only [hw, encSAB, wordBase]; omega)
  have z2 : zero w 15 1 = true := zero_of (by simp only [hw, encSAB, wordBase]; omega)
  have z3 : zero w 8 1 = true := zero_of (by simp only [hw, encSAB, wordBase]; omega)
  simp only [decSAB, fieldsThen, hy, h0, h1, z0, z1, z2, z3, Bool.and_self, if_true]

theorem opcodeOf_encVAB (op : Nat) (y : Bool) (a : VReg) (b : SReg) (h : op < 256) : opcodeOf (encVAB op y a b) = op := by
  have := a.isLt
  have := b.isLt
  have := bool_toNat_lt y
  simp only [opcodeOf, field, encVAB, wordBase] at *
  omega

theorem encVAB_lt (op : Nat) (y : Bool) (a : VReg) (b : SReg) (h : op < 256) : encVAB op y a b < 2 ^ 32 := by
  have := a.isLt
  have := b.isLt
  have := bool_toNat_lt y
  simp only [encVAB, wordBase] at *
  omega

theorem decVAB_encVAB (c : Bool → VReg → SReg → Instr) (op : Nat) (y : Bool) (a : VReg) (b : SReg) (h : op < 256) :
    decVAB c (encVAB op y a b) = .ok (c y a b) := by
  have := a.isLt
  have := b.isLt
  have := bool_toNat_lt y
  generalize hw : encVAB op y a b = w
  replace hw := hw.symm
  have hy : markerOf w = y := bit_of (by simp only [hw, encVAB, wordBase]; omega)
  have h0 : vecAt w 9 = a := vecAt_of (by simp only [hw, encVAB, wordBase]; omega)
  have h1 : scaAt w 2 = b := scaAt_of (by simp only [hw, encVAB, wordBase]; omega)
  have z0 : zero w 0 2 = true := zero_of (by simp only [hw, encVAB, wordBase]; omega)
  have z1 : zero w 16 7 = true := zero_of (by simp only [hw, encVAB, wordBase]; omega)
  have z2 : zero w 8 1 = true := zero_of (by simp only [hw, encVAB, wordBase]; omega)
  simp only [decVAB, fieldsThen, hy, h0, h1, z0, z1, z2, Bool.and_self, if_true]

theorem opcodeOf_encVVI (op : Nat) (y : Bool) (d : VReg) (a : VReg) (i : BitVec 9) (h : op < 256) : opcodeOf (encVVI op y d a i) = op := by
  have := d.isLt
  have := a.isLt
  have := i.isLt
  have := bool_toNat_lt y
  simp only [opcodeOf, field, encVVI, wordBase] at *
  omega

theorem encVVI_lt (op : Nat) (y : Bool) (d : VReg) (a : VReg) (i : BitVec 9) (h : op < 256) : encVVI op y d a i < 2 ^ 32 := by
  have := d.isLt
  have := a.isLt
  have := i.isLt
  have := bool_toNat_lt y
  simp only [encVVI, wordBase] at *
  omega

theorem decVVI_encVVI (c : Bool → VReg → VReg → BitVec 9 → Instr) (op : Nat) (y : Bool) (d : VReg) (a : VReg) (i : BitVec 9) (h : op < 256) :
    decVVI c (encVVI op y d a i) = .ok (c y d a i) := by
  have := d.isLt
  have := a.isLt
  have := i.isLt
  have := bool_toNat_lt y
  generalize hw : encVVI op y d a i = w
  replace hw := hw.symm
  have hy : markerOf w = y := bit_of (by simp only [hw, encVVI, wordBase]; omega)
  have h0 : vecAt w 16 = d := vecAt_of (by simp only [hw, encVVI, wordBase]; omega)
  have h1 : vecAt w 9 = a := vecAt_of (by simp only [hw, encVVI, wordBase]; omega)
  have h2 : BitVec.ofNat 9 (w / 2 ^ 0) = i := bits_of (by simp only [hw, encVVI, wordBase]; omega)
  simp only [decVVI, fieldsThen, hy, h0, h1, h2, Bool.and_self, if_true]

theorem opcodeOf_encVVN (op : Nat) (y : Bool) (d : VReg) (a : VReg) (n : Fin 32) (h : op < 256) : opcodeOf (encVVN op y d a n) = op := by
  have := d.isLt
  have := a.isLt
  have := n.isLt
  have := bool_toNat_lt y
  simp only [opcodeOf, field, encVVN, wordBase] at *
  omega

theorem encVVN_lt (op : Nat) (y : Bool) (d : VReg) (a : VReg) (n : Fin 32) (h : op < 256) : encVVN op y d a n < 2 ^ 32 := by
  have := d.isLt
  have := a.isLt
  have := n.isLt
  have := bool_toNat_lt y
  simp only [encVVN, wordBase] at *
  omega

theorem decVVN_encVVN (c : Bool → VReg → VReg → Fin 32 → Instr) (op : Nat) (y : Bool) (d : VReg) (a : VReg) (n : Fin 32) (h : op < 256) :
    decVVN c (encVVN op y d a n) = .ok (c y d a n) := by
  have := d.isLt
  have := a.isLt
  have := n.isLt
  have := bool_toNat_lt y
  generalize hw : encVVN op y d a n = w
  replace hw := hw.symm
  have hy : markerOf w = y := bit_of (by simp only [hw, encVVN, wordBase]; omega)
  have h0 : vecAt w 16 = d := vecAt_of (by simp only [hw, encVVN, wordBase]; omega)
  have h1 : vecAt w 9 = a := vecAt_of (by simp only [hw, encVVN, wordBase]; omega)
  have h2 : Fin.ofNat 32 (w / 2 ^ 0) = n := fin_of (by simp only [hw, encVVN, wordBase]; omega)
  have z0 : zero w 5 4 = true := zero_of (by simp only [hw, encVVN, wordBase]; omega)
  simp only [decVVN, fieldsThen, hy, h0, h1, h2, z0, Bool.and_self, if_true]

theorem opcodeOf_encSSI (op : Nat) (y : Bool) (d : SReg) (a : SReg) (i : BitVec 9) (h : op < 256) : opcodeOf (encSSI op y d a i) = op := by
  have := d.isLt
  have := a.isLt
  have := i.isLt
  have := bool_toNat_lt y
  simp only [opcodeOf, field, encSSI, wordBase] at *
  omega

theorem encSSI_lt (op : Nat) (y : Bool) (d : SReg) (a : SReg) (i : BitVec 9) (h : op < 256) : encSSI op y d a i < 2 ^ 32 := by
  have := d.isLt
  have := a.isLt
  have := i.isLt
  have := bool_toNat_lt y
  simp only [encSSI, wordBase] at *
  omega

theorem decSSI_encSSI (c : Bool → SReg → SReg → BitVec 9 → Instr) (op : Nat) (y : Bool) (d : SReg) (a : SReg) (i : BitVec 9) (h : op < 256) :
    decSSI c (encSSI op y d a i) = .ok (c y d a i) := by
  have := d.isLt
  have := a.isLt
  have := i.isLt
  have := bool_toNat_lt y
  generalize hw : encSSI op y d a i = w
  replace hw := hw.symm
  have hy : markerOf w = y := bit_of (by simp only [hw, encSSI, wordBase]; omega)
  have h0 : scaAt w 16 = d := scaAt_of (by simp only [hw, encSSI, wordBase]; omega)
  have h1 : scaAt w 9 = a := scaAt_of (by simp only [hw, encSSI, wordBase]; omega)
  have h2 : BitVec.ofNat 9 (w / 2 ^ 0) = i := bits_of (by simp only [hw, encSSI, wordBase]; omega)
  have z0 : zero w 22 1 = true := zero_of (by simp only [hw, encSSI, wordBase]; omega)
  have z1 : zero w 15 1 = true := zero_of (by simp only [hw, encSSI, wordBase]; omega)
  simp only [decSSI, fieldsThen, hy, h0, h1, h2, z0, z1, Bool.and_self, if_true]

theorem opcodeOf_encVVE (op : Nat) (y : Bool) (d : VReg) (a : VReg) (e : Fin 8) (h : op < 256) : opcodeOf (encVVE op y d a e) = op := by
  have := d.isLt
  have := a.isLt
  have := e.isLt
  have := bool_toNat_lt y
  simp only [opcodeOf, field, encVVE, wordBase] at *
  omega

theorem encVVE_lt (op : Nat) (y : Bool) (d : VReg) (a : VReg) (e : Fin 8) (h : op < 256) : encVVE op y d a e < 2 ^ 32 := by
  have := d.isLt
  have := a.isLt
  have := e.isLt
  have := bool_toNat_lt y
  simp only [encVVE, wordBase] at *
  omega

theorem decVVE_encVVE (c : Bool → VReg → VReg → Fin 8 → Instr) (op : Nat) (y : Bool) (d : VReg) (a : VReg) (e : Fin 8) (h : op < 256) :
    decVVE c (encVVE op y d a e) = .ok (c y d a e) := by
  have := d.isLt
  have := a.isLt
  have := e.isLt
  have := bool_toNat_lt y
  generalize hw : encVVE op y d a e = w
  replace hw := hw.symm
  have hy : markerOf w = y := bit_of (by simp only [hw, encVVE, wordBase]; omega)
  have h0 : vecAt w 16 = d := vecAt_of (by simp only [hw, encVVE, wordBase]; omega)
  have h1 : vecAt w 9 = a := vecAt_of (by simp only [hw, encVVE, wordBase]; omega)
  have h2 : Fin.ofNat 8 (w / 2 ^ 0) = e := fin_of (by simp only [hw, encVVE, wordBase]; omega)
  have z0 : zero w 3 6 = true := zero_of (by simp only [hw, encVVE, wordBase]; omega)
  simp only [decVVE, fieldsThen, hy, h0, h1, h2, z0, Bool.and_self, if_true]

theorem opcodeOf_encQBC (op : Nat) (y : Bool) (d : VReg) (a : VReg) (l : Fin 4) (h : op < 256) : opcodeOf (encQBC op y d a l) = op := by
  have := d.isLt
  have := a.isLt
  have := l.isLt
  have := bool_toNat_lt y
  simp only [opcodeOf, field, encQBC, wordBase] at *
  omega

theorem encQBC_lt (op : Nat) (y : Bool) (d : VReg) (a : VReg) (l : Fin 4) (h : op < 256) : encQBC op y d a l < 2 ^ 32 := by
  have := d.isLt
  have := a.isLt
  have := l.isLt
  have := bool_toNat_lt y
  simp only [encQBC, wordBase] at *
  omega

theorem decQBC_encQBC (c : Bool → VReg → VReg → Fin 4 → Instr) (op : Nat) (y : Bool) (d : VReg) (a : VReg) (l : Fin 4) (h : op < 256) :
    decQBC c (encQBC op y d a l) = .ok (c y d a l) := by
  have := d.isLt
  have := a.isLt
  have := l.isLt
  have := bool_toNat_lt y
  generalize hw : encQBC op y d a l = w
  replace hw := hw.symm
  have hy : markerOf w = y := bit_of (by simp only [hw, encQBC, wordBase]; omega)
  have h0 : vecAt w 16 = d := vecAt_of (by simp only [hw, encQBC, wordBase]; omega)
  have h1 : vecAt w 9 = a := vecAt_of (by simp only [hw, encQBC, wordBase]; omega)
  have h2 : Fin.ofNat 4 (w / 2 ^ 0) = l := fin_of (by simp only [hw, encQBC, wordBase]; omega)
  have z0 : zero w 2 7 = true := zero_of (by simp only [hw, encQBC, wordBase]; omega)
  simp only [decQBC, fieldsThen, hy, h0, h1, h2, z0, Bool.and_self, if_true]

theorem opcodeOf_encLDU (op : Nat) (y : Bool) (d : SReg) (a : SReg) (z : Fin 8) (i : BitVec 6) (h : op < 256) : opcodeOf (encLDU op y d a z i) = op := by
  have := d.isLt
  have := a.isLt
  have := z.isLt
  have := i.isLt
  have := bool_toNat_lt y
  simp only [opcodeOf, field, encLDU, wordBase] at *
  omega

theorem encLDU_lt (op : Nat) (y : Bool) (d : SReg) (a : SReg) (z : Fin 8) (i : BitVec 6) (h : op < 256) : encLDU op y d a z i < 2 ^ 32 := by
  have := d.isLt
  have := a.isLt
  have := z.isLt
  have := i.isLt
  have := bool_toNat_lt y
  simp only [encLDU, wordBase] at *
  omega

theorem decLDU_encLDU (c : Bool → SReg → SReg → Fin 8 → BitVec 6 → Instr) (op : Nat) (y : Bool) (d : SReg) (a : SReg) (z : Fin 8) (i : BitVec 6) (h : op < 256) :
    decLDU c (encLDU op y d a z i) = .ok (c y d a z i) := by
  have := d.isLt
  have := a.isLt
  have := z.isLt
  have := i.isLt
  have := bool_toNat_lt y
  generalize hw : encLDU op y d a z i = w
  replace hw := hw.symm
  have hy : markerOf w = y := bit_of (by simp only [hw, encLDU, wordBase]; omega)
  have h0 : scaAt w 16 = d := scaAt_of (by simp only [hw, encLDU, wordBase]; omega)
  have h1 : scaAt w 9 = a := scaAt_of (by simp only [hw, encLDU, wordBase]; omega)
  have h2 : Fin.ofNat 8 (w / 2 ^ 6) = z := fin_of (by simp only [hw, encLDU, wordBase]; omega)
  have h3 : BitVec.ofNat 6 (w / 2 ^ 0) = i := bits_of (by simp only [hw, encLDU, wordBase]; omega)
  have z0 : zero w 22 1 = true := zero_of (by simp only [hw, encLDU, wordBase]; omega)
  have z1 : zero w 15 1 = true := zero_of (by simp only [hw, encLDU, wordBase]; omega)
  simp only [decLDU, fieldsThen, hy, h0, h1, h2, h3, z0, z1, Bool.and_self, if_true]

theorem opcodeOf_encVI (op : Nat) (y : Bool) (d : VReg) (i : BitVec 16) (h : op < 256) : opcodeOf (encVI op y d i) = op := by
  have := d.isLt
  have := i.isLt
  have := bool_toNat_lt y
  simp only [opcodeOf, field, encVI, wordBase] at *
  omega

theorem encVI_lt (op : Nat) (y : Bool) (d : VReg) (i : BitVec 16) (h : op < 256) : encVI op y d i < 2 ^ 32 := by
  have := d.isLt
  have := i.isLt
  have := bool_toNat_lt y
  simp only [encVI, wordBase] at *
  omega

theorem decVI_encVI (c : Bool → VReg → BitVec 16 → Instr) (op : Nat) (y : Bool) (d : VReg) (i : BitVec 16) (h : op < 256) :
    decVI c (encVI op y d i) = .ok (c y d i) := by
  have := d.isLt
  have := i.isLt
  have := bool_toNat_lt y
  generalize hw : encVI op y d i = w
  replace hw := hw.symm
  have hy : markerOf w = y := bit_of (by simp only [hw, encVI, wordBase]; omega)
  have h0 : vecAt w 16 = d := vecAt_of (by simp only [hw, encVI, wordBase]; omega)
  have h1 : BitVec.ofNat 16 (w / 2 ^ 0) = i := bits_of (by simp only [hw, encVI, wordBase]; omega)
  simp only [decVI, fieldsThen, hy, h0, h1, Bool.and_self, if_true]

theorem opcodeOf_encSI (op : Nat) (y : Bool) (d : SReg) (i : BitVec 16) (h : op < 256) : opcodeOf (encSI op y d i) = op := by
  have := d.isLt
  have := i.isLt
  have := bool_toNat_lt y
  simp only [opcodeOf, field, encSI, wordBase] at *
  omega

theorem encSI_lt (op : Nat) (y : Bool) (d : SReg) (i : BitVec 16) (h : op < 256) : encSI op y d i < 2 ^ 32 := by
  have := d.isLt
  have := i.isLt
  have := bool_toNat_lt y
  simp only [encSI, wordBase] at *
  omega

theorem decSI_encSI (c : Bool → SReg → BitVec 16 → Instr) (op : Nat) (y : Bool) (d : SReg) (i : BitVec 16) (h : op < 256) :
    decSI c (encSI op y d i) = .ok (c y d i) := by
  have := d.isLt
  have := i.isLt
  have := bool_toNat_lt y
  generalize hw : encSI op y d i = w
  replace hw := hw.symm
  have hy : markerOf w = y := bit_of (by simp only [hw, encSI, wordBase]; omega)
  have h0 : scaAt w 16 = d := scaAt_of (by simp only [hw, encSI, wordBase]; omega)
  have h1 : BitVec.ofNat 16 (w / 2 ^ 0) = i := bits_of (by simp only [hw, encSI, wordBase]; omega)
  have z0 : zero w 22 1 = true := zero_of (by simp only [hw, encSI, wordBase]; omega)
  simp only [decSI, fieldsThen, hy, h0, h1, z0, Bool.and_self, if_true]

theorem opcodeOf_encI (op : Nat) (y : Bool) (i : BitVec 16) (h : op < 256) : opcodeOf (encI op y i) = op := by
  have := i.isLt
  have := bool_toNat_lt y
  simp only [opcodeOf, field, encI, wordBase] at *
  omega

theorem encI_lt (op : Nat) (y : Bool) (i : BitVec 16) (h : op < 256) : encI op y i < 2 ^ 32 := by
  have := i.isLt
  have := bool_toNat_lt y
  simp only [encI, wordBase] at *
  omega

theorem decI_encI (c : Bool → BitVec 16 → Instr) (op : Nat) (y : Bool) (i : BitVec 16) (h : op < 256) :
    decI c (encI op y i) = .ok (c y i) := by
  have := i.isLt
  have := bool_toNat_lt y
  generalize hw : encI op y i = w
  replace hw := hw.symm
  have hy : markerOf w = y := bit_of (by simp only [hw, encI, wordBase]; omega)
  have h0 : BitVec.ofNat 16 (w / 2 ^ 0) = i := bits_of (by simp only [hw, encI, wordBase]; omega)
  have z0 : zero w 16 7 = true := zero_of (by simp only [hw, encI, wordBase]; omega)
  simp only [decI, fieldsThen, hy, h0, z0, Bool.and_self, if_true]

theorem opcodeOf_encRDSPEC (op : Nat) (y : Bool) (d : VReg) (sel : Fin 16) (h : op < 256) : opcodeOf (encRDSPEC op y d sel) = op := by
  have := d.isLt
  have := sel.isLt
  have := bool_toNat_lt y
  simp only [opcodeOf, field, encRDSPEC, wordBase] at *
  omega

theorem encRDSPEC_lt (op : Nat) (y : Bool) (d : VReg) (sel : Fin 16) (h : op < 256) : encRDSPEC op y d sel < 2 ^ 32 := by
  have := d.isLt
  have := sel.isLt
  have := bool_toNat_lt y
  simp only [encRDSPEC, wordBase] at *
  omega

theorem decRDSPEC_encRDSPEC (c : Bool → VReg → Fin 16 → Instr) (op : Nat) (y : Bool) (d : VReg) (sel : Fin 16) (h : op < 256) :
    decRDSPEC c (encRDSPEC op y d sel) = .ok (c y d sel) := by
  have := d.isLt
  have := sel.isLt
  have := bool_toNat_lt y
  generalize hw : encRDSPEC op y d sel = w
  replace hw := hw.symm
  have hy : markerOf w = y := bit_of (by simp only [hw, encRDSPEC, wordBase]; omega)
  have h0 : vecAt w 16 = d := vecAt_of (by simp only [hw, encRDSPEC, wordBase]; omega)
  have h1 : Fin.ofNat 16 (w / 2 ^ 0) = sel := fin_of (by simp only [hw, encRDSPEC, wordBase]; omega)
  have z0 : zero w 4 12 = true := zero_of (by simp only [hw, encRDSPEC, wordBase]; omega)
  simp only [decRDSPEC, fieldsThen, hy, h0, h1, z0, Bool.and_self, if_true]

theorem opcodeOf_encFRAME (op : Nat) (y : Bool) (nin : Fin 32) (nloc : Fin 64) (nout : Fin 32) (h : op < 256) : opcodeOf (encFRAME op y nin nloc nout) = op := by
  have := nin.isLt
  have := nloc.isLt
  have := nout.isLt
  have := bool_toNat_lt y
  simp only [opcodeOf, field, encFRAME, wordBase] at *
  omega

theorem encFRAME_lt (op : Nat) (y : Bool) (nin : Fin 32) (nloc : Fin 64) (nout : Fin 32) (h : op < 256) : encFRAME op y nin nloc nout < 2 ^ 32 := by
  have := nin.isLt
  have := nloc.isLt
  have := nout.isLt
  have := bool_toNat_lt y
  simp only [encFRAME, wordBase] at *
  omega

theorem decFRAME_encFRAME (c : Bool → Fin 32 → Fin 64 → Fin 32 → Instr) (op : Nat) (y : Bool) (nin : Fin 32) (nloc : Fin 64) (nout : Fin 32) (h : op < 256) :
    decFRAME c (encFRAME op y nin nloc nout) = .ok (c y nin nloc nout) := by
  have := nin.isLt
  have := nloc.isLt
  have := nout.isLt
  have := bool_toNat_lt y
  generalize hw : encFRAME op y nin nloc nout = w
  replace hw := hw.symm
  have hy : markerOf w = y := bit_of (by simp only [hw, encFRAME, wordBase]; omega)
  have h0 : Fin.ofNat 32 (w / 2 ^ 0) = nin := fin_of (by simp only [hw, encFRAME, wordBase]; omega)
  have h1 : Fin.ofNat 64 (w / 2 ^ 5) = nloc := fin_of (by simp only [hw, encFRAME, wordBase]; omega)
  have h2 : Fin.ofNat 32 (w / 2 ^ 11) = nout := fin_of (by simp only [hw, encFRAME, wordBase]; omega)
  have z0 : zero w 16 7 = true := zero_of (by simp only [hw, encFRAME, wordBase]; omega)
  simp only [decFRAME, fieldsThen, hy, h0, h1, h2, z0, Bool.and_self, if_true]

theorem opcodeOf_encBAR (op : Nat) (y : Bool) (n : Fin 16) (h : op < 256) : opcodeOf (encBAR op y n) = op := by
  have := n.isLt
  have := bool_toNat_lt y
  simp only [opcodeOf, field, encBAR, wordBase] at *
  omega

theorem encBAR_lt (op : Nat) (y : Bool) (n : Fin 16) (h : op < 256) : encBAR op y n < 2 ^ 32 := by
  have := n.isLt
  have := bool_toNat_lt y
  simp only [encBAR, wordBase] at *
  omega

theorem decBAR_encBAR (c : Bool → Fin 16 → Instr) (op : Nat) (y : Bool) (n : Fin 16) (h : op < 256) :
    decBAR c (encBAR op y n) = .ok (c y n) := by
  have := n.isLt
  have := bool_toNat_lt y
  generalize hw : encBAR op y n = w
  replace hw := hw.symm
  have hy : markerOf w = y := bit_of (by simp only [hw, encBAR, wordBase]; omega)
  have h0 : Fin.ofNat 16 (w / 2 ^ 0) = n := fin_of (by simp only [hw, encBAR, wordBase]; omega)
  have z0 : zero w 4 12 = true := zero_of (by simp only [hw, encBAR, wordBase]; omega)
  have z1 : zero w 16 7 = true := zero_of (by simp only [hw, encBAR, wordBase]; omega)
  simp only [decBAR, fieldsThen, hy, h0, z0, z1, Bool.and_self, if_true]

theorem opcodeOf_encMO (op : Nat) (y : Bool) (m : MReg) (o : BitVec 16) (h : op < 256) : opcodeOf (encMO op y m o) = op := by
  have := m.isLt
  have := o.isLt
  have := bool_toNat_lt y
  simp only [opcodeOf, field, encMO, wordBase] at *
  omega

theorem encMO_lt (op : Nat) (y : Bool) (m : MReg) (o : BitVec 16) (h : op < 256) : encMO op y m o < 2 ^ 32 := by
  have := m.isLt
  have := o.isLt
  have := bool_toNat_lt y
  simp only [encMO, wordBase] at *
  omega

theorem decMO_encMO (c : Bool → MReg → BitVec 16 → Instr) (op : Nat) (y : Bool) (m : MReg) (o : BitVec 16) (h : op < 256) :
    decMO c (encMO op y m o) = .ok (c y m o) := by
  have := m.isLt
  have := o.isLt
  have := bool_toNat_lt y
  generalize hw : encMO op y m o = w
  replace hw := hw.symm
  have hy : markerOf w = y := bit_of (by simp only [hw, encMO, wordBase]; omega)
  have h0 : eightAt w 16 = m := eightAt_of (by simp only [hw, encMO, wordBase]; omega)
  have h1 : BitVec.ofNat 16 (w / 2 ^ 0) = o := bits_of (by simp only [hw, encMO, wordBase]; omega)
  have z0 : zero w 19 4 = true := zero_of (by simp only [hw, encMO, wordBase]; omega)
  simp only [decMO, fieldsThen, hy, h0, h1, z0, Bool.and_self, if_true]

theorem opcodeOf_encO (op : Nat) (y : Bool) (o : BitVec 16) (h : op < 256) : opcodeOf (encO op y o) = op := by
  have := o.isLt
  have := bool_toNat_lt y
  simp only [opcodeOf, field, encO, wordBase] at *
  omega

theorem encO_lt (op : Nat) (y : Bool) (o : BitVec 16) (h : op < 256) : encO op y o < 2 ^ 32 := by
  have := o.isLt
  have := bool_toNat_lt y
  simp only [encO, wordBase] at *
  omega

theorem decO_encO (c : Bool → BitVec 16 → Instr) (op : Nat) (y : Bool) (o : BitVec 16) (h : op < 256) :
    decO c (encO op y o) = .ok (c y o) := by
  have := o.isLt
  have := bool_toNat_lt y
  generalize hw : encO op y o = w
  replace hw := hw.symm
  have hy : markerOf w = y := bit_of (by simp only [hw, encO, wordBase]; omega)
  have h0 : BitVec.ofNat 16 (w / 2 ^ 0) = o := bits_of (by simp only [hw, encO, wordBase]; omega)
  have z0 : zero w 16 7 = true := zero_of (by simp only [hw, encO, wordBase]; omega)
  simp only [decO, fieldsThen, hy, h0, z0, Bool.and_self, if_true]

theorem opcodeOf_encENDIF (op : Nat) (y : Bool) (h : op < 256) : opcodeOf (encENDIF op y) = op := by
  have := bool_toNat_lt y
  simp only [opcodeOf, field, encENDIF, wordBase] at *
  omega

theorem encENDIF_lt (op : Nat) (y : Bool) (h : op < 256) : encENDIF op y < 2 ^ 32 := by
  have := bool_toNat_lt y
  simp only [encENDIF, wordBase] at *
  omega

theorem decENDIF_encENDIF (c : Bool → Instr) (op : Nat) (y : Bool) (h : op < 256) :
    decENDIF c (encENDIF op y) = .ok (c y) := by
  have := bool_toNat_lt y
  generalize hw : encENDIF op y = w
  replace hw := hw.symm
  have hy : markerOf w = y := bit_of (by simp only [hw, encENDIF, wordBase]; omega)
  have z0 : zero w 0 23 = true := zero_of (by simp only [hw, encENDIF, wordBase]; omega)
  simp only [decENDIF, fieldsThen, hy, z0, Bool.and_self, if_true]

theorem opcodeOf_encMN (op : Nat) (y : Bool) (m : MReg) (n : Fin 64) (h : op < 256) : opcodeOf (encMN op y m n) = op := by
  have := m.isLt
  have := n.isLt
  have := bool_toNat_lt y
  simp only [opcodeOf, field, encMN, wordBase] at *
  omega

theorem encMN_lt (op : Nat) (y : Bool) (m : MReg) (n : Fin 64) (h : op < 256) : encMN op y m n < 2 ^ 32 := by
  have := m.isLt
  have := n.isLt
  have := bool_toNat_lt y
  simp only [encMN, wordBase] at *
  omega

theorem decMN_encMN (c : Bool → MReg → Fin 64 → Instr) (op : Nat) (y : Bool) (m : MReg) (n : Fin 64) (h : op < 256) :
    decMN c (encMN op y m n) = .ok (c y m n) := by
  have := m.isLt
  have := n.isLt
  have := bool_toNat_lt y
  generalize hw : encMN op y m n = w
  replace hw := hw.symm
  have hy : markerOf w = y := bit_of (by simp only [hw, encMN, wordBase]; omega)
  have h0 : eightAt w 16 = m := eightAt_of (by simp only [hw, encMN, wordBase]; omega)
  have h1 : Fin.ofNat 64 (w / 2 ^ 0) = n := fin_of (by simp only [hw, encMN, wordBase]; omega)
  have z0 : zero w 6 10 = true := zero_of (by simp only [hw, encMN, wordBase]; omega)
  have z1 : zero w 19 4 = true := zero_of (by simp only [hw, encMN, wordBase]; omega)
  simp only [decMN, fieldsThen, hy, h0, h1, z0, z1, Bool.and_self, if_true]

theorem opcodeOf_encSO (op : Nat) (y : Bool) (x : SReg) (o : BitVec 16) (h : op < 256) : opcodeOf (encSO op y x o) = op := by
  have := x.isLt
  have := o.isLt
  have := bool_toNat_lt y
  simp only [opcodeOf, field, encSO, wordBase] at *
  omega

theorem encSO_lt (op : Nat) (y : Bool) (x : SReg) (o : BitVec 16) (h : op < 256) : encSO op y x o < 2 ^ 32 := by
  have := x.isLt
  have := o.isLt
  have := bool_toNat_lt y
  simp only [encSO, wordBase] at *
  omega

theorem decSO_encSO (c : Bool → SReg → BitVec 16 → Instr) (op : Nat) (y : Bool) (x : SReg) (o : BitVec 16) (h : op < 256) :
    decSO c (encSO op y x o) = .ok (c y x o) := by
  have := x.isLt
  have := o.isLt
  have := bool_toNat_lt y
  generalize hw : encSO op y x o = w
  replace hw := hw.symm
  have hy : markerOf w = y := bit_of (by simp only [hw, encSO, wordBase]; omega)
  have h0 : scaAt w 16 = x := scaAt_of (by simp only [hw, encSO, wordBase]; omega)
  have h1 : BitVec.ofNat 16 (w / 2 ^ 0) = o := bits_of (by simp only [hw, encSO, wordBase]; omega)
  have z0 : zero w 22 1 = true := zero_of (by simp only [hw, encSO, wordBase]; omega)
  simp only [decSO, fieldsThen, hy, h0, h1, z0, Bool.and_self, if_true]

theorem opcodeOf_encJ (op : Nat) (y : Bool) (o : BitVec 23) (h : op < 256) : opcodeOf (encJ op y o) = op := by
  have := o.isLt
  have := bool_toNat_lt y
  simp only [opcodeOf, field, encJ, wordBase] at *
  omega

theorem encJ_lt (op : Nat) (y : Bool) (o : BitVec 23) (h : op < 256) : encJ op y o < 2 ^ 32 := by
  have := o.isLt
  have := bool_toNat_lt y
  simp only [encJ, wordBase] at *
  omega

theorem decJ_encJ (c : Bool → BitVec 23 → Instr) (op : Nat) (y : Bool) (o : BitVec 23) (h : op < 256) :
    decJ c (encJ op y o) = .ok (c y o) := by
  have := o.isLt
  have := bool_toNat_lt y
  generalize hw : encJ op y o = w
  replace hw := hw.symm
  have hy : markerOf w = y := bit_of (by simp only [hw, encJ, wordBase]; omega)
  have h0 : BitVec.ofNat 23 (w / 2 ^ 0) = o := bits_of (by simp only [hw, encJ, wordBase]; omega)
  simp only [decJ, fieldsThen, hy, h0, Bool.and_self, if_true]

theorem opcodeOf_encMEM (op : Nat) (y : Bool) (d : VReg) (a : VReg) (s : SReg) (z : Fin 8) (h : op < 256) : opcodeOf (encMEM op y d a s z) = op := by
  have := d.isLt
  have := a.isLt
  have := s.isLt
  have := z.isLt
  have := bool_toNat_lt y
  simp only [opcodeOf, field, encMEM, wordBase] at *
  omega

theorem encMEM_lt (op : Nat) (y : Bool) (d : VReg) (a : VReg) (s : SReg) (z : Fin 8) (h : op < 256) : encMEM op y d a s z < 2 ^ 32 := by
  have := d.isLt
  have := a.isLt
  have := s.isLt
  have := z.isLt
  have := bool_toNat_lt y
  simp only [encMEM, wordBase] at *
  omega

theorem decMEM_encMEM (c : Bool → VReg → VReg → SReg → Fin 8 → Instr) (op : Nat) (y : Bool) (d : VReg) (a : VReg) (s : SReg) (z : Fin 8) (h : op < 256) :
    decMEM c (encMEM op y d a s z) = .ok (c y d a s z) := by
  have := d.isLt
  have := a.isLt
  have := s.isLt
  have := z.isLt
  have := bool_toNat_lt y
  generalize hw : encMEM op y d a s z = w
  replace hw := hw.symm
  have hy : markerOf w = y := bit_of (by simp only [hw, encMEM, wordBase]; omega)
  have h0 : vecAt w 16 = d := vecAt_of (by simp only [hw, encMEM, wordBase]; omega)
  have h1 : vecAt w 9 = a := vecAt_of (by simp only [hw, encMEM, wordBase]; omega)
  have h2 : scaAt w 3 = s := scaAt_of (by simp only [hw, encMEM, wordBase]; omega)
  have h3 : Fin.ofNat 8 (w / 2 ^ 0) = z := fin_of (by simp only [hw, encMEM, wordBase]; omega)
  simp only [decMEM, fieldsThen, hy, h0, h1, h2, h3, Bool.and_self, if_true]

theorem opcodeOf_encATOM (op : Nat) (y : Bool) (d : VReg) (a : VReg) (s : SReg) (ord : Fin 4) (wide : Bool) (h : op < 256) : opcodeOf (encATOM op y d a s ord wide) = op := by
  have := d.isLt
  have := a.isLt
  have := s.isLt
  have := ord.isLt
  have := bool_toNat_lt wide
  have := bool_toNat_lt y
  simp only [opcodeOf, field, encATOM, wordBase] at *
  omega

theorem encATOM_lt (op : Nat) (y : Bool) (d : VReg) (a : VReg) (s : SReg) (ord : Fin 4) (wide : Bool) (h : op < 256) : encATOM op y d a s ord wide < 2 ^ 32 := by
  have := d.isLt
  have := a.isLt
  have := s.isLt
  have := ord.isLt
  have := bool_toNat_lt wide
  have := bool_toNat_lt y
  simp only [encATOM, wordBase] at *
  omega

theorem decATOM_encATOM (c : Bool → VReg → VReg → SReg → Fin 4 → Bool → Instr) (op : Nat) (y : Bool) (d : VReg) (a : VReg) (s : SReg) (ord : Fin 4) (wide : Bool) (h : op < 256) :
    decATOM c (encATOM op y d a s ord wide) = .ok (c y d a s ord wide) := by
  have := d.isLt
  have := a.isLt
  have := s.isLt
  have := ord.isLt
  have := bool_toNat_lt wide
  have := bool_toNat_lt y
  generalize hw : encATOM op y d a s ord wide = w
  replace hw := hw.symm
  have hy : markerOf w = y := bit_of (by simp only [hw, encATOM, wordBase]; omega)
  have h0 : vecAt w 16 = d := vecAt_of (by simp only [hw, encATOM, wordBase]; omega)
  have h1 : vecAt w 9 = a := vecAt_of (by simp only [hw, encATOM, wordBase]; omega)
  have h2 : scaAt w 3 = s := scaAt_of (by simp only [hw, encATOM, wordBase]; omega)
  have h3 : Fin.ofNat 4 (w / 2 ^ 1) = ord := fin_of (by simp only [hw, encATOM, wordBase]; omega)
  have h4 : bitAt w 0 = wide := bit_of (by simp only [hw, encATOM, wordBase]; omega)
  simp only [decATOM, fieldsThen, hy, h0, h1, h2, h3, h4, Bool.and_self, if_true]

theorem opcodeOf_encFENCE (op : Nat) (y : Bool) (z : Fin 8) (h : op < 256) : opcodeOf (encFENCE op y z) = op := by
  have := z.isLt
  have := bool_toNat_lt y
  simp only [opcodeOf, field, encFENCE, wordBase] at *
  omega

theorem encFENCE_lt (op : Nat) (y : Bool) (z : Fin 8) (h : op < 256) : encFENCE op y z < 2 ^ 32 := by
  have := z.isLt
  have := bool_toNat_lt y
  simp only [encFENCE, wordBase] at *
  omega

theorem decFENCE_encFENCE (c : Bool → Fin 8 → Instr) (op : Nat) (y : Bool) (z : Fin 8) (h : op < 256) :
    decFENCE c (encFENCE op y z) = .ok (c y z) := by
  have := z.isLt
  have := bool_toNat_lt y
  generalize hw : encFENCE op y z = w
  replace hw := hw.symm
  have hy : markerOf w = y := bit_of (by simp only [hw, encFENCE, wordBase]; omega)
  have h0 : Fin.ofNat 8 (w / 2 ^ 0) = z := fin_of (by simp only [hw, encFENCE, wordBase]; omega)
  have z0 : zero w 3 20 = true := zero_of (by simp only [hw, encFENCE, wordBase]; omega)
  simp only [decFENCE, fieldsThen, hy, h0, z0, Bool.and_self, if_true]

theorem opcodeOf_encCF (op : Nat) (y : Bool) (a : VReg) (s : SReg) (h : op < 256) : opcodeOf (encCF op y a s) = op := by
  have := a.isLt
  have := s.isLt
  have := bool_toNat_lt y
  simp only [opcodeOf, field, encCF, wordBase] at *
  omega

theorem encCF_lt (op : Nat) (y : Bool) (a : VReg) (s : SReg) (h : op < 256) : encCF op y a s < 2 ^ 32 := by
  have := a.isLt
  have := s.isLt
  have := bool_toNat_lt y
  simp only [encCF, wordBase] at *
  omega

theorem decCF_encCF (c : Bool → VReg → SReg → Instr) (op : Nat) (y : Bool) (a : VReg) (s : SReg) (h : op < 256) :
    decCF c (encCF op y a s) = .ok (c y a s) := by
  have := a.isLt
  have := s.isLt
  have := bool_toNat_lt y
  generalize hw : encCF op y a s = w
  replace hw := hw.symm
  have hy : markerOf w = y := bit_of (by simp only [hw, encCF, wordBase]; omega)
  have h0 : vecAt w 9 = a := vecAt_of (by simp only [hw, encCF, wordBase]; omega)
  have h1 : scaAt w 3 = s := scaAt_of (by simp only [hw, encCF, wordBase]; omega)
  have z0 : zero w 0 3 = true := zero_of (by simp only [hw, encCF, wordBase]; omega)
  have z1 : zero w 16 7 = true := zero_of (by simp only [hw, encCF, wordBase]; omega)
  simp only [decCF, fieldsThen, hy, h0, h1, z0, z1, Bool.and_self, if_true]

theorem opcodeOf_encPREF (op : Nat) (y : Bool) (a : VReg) (s : SReg) (z : Fin 8) (h : op < 256) : opcodeOf (encPREF op y a s z) = op := by
  have := a.isLt
  have := s.isLt
  have := z.isLt
  have := bool_toNat_lt y
  simp only [opcodeOf, field, encPREF, wordBase] at *
  omega

theorem encPREF_lt (op : Nat) (y : Bool) (a : VReg) (s : SReg) (z : Fin 8) (h : op < 256) : encPREF op y a s z < 2 ^ 32 := by
  have := a.isLt
  have := s.isLt
  have := z.isLt
  have := bool_toNat_lt y
  simp only [encPREF, wordBase] at *
  omega

theorem decPREF_encPREF (c : Bool → VReg → SReg → Fin 8 → Instr) (op : Nat) (y : Bool) (a : VReg) (s : SReg) (z : Fin 8) (h : op < 256) :
    decPREF c (encPREF op y a s z) = .ok (c y a s z) := by
  have := a.isLt
  have := s.isLt
  have := z.isLt
  have := bool_toNat_lt y
  generalize hw : encPREF op y a s z = w
  replace hw := hw.symm
  have hy : markerOf w = y := bit_of (by simp only [hw, encPREF, wordBase]; omega)
  have h0 : vecAt w 9 = a := vecAt_of (by simp only [hw, encPREF, wordBase]; omega)
  have h1 : scaAt w 3 = s := scaAt_of (by simp only [hw, encPREF, wordBase]; omega)
  have h2 : Fin.ofNat 8 (w / 2 ^ 0) = z := fin_of (by simp only [hw, encPREF, wordBase]; omega)
  have z0 : zero w 16 7 = true := zero_of (by simp only [hw, encPREF, wordBase]; omega)
  simp only [decPREF, fieldsThen, hy, h0, h1, h2, z0, Bool.and_self, if_true]

theorem opcodeOf_encMLDB (op : Nat) (y : Bool) (d : VReg) (s : SReg) (h : op < 256) : opcodeOf (encMLDB op y d s) = op := by
  have := d.isLt
  have := s.isLt
  have := bool_toNat_lt y
  simp only [opcodeOf, field, encMLDB, wordBase] at *
  omega

theorem encMLDB_lt (op : Nat) (y : Bool) (d : VReg) (s : SReg) (h : op < 256) : encMLDB op y d s < 2 ^ 32 := by
  have := d.isLt
  have := s.isLt
  have := bool_toNat_lt y
  simp only [encMLDB, wordBase] at *
  omega

theorem decMLDB_encMLDB (c : Bool → VReg → SReg → Instr) (op : Nat) (y : Bool) (d : VReg) (s : SReg) (h : op < 256) :
    decMLDB c (encMLDB op y d s) = .ok (c y d s) := by
  have := d.isLt
  have := s.isLt
  have := bool_toNat_lt y
  generalize hw : encMLDB op y d s = w
  replace hw := hw.symm
  have hy : markerOf w = y := bit_of (by simp only [hw, encMLDB, wordBase]; omega)
  have h0 : vecAt w 16 = d := vecAt_of (by simp only [hw, encMLDB, wordBase]; omega)
  have h1 : scaAt w 3 = s := scaAt_of (by simp only [hw, encMLDB, wordBase]; omega)
  have z0 : zero w 0 3 = true := zero_of (by simp only [hw, encMLDB, wordBase]; omega)
  have z1 : zero w 9 7 = true := zero_of (by simp only [hw, encMLDB, wordBase]; omega)
  simp only [decMLDB, fieldsThen, hy, h0, h1, z0, z1, Bool.and_self, if_true]

theorem opcodeOf_encTILE (op : Nat) (y : Bool) (d : VReg) (a : VReg) (s : SReg) (h : op < 256) : opcodeOf (encTILE op y d a s) = op := by
  have := d.isLt
  have := a.isLt
  have := s.isLt
  have := bool_toNat_lt y
  simp only [opcodeOf, field, encTILE, wordBase] at *
  omega

theorem encTILE_lt (op : Nat) (y : Bool) (d : VReg) (a : VReg) (s : SReg) (h : op < 256) : encTILE op y d a s < 2 ^ 32 := by
  have := d.isLt
  have := a.isLt
  have := s.isLt
  have := bool_toNat_lt y
  simp only [encTILE, wordBase] at *
  omega

theorem decTILE_encTILE (c : Bool → VReg → VReg → SReg → Instr) (op : Nat) (y : Bool) (d : VReg) (a : VReg) (s : SReg) (h : op < 256) :
    decTILE c (encTILE op y d a s) = .ok (c y d a s) := by
  have := d.isLt
  have := a.isLt
  have := s.isLt
  have := bool_toNat_lt y
  generalize hw : encTILE op y d a s = w
  replace hw := hw.symm
  have hy : markerOf w = y := bit_of (by simp only [hw, encTILE, wordBase]; omega)
  have h0 : vecAt w 16 = d := vecAt_of (by simp only [hw, encTILE, wordBase]; omega)
  have h1 : vecAt w 9 = a := vecAt_of (by simp only [hw, encTILE, wordBase]; omega)
  have h2 : scaAt w 3 = s := scaAt_of (by simp only [hw, encTILE, wordBase]; omega)
  have z0 : zero w 0 3 = true := zero_of (by simp only [hw, encTILE, wordBase]; omega)
  simp only [decTILE, fieldsThen, hy, h0, h1, h2, z0, Bool.and_self, if_true]

theorem opcodeOf_encTACT (op : Nat) (y : Bool) (d : VReg) (a : VReg) (s : SReg) (fn : Fin 8) (h : op < 256) : opcodeOf (encTACT op y d a s fn) = op := by
  have := d.isLt
  have := a.isLt
  have := s.isLt
  have := fn.isLt
  have := bool_toNat_lt y
  simp only [opcodeOf, field, encTACT, wordBase] at *
  omega

theorem encTACT_lt (op : Nat) (y : Bool) (d : VReg) (a : VReg) (s : SReg) (fn : Fin 8) (h : op < 256) : encTACT op y d a s fn < 2 ^ 32 := by
  have := d.isLt
  have := a.isLt
  have := s.isLt
  have := fn.isLt
  have := bool_toNat_lt y
  simp only [encTACT, wordBase] at *
  omega

theorem decTACT_encTACT (c : Bool → VReg → VReg → SReg → Fin 8 → Instr) (op : Nat) (y : Bool) (d : VReg) (a : VReg) (s : SReg) (fn : Fin 8) (h : op < 256) :
    decTACT c (encTACT op y d a s fn) = .ok (c y d a s fn) := by
  have := d.isLt
  have := a.isLt
  have := s.isLt
  have := fn.isLt
  have := bool_toNat_lt y
  generalize hw : encTACT op y d a s fn = w
  replace hw := hw.symm
  have hy : markerOf w = y := bit_of (by simp only [hw, encTACT, wordBase]; omega)
  have h0 : vecAt w 16 = d := vecAt_of (by simp only [hw, encTACT, wordBase]; omega)
  have h1 : vecAt w 9 = a := vecAt_of (by simp only [hw, encTACT, wordBase]; omega)
  have h2 : scaAt w 3 = s := scaAt_of (by simp only [hw, encTACT, wordBase]; omega)
  have h3 : Fin.ofNat 8 (w / 2 ^ 0) = fn := fin_of (by simp only [hw, encTACT, wordBase]; omega)
  simp only [decTACT, fieldsThen, hy, h0, h1, h2, h3, Bool.and_self, if_true]

theorem opcodeOf_encTST (op : Nat) (y : Bool) (d : VReg) (a : SReg) (s : SReg) (th : Fin 8) (h : op < 256) : opcodeOf (encTST op y d a s th) = op := by
  have := d.isLt
  have := a.isLt
  have := s.isLt
  have := th.isLt
  have := bool_toNat_lt y
  simp only [opcodeOf, field, encTST, wordBase] at *
  omega

theorem encTST_lt (op : Nat) (y : Bool) (d : VReg) (a : SReg) (s : SReg) (th : Fin 8) (h : op < 256) : encTST op y d a s th < 2 ^ 32 := by
  have := d.isLt
  have := a.isLt
  have := s.isLt
  have := th.isLt
  have := bool_toNat_lt y
  simp only [encTST, wordBase] at *
  omega

theorem decTST_encTST (c : Bool → VReg → SReg → SReg → Fin 8 → Instr) (op : Nat) (y : Bool) (d : VReg) (a : SReg) (s : SReg) (th : Fin 8) (h : op < 256) :
    decTST c (encTST op y d a s th) = .ok (c y d a s th) := by
  have := d.isLt
  have := a.isLt
  have := s.isLt
  have := th.isLt
  have := bool_toNat_lt y
  generalize hw : encTST op y d a s th = w
  replace hw := hw.symm
  have hy : markerOf w = y := bit_of (by simp only [hw, encTST, wordBase]; omega)
  have h0 : vecAt w 16 = d := vecAt_of (by simp only [hw, encTST, wordBase]; omega)
  have h1 : scaAt w 9 = a := scaAt_of (by simp only [hw, encTST, wordBase]; omega)
  have h2 : scaAt w 3 = s := scaAt_of (by simp only [hw, encTST, wordBase]; omega)
  have h3 : Fin.ofNat 8 (w / 2 ^ 0) = th := fin_of (by simp only [hw, encTST, wordBase]; omega)
  have z0 : zero w 15 1 = true := zero_of (by simp only [hw, encTST, wordBase]; omega)
  simp only [decTST, fieldsThen, hy, h0, h1, h2, h3, z0, Bool.and_self, if_true]

theorem opcodeOf_encTLD (op : Nat) (y : Bool) (d : VReg) (a : SReg) (s : SReg) (h : op < 256) : opcodeOf (encTLD op y d a s) = op := by
  have := d.isLt
  have := a.isLt
  have := s.isLt
  have := bool_toNat_lt y
  simp only [opcodeOf, field, encTLD, wordBase] at *
  omega

theorem encTLD_lt (op : Nat) (y : Bool) (d : VReg) (a : SReg) (s : SReg) (h : op < 256) : encTLD op y d a s < 2 ^ 32 := by
  have := d.isLt
  have := a.isLt
  have := s.isLt
  have := bool_toNat_lt y
  simp only [encTLD, wordBase] at *
  omega

theorem decTLD_encTLD (c : Bool → VReg → SReg → SReg → Instr) (op : Nat) (y : Bool) (d : VReg) (a : SReg) (s : SReg) (h : op < 256) :
    decTLD c (encTLD op y d a s) = .ok (c y d a s) := by
  have := d.isLt
  have := a.isLt
  have := s.isLt
  have := bool_toNat_lt y
  generalize hw : encTLD op y d a s = w
  replace hw := hw.symm
  have hy : markerOf w = y := bit_of (by simp only [hw, encTLD, wordBase]; omega)
  have h0 : vecAt w 16 = d := vecAt_of (by simp only [hw, encTLD, wordBase]; omega)
  have h1 : scaAt w 9 = a := scaAt_of (by simp only [hw, encTLD, wordBase]; omega)
  have h2 : scaAt w 3 = s := scaAt_of (by simp only [hw, encTLD, wordBase]; omega)
  have z0 : zero w 0 3 = true := zero_of (by simp only [hw, encTLD, wordBase]; omega)
  have z1 : zero w 15 1 = true := zero_of (by simp only [hw, encTLD, wordBase]; omega)
  simp only [decTLD, fieldsThen, hy, h0, h1, h2, z0, z1, Bool.and_self, if_true]

theorem opcodeOf_encTLDQ (op : Nat) (y : Bool) (a : SReg) (s : SReg) (h : op < 256) : opcodeOf (encTLDQ op y a s) = op := by
  have := a.isLt
  have := s.isLt
  have := bool_toNat_lt y
  simp only [opcodeOf, field, encTLDQ, wordBase] at *
  omega

theorem encTLDQ_lt (op : Nat) (y : Bool) (a : SReg) (s : SReg) (h : op < 256) : encTLDQ op y a s < 2 ^ 32 := by
  have := a.isLt
  have := s.isLt
  have := bool_toNat_lt y
  simp only [encTLDQ, wordBase] at *
  omega

theorem decTLDQ_encTLDQ (c : Bool → SReg → SReg → Instr) (op : Nat) (y : Bool) (a : SReg) (s : SReg) (h : op < 256) :
    decTLDQ c (encTLDQ op y a s) = .ok (c y a s) := by
  have := a.isLt
  have := s.isLt
  have := bool_toNat_lt y
  generalize hw : encTLDQ op y a s = w
  replace hw := hw.symm
  have hy : markerOf w = y := bit_of (by simp only [hw, encTLDQ, wordBase]; omega)
  have h0 : scaAt w 9 = a := scaAt_of (by simp only [hw, encTLDQ, wordBase]; omega)
  have h1 : scaAt w 3 = s := scaAt_of (by simp only [hw, encTLDQ, wordBase]; omega)
  have z0 : zero w 0 3 = true := zero_of (by simp only [hw, encTLDQ, wordBase]; omega)
  have z1 : zero w 16 7 = true := zero_of (by simp only [hw, encTLDQ, wordBase]; omega)
  have z2 : zero w 15 1 = true := zero_of (by simp only [hw, encTLDQ, wordBase]; omega)
  simp only [decTLDQ, fieldsThen, hy, h0, h1, z0, z1, z2, Bool.and_self, if_true]

theorem opcodeOf_encCPY (op : Nat) (y : Bool) (d : SReg) (a : SReg) (s : SReg) (h : op < 256) : opcodeOf (encCPY op y d a s) = op := by
  have := d.isLt
  have := a.isLt
  have := s.isLt
  have := bool_toNat_lt y
  simp only [opcodeOf, field, encCPY, wordBase] at *
  omega

theorem encCPY_lt (op : Nat) (y : Bool) (d : SReg) (a : SReg) (s : SReg) (h : op < 256) : encCPY op y d a s < 2 ^ 32 := by
  have := d.isLt
  have := a.isLt
  have := s.isLt
  have := bool_toNat_lt y
  simp only [encCPY, wordBase] at *
  omega

theorem decCPY_encCPY (c : Bool → SReg → SReg → SReg → Instr) (op : Nat) (y : Bool) (d : SReg) (a : SReg) (s : SReg) (h : op < 256) :
    decCPY c (encCPY op y d a s) = .ok (c y d a s) := by
  have := d.isLt
  have := a.isLt
  have := s.isLt
  have := bool_toNat_lt y
  generalize hw : encCPY op y d a s = w
  replace hw := hw.symm
  have hy : markerOf w = y := bit_of (by simp only [hw, encCPY, wordBase]; omega)
  have h0 : scaAt w 16 = d := scaAt_of (by simp only [hw, encCPY, wordBase]; omega)
  have h1 : scaAt w 9 = a := scaAt_of (by simp only [hw, encCPY, wordBase]; omega)
  have h2 : scaAt w 3 = s := scaAt_of (by simp only [hw, encCPY, wordBase]; omega)
  have z0 : zero w 0 3 = true := zero_of (by simp only [hw, encCPY, wordBase]; omega)
  have z1 : zero w 22 1 = true := zero_of (by simp only [hw, encCPY, wordBase]; omega)
  have z2 : zero w 15 1 = true := zero_of (by simp only [hw, encCPY, wordBase]; omega)
  simp only [decCPY, fieldsThen, hy, h0, h1, h2, z0, z1, z2, Bool.and_self, if_true]

theorem opcodeOf_encCPYG (op : Nat) (y : Bool) (d : SReg) (a : VReg) (s : SReg) (q : Fin 8) (h : op < 256) : opcodeOf (encCPYG op y d a s q) = op := by
  have := d.isLt
  have := a.isLt
  have := s.isLt
  have := q.isLt
  have := bool_toNat_lt y
  simp only [opcodeOf, field, encCPYG, wordBase] at *
  omega

theorem encCPYG_lt (op : Nat) (y : Bool) (d : SReg) (a : VReg) (s : SReg) (q : Fin 8) (h : op < 256) : encCPYG op y d a s q < 2 ^ 32 := by
  have := d.isLt
  have := a.isLt
  have := s.isLt
  have := q.isLt
  have := bool_toNat_lt y
  simp only [encCPYG, wordBase] at *
  omega

theorem decCPYG_encCPYG (c : Bool → SReg → VReg → SReg → Fin 8 → Instr) (op : Nat) (y : Bool) (d : SReg) (a : VReg) (s : SReg) (q : Fin 8) (h : op < 256) :
    decCPYG c (encCPYG op y d a s q) = .ok (c y d a s q) := by
  have := d.isLt
  have := a.isLt
  have := s.isLt
  have := q.isLt
  have := bool_toNat_lt y
  generalize hw : encCPYG op y d a s q = w
  replace hw := hw.symm
  have hy : markerOf w = y := bit_of (by simp only [hw, encCPYG, wordBase]; omega)
  have h0 : scaAt w 16 = d := scaAt_of (by simp only [hw, encCPYG, wordBase]; omega)
  have h1 : vecAt w 9 = a := vecAt_of (by simp only [hw, encCPYG, wordBase]; omega)
  have h2 : scaAt w 3 = s := scaAt_of (by simp only [hw, encCPYG, wordBase]; omega)
  have h3 : Fin.ofNat 8 (w / 2 ^ 0) = q := fin_of (by simp only [hw, encCPYG, wordBase]; omega)
  have z0 : zero w 22 1 = true := zero_of (by simp only [hw, encCPYG, wordBase]; omega)
  simp only [decCPYG, fieldsThen, hy, h0, h1, h2, h3, z0, Bool.and_self, if_true]

theorem opcodeOf_encCPYB (op : Nat) (y : Bool) (d : SReg) (a : SReg) (s : SReg) (q : Fin 8) (h : op < 256) : opcodeOf (encCPYB op y d a s q) = op := by
  have := d.isLt
  have := a.isLt
  have := s.isLt
  have := q.isLt
  have := bool_toNat_lt y
  simp only [opcodeOf, field, encCPYB, wordBase] at *
  omega

theorem encCPYB_lt (op : Nat) (y : Bool) (d : SReg) (a : SReg) (s : SReg) (q : Fin 8) (h : op < 256) : encCPYB op y d a s q < 2 ^ 32 := by
  have := d.isLt
  have := a.isLt
  have := s.isLt
  have := q.isLt
  have := bool_toNat_lt y
  simp only [encCPYB, wordBase] at *
  omega

theorem decCPYB_encCPYB (c : Bool → SReg → SReg → SReg → Fin 8 → Instr) (op : Nat) (y : Bool) (d : SReg) (a : SReg) (s : SReg) (q : Fin 8) (h : op < 256) :
    decCPYB c (encCPYB op y d a s q) = .ok (c y d a s q) := by
  have := d.isLt
  have := a.isLt
  have := s.isLt
  have := q.isLt
  have := bool_toNat_lt y
  generalize hw : encCPYB op y d a s q = w
  replace hw := hw.symm
  have hy : markerOf w = y := bit_of (by simp only [hw, encCPYB, wordBase]; omega)
  have h0 : scaAt w 16 = d := scaAt_of (by simp only [hw, encCPYB, wordBase]; omega)
  have h1 : scaAt w 9 = a := scaAt_of (by simp only [hw, encCPYB, wordBase]; omega)
  have h2 : scaAt w 3 = s := scaAt_of (by simp only [hw, encCPYB, wordBase]; omega)
  have h3 : Fin.ofNat 8 (w / 2 ^ 0) = q := fin_of (by simp only [hw, encCPYB, wordBase]; omega)
  have z0 : zero w 22 1 = true := zero_of (by simp only [hw, encCPYB, wordBase]; omega)
  have z1 : zero w 15 1 = true := zero_of (by simp only [hw, encCPYB, wordBase]; omega)
  simp only [decCPYB, fieldsThen, hy, h0, h1, h2, h3, z0, z1, Bool.and_self, if_true]

theorem opcodeOf_encQPUSH (op : Nat) (y : Bool) (q : Fin 8) (a : VReg) (h : op < 256) : opcodeOf (encQPUSH op y q a) = op := by
  have := q.isLt
  have := a.isLt
  have := bool_toNat_lt y
  simp only [opcodeOf, field, encQPUSH, wordBase] at *
  omega

theorem encQPUSH_lt (op : Nat) (y : Bool) (q : Fin 8) (a : VReg) (h : op < 256) : encQPUSH op y q a < 2 ^ 32 := by
  have := q.isLt
  have := a.isLt
  have := bool_toNat_lt y
  simp only [encQPUSH, wordBase] at *
  omega

theorem decQPUSH_encQPUSH (c : Bool → Fin 8 → VReg → Instr) (op : Nat) (y : Bool) (q : Fin 8) (a : VReg) (h : op < 256) :
    decQPUSH c (encQPUSH op y q a) = .ok (c y q a) := by
  have := q.isLt
  have := a.isLt
  have := bool_toNat_lt y
  generalize hw : encQPUSH op y q a = w
  replace hw := hw.symm
  have hy : markerOf w = y := bit_of (by simp only [hw, encQPUSH, wordBase]; omega)
  have h0 : Fin.ofNat 8 (w / 2 ^ 0) = q := fin_of (by simp only [hw, encQPUSH, wordBase]; omega)
  have h1 : vecAt w 9 = a := vecAt_of (by simp only [hw, encQPUSH, wordBase]; omega)
  have z0 : zero w 3 6 = true := zero_of (by simp only [hw, encQPUSH, wordBase]; omega)
  have z1 : zero w 16 7 = true := zero_of (by simp only [hw, encQPUSH, wordBase]; omega)
  simp only [decQPUSH, fieldsThen, hy, h0, h1, z0, z1, Bool.and_self, if_true]

theorem opcodeOf_encQPOP (op : Nat) (y : Bool) (d : VReg) (q : Fin 8) (h : op < 256) : opcodeOf (encQPOP op y d q) = op := by
  have := d.isLt
  have := q.isLt
  have := bool_toNat_lt y
  simp only [opcodeOf, field, encQPOP, wordBase] at *
  omega

theorem encQPOP_lt (op : Nat) (y : Bool) (d : VReg) (q : Fin 8) (h : op < 256) : encQPOP op y d q < 2 ^ 32 := by
  have := d.isLt
  have := q.isLt
  have := bool_toNat_lt y
  simp only [encQPOP, wordBase] at *
  omega

theorem decQPOP_encQPOP (c : Bool → VReg → Fin 8 → Instr) (op : Nat) (y : Bool) (d : VReg) (q : Fin 8) (h : op < 256) :
    decQPOP c (encQPOP op y d q) = .ok (c y d q) := by
  have := d.isLt
  have := q.isLt
  have := bool_toNat_lt y
  generalize hw : encQPOP op y d q = w
  replace hw := hw.symm
  have hy : markerOf w = y := bit_of (by simp only [hw, encQPOP, wordBase]; omega)
  have h0 : vecAt w 16 = d := vecAt_of (by simp only [hw, encQPOP, wordBase]; omega)
  have h1 : Fin.ofNat 8 (w / 2 ^ 0) = q := fin_of (by simp only [hw, encQPOP, wordBase]; omega)
  have z0 : zero w 3 13 = true := zero_of (by simp only [hw, encQPOP, wordBase]; omega)
  simp only [decQPOP, fieldsThen, hy, h0, h1, z0, Bool.and_self, if_true]

theorem opcodeOf_encQS (op : Nat) (y : Bool) (d : SReg) (q : Fin 8) (h : op < 256) : opcodeOf (encQS op y d q) = op := by
  have := d.isLt
  have := q.isLt
  have := bool_toNat_lt y
  simp only [opcodeOf, field, encQS, wordBase] at *
  omega

theorem encQS_lt (op : Nat) (y : Bool) (d : SReg) (q : Fin 8) (h : op < 256) : encQS op y d q < 2 ^ 32 := by
  have := d.isLt
  have := q.isLt
  have := bool_toNat_lt y
  simp only [encQS, wordBase] at *
  omega

theorem decQS_encQS (c : Bool → SReg → Fin 8 → Instr) (op : Nat) (y : Bool) (d : SReg) (q : Fin 8) (h : op < 256) :
    decQS c (encQS op y d q) = .ok (c y d q) := by
  have := d.isLt
  have := q.isLt
  have := bool_toNat_lt y
  generalize hw : encQS op y d q = w
  replace hw := hw.symm
  have hy : markerOf w = y := bit_of (by simp only [hw, encQS, wordBase]; omega)
  have h0 : scaAt w 16 = d := scaAt_of (by simp only [hw, encQS, wordBase]; omega)
  have h1 : Fin.ofNat 8 (w / 2 ^ 0) = q := fin_of (by simp only [hw, encQS, wordBase]; omega)
  have z0 : zero w 3 13 = true := zero_of (by simp only [hw, encQS, wordBase]; omega)
  have z1 : zero w 22 1 = true := zero_of (by simp only [hw, encQS, wordBase]; omega)
  simp only [decQS, fieldsThen, hy, h0, h1, z0, z1, Bool.and_self, if_true]

theorem opcodeOf_encCW (op : Nat) (y : Bool) (d : SReg) (n : Fin 4096) (h : op < 256) : opcodeOf (encCW op y d n) = op := by
  have := d.isLt
  have := n.isLt
  have := bool_toNat_lt y
  simp only [opcodeOf, field, encCW, wordBase] at *
  omega

theorem encCW_lt (op : Nat) (y : Bool) (d : SReg) (n : Fin 4096) (h : op < 256) : encCW op y d n < 2 ^ 32 := by
  have := d.isLt
  have := n.isLt
  have := bool_toNat_lt y
  simp only [encCW, wordBase] at *
  omega

theorem decCW_encCW (c : Bool → SReg → Fin 4096 → Instr) (op : Nat) (y : Bool) (d : SReg) (n : Fin 4096) (h : op < 256) :
    decCW c (encCW op y d n) = .ok (c y d n) := by
  have := d.isLt
  have := n.isLt
  have := bool_toNat_lt y
  generalize hw : encCW op y d n = w
  replace hw := hw.symm
  have hy : markerOf w = y := bit_of (by simp only [hw, encCW, wordBase]; omega)
  have h0 : scaAt w 16 = d := scaAt_of (by simp only [hw, encCW, wordBase]; omega)
  have h1 : Fin.ofNat 4096 (w / 2 ^ 4) = n := fin_of (by simp only [hw, encCW, wordBase]; omega)
  have z0 : zero w 0 4 = true := zero_of (by simp only [hw, encCW, wordBase]; omega)
  have z1 : zero w 22 1 = true := zero_of (by simp only [hw, encCW, wordBase]; omega)
  simp only [decCW, fieldsThen, hy, h0, h1, z0, z1, Bool.and_self, if_true]

theorem opcodeOf_encF (op : Nat) (y : Bool) (d : SReg) (h : op < 256) : opcodeOf (encF op y d) = op := by
  have := d.isLt
  have := bool_toNat_lt y
  simp only [opcodeOf, field, encF, wordBase] at *
  omega

theorem encF_lt (op : Nat) (y : Bool) (d : SReg) (h : op < 256) : encF op y d < 2 ^ 32 := by
  have := d.isLt
  have := bool_toNat_lt y
  simp only [encF, wordBase] at *
  omega

theorem decF_encF (c : Bool → SReg → Instr) (op : Nat) (y : Bool) (d : SReg) (h : op < 256) :
    decF c (encF op y d) = .ok (c y d) := by
  have := d.isLt
  have := bool_toNat_lt y
  generalize hw : encF op y d = w
  replace hw := hw.symm
  have hy : markerOf w = y := bit_of (by simp only [hw, encF, wordBase]; omega)
  have h0 : scaAt w 16 = d := scaAt_of (by simp only [hw, encF, wordBase]; omega)
  have z0 : zero w 0 16 = true := zero_of (by simp only [hw, encF, wordBase]; omega)
  have z1 : zero w 22 1 = true := zero_of (by simp only [hw, encF, wordBase]; omega)
  simp only [decF, fieldsThen, hy, h0, z0, z1, Bool.and_self, if_true]

theorem decode_of {w op : Nat} {i : Instr} {f : Nat → Except DecodeError Instr} (ho : opcodeOf w = op)
    (hl : opcodeMap.lookup op = some f) (hf : f w = .ok i) (hi : wellFormed i = true) : decode w = .ok i := by
  simp only [wellFormed, Bool.and_eq_true] at hi
  simp only [decode, ho, hl, hf, hi.1, hi.2, Bool.not_true, Bool.false_eq_true, if_false]

end Sys2Proof.Laws
end

