-- ==== Sys2Proof/Laws/Sparse.lean ====
section
/-!
SUPPORT. What the sparse arrays and tables do: an element read after a write, the canonical form kept by every update, and records of tables.
-/
namespace Sys2Proof.Machine

variable {α : Type}

/-! Sparse arrays. -/
theorem spWfFrom_mono [DecidableEq α] {z : α} {lo lo' : Nat} (h : lo' ≤ lo) :
    ∀ {m : Sparse α}, spWfFrom z lo m = true → spWfFrom z lo' m = true
  | [], _ => rfl
  | (k, v) :: t, hm => by
    simp only [spWfFrom, Bool.and_eq_true, decide_eq_true_eq] at hm ⊢
    exact ⟨⟨Nat.le_trans h hm.1.1, hm.1.2⟩, hm.2⟩

/-- Below the first key of a canonical array every element is the default. -/
theorem spGet_below [DecidableEq α] {z : α} {lo k : Nat} (h : k < lo) : ∀ {m : Sparse α}, spWfFrom z lo m = true → spGet z m k = z
  | [], _ => rfl
  | (k', v) :: t, hm => by
    simp only [spWfFrom, Bool.and_eq_true, decide_eq_true_eq] at hm
    have : k' ≠ k := by omega
    have h2 : k < k' := by omega
    simp [spGet, this, h2]

theorem spGet_spCons_self [DecidableEq α] {z v : α} {k : Nat} {t : Sparse α} (h : spWfFrom z (k + 1) t = true) :
    spGet z (spCons z k v t) k = v := by
  unfold spCons
  split
  · next e => rw [spGet_below (Nat.lt_succ_self k) h, e]
  · simp [spGet]

theorem spGet_spCons_ne [DecidableEq α] {z v : α} {k j : Nat} {t : Sparse α} (h : spWfFrom z (k + 1) t = true) (n : j ≠ k) :
    spGet z (spCons z k v t) j = spGet z t j := by
  unfold spCons
  split
  · rfl
  · have : k ≠ j := fun e => n e.symm
    by_cases hj : j < k
    · simp [spGet, this, hj, spGet_below (Nat.lt_succ_of_lt hj) h]
    · simp [spGet, this, hj]

theorem spWfFrom_spCons [DecidableEq α] {z v : α} {lo k : Nat} {t : Sparse α} (hl : lo ≤ k) (h : spWfFrom z (k + 1) t = true) :
    spWfFrom z lo (spCons z k v t) = true := by
  unfold spCons
  split
  · exact spWfFrom_mono (Nat.le_succ_of_le hl) h
  · next e => simp [spWfFrom, hl, e, h]

/-- R10, log 3: a write keeps the canonical form. -/
theorem spWfFrom_spSet [DecidableEq α] {z v : α} {k : Nat} :
    ∀ {lo : Nat} {m : Sparse α}, lo ≤ k → spWfFrom z lo m = true → spWfFrom z lo (spSet z m k v) = true
  | lo, [], hl, _ => by simpa [spSet] using spWfFrom_spCons hl (by rfl)
  | lo, (k', v') :: t, hl, hm => by
    simp only [spWfFrom, Bool.and_eq_true, decide_eq_true_eq] at hm
    unfold spSet
    split
    · next h => exact spWfFrom_spCons hl (by simp [spWfFrom, hm.1.2, hm.2]; omega)
    · split
      · next h => subst h; exact spWfFrom_spCons hl hm.2
      · next h1 h2 =>
        simp only [spWfFrom, Bool.and_eq_true, decide_eq_true_eq]
        exact ⟨hm.1, spWfFrom_spSet (by omega) hm.2⟩

/-- The element just written. -/
theorem spGet_spSet_self [DecidableEq α] {z v : α} {k : Nat} :
    ∀ {lo : Nat} {m : Sparse α}, spWfFrom z lo m = true → spGet z (spSet z m k v) k = v
  | _, [], _ => by simpa [spSet] using spGet_spCons_self (k := k) (v := v) (z := z) (t := []) rfl
  | _, (k', v') :: t, hm => by
    simp only [spWfFrom, Bool.and_eq_true, decide_eq_true_eq] at hm
    unfold spSet
    split
    · next h => exact spGet_spCons_self (by simp [spWfFrom, hm.1.2, hm.2]; omega)
    · split
      · next h => subst h; exact spGet_spCons_self hm.2
      · next h1 h2 =>
        have a : k' ≠ k := fun e => h2 e.symm
        simp [spGet, a, h1, spGet_spSet_self hm.2]

/-- Every other element stays. -/
theorem spGet_spSet_ne [DecidableEq α] {z v : α} {k j : Nat} (n : j ≠ k) :
    ∀ {lo : Nat} {m : Sparse α}, spWfFrom z lo m = true → spGet z (spSet z m k v) j = spGet z m j
  | _, [], _ => by simpa [spSet] using spGet_spCons_ne (v := v) (t := []) rfl n
  | _, (k', v') :: t, hm => by
    simp only [spWfFrom, Bool.and_eq_true, decide_eq_true_eq] at hm
    unfold spSet
    split
    · next h => exact spGet_spCons_ne (by simp [spWfFrom, hm.1.2, hm.2]; omega) n
    · split
      · next h =>
        subst h
        rw [spGet_spCons_ne hm.2 n]
        have a : k ≠ j := fun e => n e.symm
        by_cases hj : j < k
        · simp [spGet, a, hj, spGet_below (Nat.lt_succ_of_lt hj) hm.2]
        · simp [spGet, a, hj]
      · next h1 h2 =>
        have ih := spGet_spSet_ne (v := v) n hm.2
        simp [spGet, ih]

theorem spWf_spSet [DecidableEq α] {z v : α} {k : Nat} {m : Sparse α} (h : spWf z m = true) : spWf z (spSet z m k v) = true :=
  spWfFrom_spSet (Nat.zero_le k) h

/-- Dropping entries keeps the canonical form. -/
theorem spWfFrom_filter [DecidableEq α] {z : α} (p : Nat × α → Bool) :
    ∀ {lo : Nat} {m : Sparse α}, spWfFrom z lo m = true → spWfFrom z lo (m.filter p) = true
  | _, [], _ => rfl
  | lo, (k, v) :: t, hm => by
    simp only [spWfFrom, Bool.and_eq_true, decide_eq_true_eq] at hm
    simp only [List.filter]
    split
    · simp only [spWfFrom, Bool.and_eq_true, decide_eq_true_eq]
      exact ⟨hm.1, spWfFrom_filter p hm.2⟩
    · exact spWfFrom_filter p (spWfFrom_mono (by omega) hm.2)
theorem spWf_filter [DecidableEq α] {z : α} {m : Sparse α} (p : Nat × α → Bool) (h : spWf z m = true) : spWf z (m.filter p) = true :=
  spWfFrom_filter p h

/-- Two canonical arrays with the same elements are the same data. -/
theorem spExt [DecidableEq α] {z : α} : ∀ {lo : Nat} {m n : Sparse α}, spWfFrom z lo m = true → spWfFrom z lo n = true →
    (∀ k, spGet z m k = spGet z n k) → m = n
  | _, [], [], _, _, _ => rfl
  | _, [], (k, v) :: t, _, hn, h => by
    simp only [spWfFrom, Bool.and_eq_true, decide_eq_true_eq] at hn
    have := h k
    simp only [spGet, if_true] at this
    exact absurd this.symm hn.1.2
  | _, (k, v) :: t, [], hm, _, h => by
    simp only [spWfFrom, Bool.and_eq_true, decide_eq_true_eq] at hm
    have := h k
    simp only [spGet, if_true] at this
    exact absurd this hm.1.2
  | _, (k, v) :: t, (k', v') :: t', hm, hn, h => by
    simp only [spWfFrom, Bool.and_eq_true, decide_eq_true_eq] at hm hn
    have e : k = k' := by
      rcases Nat.lt_trichotomy k k' with l | l | l
      · have := h k
        simp only [spGet, if_true, Nat.ne_of_gt l, l, if_false] at this
        exact absurd this hm.1.2
      · exact l
      · have := h k'
        simp only [spGet, if_true, Nat.ne_of_gt l, l, if_false] at this
        exact absurd this.symm hn.1.2
    subst e
    have ev : v = v' := by simpa [spGet] using h k
    subst ev
    have et : t = t' := spExt hm.2 hn.2 fun j => by
      by_cases hj : j < k + 1
      · rw [spGet_below hj hm.2, spGet_below hj hn.2]
      · have := h j
        have n1 : k ≠ j := by omega
        have n2 : ¬ j < k := by omega
        simpa [spGet, n1, n2] using this
    rw [et]

/-! Tables. -/
theorem tbGet?_tbPut_self : ∀ {m : Tbl α} {k : Nat} {v : α}, tbGet? (tbPut m k v) k = some v
  | [], k, v => by simp [tbPut, tbGet?]
  | (k', v') :: t, k, v => by
    unfold tbPut
    split
    · simp [tbGet?]
    · split
      · simp [tbGet?]
      · next h => simp [tbGet?, Ne.symm h, tbGet?_tbPut_self]
theorem tbGet?_tbPut_ne {j k : Nat} (n : j ≠ k) {v : α} : ∀ {m : Tbl α}, tbGet? (tbPut m k v) j = tbGet? m j
  | [] => by simp [tbPut, tbGet?, Ne.symm n]
  | (k', v') :: t => by
    unfold tbPut
    split
    · simp [tbGet?, Ne.symm n]
    · split
      · next h => subst h; simp [tbGet?, Ne.symm n]
      · simp [tbGet?, tbGet?_tbPut_ne n]
theorem tbPut_tbPut : ∀ {m : Tbl α} {k : Nat} {u v : α}, tbPut (tbPut m k u) k v = tbPut m k v
  | [], k, u, v => by simp [tbPut]
  | (k', v') :: t, k, u, v => by
    simp only [tbPut]
    split
    · next h => simp [tbPut]
    · split
      · next h1 h => simp [tbPut]
      · next h1 h2 => simp [tbPut, h1, h2, tbPut_tbPut]
/-- What holds of every record of a table and of the record an absent handle reads as holds of the record of every handle. -/
theorem tbGet_all {p : α → Prop} {z : α} (hz : p z) : ∀ {m : Tbl α}, (∀ e ∈ m, p e.2) → ∀ k, p (tbGet z m k)
  | [], _, _ => hz
  | (i, v) :: m, h, k => by
    by_cases e : i = k
    · simpa [tbGet, tbGet?, e] using h (i, v) (by simp)
    · simpa [tbGet, tbGet?, e] using tbGet_all (m := m) hz (fun x hx => h x (by simp [hx])) k
theorem tbGet_tbPut_self {z v : α} {m : Tbl α} {k : Nat} : tbGet z (tbPut m k v) k = v := by simp [tbGet, tbGet?_tbPut_self]
theorem tbGet_tbPut_ne {z v : α} {m : Tbl α} {j k : Nat} (n : j ≠ k) : tbGet z (tbPut m k v) j = tbGet z m j := by
  simp [tbGet, tbGet?_tbPut_ne n]
theorem tbGet?_tbErase_self : ∀ {m : Tbl α} {k : Nat}, tbGet? (tbErase m k) k = none
  | [], _ => rfl
  | (k', v') :: t, k => by
    have ih := tbGet?_tbErase_self (m := t) (k := k)
    unfold tbErase at ih ⊢
    by_cases h : k' = k
    · simp [List.filter, h, ih]
    · have : (k' != k) = true := by simp [h]
      simp [List.filter, this, tbGet?, h, ih]

end Sys2Proof.Machine
end

