-- ==== Sys2Proof/Laws/State.lean ====
section
/-!
SUPPORT. One lemma per field per update: what each update of the state, and of a wave, leaves in each field; and the records of the tables
after an update.
-/
namespace Sys2Proof.Machine

/-! putWave. -/
@[simp] theorem putWave_waves (s : State) (k : Nat) (x : Wave) : (putWave s k x).waves = tbPut s.waves k x := rfl
@[simp] theorem putWave_groups (s : State) (k : Nat) (x : Wave) : (putWave s k x).groups = s.groups := rfl
@[simp] theorem putWave_launches (s : State) (k : Nat) (x : Wave) : (putWave s k x).launches = s.launches := rfl
@[simp] theorem putWave_quarters (s : State) (k : Nat) (x : Wave) : (putWave s k x).quarters = s.quarters := rfl
@[simp] theorem putWave_cores (s : State) (k : Nat) (x : Wave) : (putWave s k x).cores = s.cores := rfl
@[simp] theorem putWave_clusters (s : State) (k : Nat) (x : Wave) : (putWave s k x).clusters = s.clusters := rfl
@[simp] theorem putWave_islands (s : State) (k : Nat) (x : Wave) : (putWave s k x).islands = s.islands := rfl
@[simp] theorem putWave_dev (s : State) (k : Nat) (x : Wave) : (putWave s k x).dev = s.dev := rfl
@[simp] theorem putWave_agenda (s : State) (k : Nat) (x : Wave) : (putWave s k x).agenda = s.agenda := rfl
@[simp] theorem putWave_cur (s : State) (k : Nat) (x : Wave) : (putWave s k x).cur = s.cur := rfl
@[simp] theorem putWave_turn (s : State) (k : Nat) (x : Wave) : (putWave s k x).turn = s.turn := rfl
@[simp] theorem putWave_free (s : State) (k : Nat) (x : Wave) : (putWave s k x).free = s.free := rfl
@[simp] theorem putWave_nextId (s : State) (k : Nat) (x : Wave) : (putWave s k x).nextId = s.nextId := rfl
@[simp] theorem putWave_ended (s : State) (k : Nat) (x : Wave) : (putWave s k x).ended = s.ended := rfl
/-! putGroup. -/
@[simp] theorem putGroup_waves (s : State) (k : Nat) (x : Group) : (putGroup s k x).waves = s.waves := rfl
@[simp] theorem putGroup_groups (s : State) (k : Nat) (x : Group) : (putGroup s k x).groups = tbPut s.groups k x := rfl
@[simp] theorem putGroup_launches (s : State) (k : Nat) (x : Group) : (putGroup s k x).launches = s.launches := rfl
@[simp] theorem putGroup_quarters (s : State) (k : Nat) (x : Group) : (putGroup s k x).quarters = s.quarters := rfl
@[simp] theorem putGroup_cores (s : State) (k : Nat) (x : Group) : (putGroup s k x).cores = s.cores := rfl
@[simp] theorem putGroup_clusters (s : State) (k : Nat) (x : Group) : (putGroup s k x).clusters = s.clusters := rfl
@[simp] theorem putGroup_islands (s : State) (k : Nat) (x : Group) : (putGroup s k x).islands = s.islands := rfl
@[simp] theorem putGroup_dev (s : State) (k : Nat) (x : Group) : (putGroup s k x).dev = s.dev := rfl
@[simp] theorem putGroup_agenda (s : State) (k : Nat) (x : Group) : (putGroup s k x).agenda = s.agenda := rfl
@[simp] theorem putGroup_cur (s : State) (k : Nat) (x : Group) : (putGroup s k x).cur = s.cur := rfl
@[simp] theorem putGroup_turn (s : State) (k : Nat) (x : Group) : (putGroup s k x).turn = s.turn := rfl
@[simp] theorem putGroup_free (s : State) (k : Nat) (x : Group) : (putGroup s k x).free = s.free := rfl
@[simp] theorem putGroup_nextId (s : State) (k : Nat) (x : Group) : (putGroup s k x).nextId = s.nextId := rfl
@[simp] theorem putGroup_ended (s : State) (k : Nat) (x : Group) : (putGroup s k x).ended = s.ended := rfl
/-! putLaunch. -/
@[simp] theorem putLaunch_waves (s : State) (k : Nat) (x : Launch) : (putLaunch s k x).waves = s.waves := rfl
@[simp] theorem putLaunch_groups (s : State) (k : Nat) (x : Launch) : (putLaunch s k x).groups = s.groups := rfl
@[simp] theorem putLaunch_launches (s : State) (k : Nat) (x : Launch) : (putLaunch s k x).launches = tbPut s.launches k x := rfl
@[simp] theorem putLaunch_quarters (s : State) (k : Nat) (x : Launch) : (putLaunch s k x).quarters = s.quarters := rfl
@[simp] theorem putLaunch_cores (s : State) (k : Nat) (x : Launch) : (putLaunch s k x).cores = s.cores := rfl
@[simp] theorem putLaunch_clusters (s : State) (k : Nat) (x : Launch) : (putLaunch s k x).clusters = s.clusters := rfl
@[simp] theorem putLaunch_islands (s : State) (k : Nat) (x : Launch) : (putLaunch s k x).islands = s.islands := rfl
@[simp] theorem putLaunch_dev (s : State) (k : Nat) (x : Launch) : (putLaunch s k x).dev = s.dev := rfl
@[simp] theorem putLaunch_agenda (s : State) (k : Nat) (x : Launch) : (putLaunch s k x).agenda = s.agenda := rfl
@[simp] theorem putLaunch_cur (s : State) (k : Nat) (x : Launch) : (putLaunch s k x).cur = s.cur := rfl
@[simp] theorem putLaunch_turn (s : State) (k : Nat) (x : Launch) : (putLaunch s k x).turn = s.turn := rfl
@[simp] theorem putLaunch_free (s : State) (k : Nat) (x : Launch) : (putLaunch s k x).free = s.free := rfl
@[simp] theorem putLaunch_nextId (s : State) (k : Nat) (x : Launch) : (putLaunch s k x).nextId = s.nextId := rfl
@[simp] theorem putLaunch_ended (s : State) (k : Nat) (x : Launch) : (putLaunch s k x).ended = s.ended := rfl
/-! putQuarter. -/
@[simp] theorem putQuarter_waves (s : State) (k : Nat) (x : Quarter) : (putQuarter s k x).waves = s.waves := rfl
@[simp] theorem putQuarter_groups (s : State) (k : Nat) (x : Quarter) : (putQuarter s k x).groups = s.groups := rfl
@[simp] theorem putQuarter_launches (s : State) (k : Nat) (x : Quarter) : (putQuarter s k x).launches = s.launches := rfl
@[simp] theorem putQuarter_quarters (s : State) (k : Nat) (x : Quarter) : (putQuarter s k x).quarters = tbPut s.quarters k x := rfl
@[simp] theorem putQuarter_cores (s : State) (k : Nat) (x : Quarter) : (putQuarter s k x).cores = s.cores := rfl
@[simp] theorem putQuarter_clusters (s : State) (k : Nat) (x : Quarter) : (putQuarter s k x).clusters = s.clusters := rfl
@[simp] theorem putQuarter_islands (s : State) (k : Nat) (x : Quarter) : (putQuarter s k x).islands = s.islands := rfl
@[simp] theorem putQuarter_dev (s : State) (k : Nat) (x : Quarter) : (putQuarter s k x).dev = s.dev := rfl
@[simp] theorem putQuarter_agenda (s : State) (k : Nat) (x : Quarter) : (putQuarter s k x).agenda = s.agenda := rfl
@[simp] theorem putQuarter_cur (s : State) (k : Nat) (x : Quarter) : (putQuarter s k x).cur = s.cur := rfl
@[simp] theorem putQuarter_turn (s : State) (k : Nat) (x : Quarter) : (putQuarter s k x).turn = s.turn := rfl
@[simp] theorem putQuarter_free (s : State) (k : Nat) (x : Quarter) : (putQuarter s k x).free = s.free := rfl
@[simp] theorem putQuarter_nextId (s : State) (k : Nat) (x : Quarter) : (putQuarter s k x).nextId = s.nextId := rfl
@[simp] theorem putQuarter_ended (s : State) (k : Nat) (x : Quarter) : (putQuarter s k x).ended = s.ended := rfl
/-! putCore. -/
@[simp] theorem putCore_waves (s : State) (k : Nat) (x : Core) : (putCore s k x).waves = s.waves := rfl
@[simp] theorem putCore_groups (s : State) (k : Nat) (x : Core) : (putCore s k x).groups = s.groups := rfl
@[simp] theorem putCore_launches (s : State) (k : Nat) (x : Core) : (putCore s k x).launches = s.launches := rfl
@[simp] theorem putCore_quarters (s : State) (k : Nat) (x : Core) : (putCore s k x).quarters = s.quarters := rfl
@[simp] theorem putCore_cores (s : State) (k : Nat) (x : Core) : (putCore s k x).cores = tbPut s.cores k x := rfl
@[simp] theorem putCore_clusters (s : State) (k : Nat) (x : Core) : (putCore s k x).clusters = s.clusters := rfl
@[simp] theorem putCore_islands (s : State) (k : Nat) (x : Core) : (putCore s k x).islands = s.islands := rfl
@[simp] theorem putCore_dev (s : State) (k : Nat) (x : Core) : (putCore s k x).dev = s.dev := rfl
@[simp] theorem putCore_agenda (s : State) (k : Nat) (x : Core) : (putCore s k x).agenda = s.agenda := rfl
@[simp] theorem putCore_cur (s : State) (k : Nat) (x : Core) : (putCore s k x).cur = s.cur := rfl
@[simp] theorem putCore_turn (s : State) (k : Nat) (x : Core) : (putCore s k x).turn = s.turn := rfl
@[simp] theorem putCore_free (s : State) (k : Nat) (x : Core) : (putCore s k x).free = s.free := rfl
@[simp] theorem putCore_nextId (s : State) (k : Nat) (x : Core) : (putCore s k x).nextId = s.nextId := rfl
@[simp] theorem putCore_ended (s : State) (k : Nat) (x : Core) : (putCore s k x).ended = s.ended := rfl
/-! putCluster. -/
@[simp] theorem putCluster_waves (s : State) (k : Nat) (x : Cluster) : (putCluster s k x).waves = s.waves := rfl
@[simp] theorem putCluster_groups (s : State) (k : Nat) (x : Cluster) : (putCluster s k x).groups = s.groups := rfl
@[simp] theorem putCluster_launches (s : State) (k : Nat) (x : Cluster) : (putCluster s k x).launches = s.launches := rfl
@[simp] theorem putCluster_quarters (s : State) (k : Nat) (x : Cluster) : (putCluster s k x).quarters = s.quarters := rfl
@[simp] theorem putCluster_cores (s : State) (k : Nat) (x : Cluster) : (putCluster s k x).cores = s.cores := rfl
@[simp] theorem putCluster_clusters (s : State) (k : Nat) (x : Cluster) : (putCluster s k x).clusters = tbPut s.clusters k x := rfl
@[simp] theorem putCluster_islands (s : State) (k : Nat) (x : Cluster) : (putCluster s k x).islands = s.islands := rfl
@[simp] theorem putCluster_dev (s : State) (k : Nat) (x : Cluster) : (putCluster s k x).dev = s.dev := rfl
@[simp] theorem putCluster_agenda (s : State) (k : Nat) (x : Cluster) : (putCluster s k x).agenda = s.agenda := rfl
@[simp] theorem putCluster_cur (s : State) (k : Nat) (x : Cluster) : (putCluster s k x).cur = s.cur := rfl
@[simp] theorem putCluster_turn (s : State) (k : Nat) (x : Cluster) : (putCluster s k x).turn = s.turn := rfl
@[simp] theorem putCluster_free (s : State) (k : Nat) (x : Cluster) : (putCluster s k x).free = s.free := rfl
@[simp] theorem putCluster_nextId (s : State) (k : Nat) (x : Cluster) : (putCluster s k x).nextId = s.nextId := rfl
@[simp] theorem putCluster_ended (s : State) (k : Nat) (x : Cluster) : (putCluster s k x).ended = s.ended := rfl
/-! putIsland. -/
@[simp] theorem putIsland_waves (s : State) (k : Nat) (x : Island) : (putIsland s k x).waves = s.waves := rfl
@[simp] theorem putIsland_groups (s : State) (k : Nat) (x : Island) : (putIsland s k x).groups = s.groups := rfl
@[simp] theorem putIsland_launches (s : State) (k : Nat) (x : Island) : (putIsland s k x).launches = s.launches := rfl
@[simp] theorem putIsland_quarters (s : State) (k : Nat) (x : Island) : (putIsland s k x).quarters = s.quarters := rfl
@[simp] theorem putIsland_cores (s : State) (k : Nat) (x : Island) : (putIsland s k x).cores = s.cores := rfl
@[simp] theorem putIsland_clusters (s : State) (k : Nat) (x : Island) : (putIsland s k x).clusters = s.clusters := rfl
@[simp] theorem putIsland_islands (s : State) (k : Nat) (x : Island) : (putIsland s k x).islands = tbPut s.islands k x := rfl
@[simp] theorem putIsland_dev (s : State) (k : Nat) (x : Island) : (putIsland s k x).dev = s.dev := rfl
@[simp] theorem putIsland_agenda (s : State) (k : Nat) (x : Island) : (putIsland s k x).agenda = s.agenda := rfl
@[simp] theorem putIsland_cur (s : State) (k : Nat) (x : Island) : (putIsland s k x).cur = s.cur := rfl
@[simp] theorem putIsland_turn (s : State) (k : Nat) (x : Island) : (putIsland s k x).turn = s.turn := rfl
@[simp] theorem putIsland_free (s : State) (k : Nat) (x : Island) : (putIsland s k x).free = s.free := rfl
@[simp] theorem putIsland_nextId (s : State) (k : Nat) (x : Island) : (putIsland s k x).nextId = s.nextId := rfl
@[simp] theorem putIsland_ended (s : State) (k : Nat) (x : Island) : (putIsland s k x).ended = s.ended := rfl
/-! putDev. -/
@[simp] theorem putDev_waves (s : State) (d : Device) : (putDev s d).waves = s.waves := rfl
@[simp] theorem putDev_groups (s : State) (d : Device) : (putDev s d).groups = s.groups := rfl
@[simp] theorem putDev_launches (s : State) (d : Device) : (putDev s d).launches = s.launches := rfl
@[simp] theorem putDev_quarters (s : State) (d : Device) : (putDev s d).quarters = s.quarters := rfl
@[simp] theorem putDev_cores (s : State) (d : Device) : (putDev s d).cores = s.cores := rfl
@[simp] theorem putDev_clusters (s : State) (d : Device) : (putDev s d).clusters = s.clusters := rfl
@[simp] theorem putDev_islands (s : State) (d : Device) : (putDev s d).islands = s.islands := rfl
@[simp] theorem putDev_dev (s : State) (d : Device) : (putDev s d).dev = d := rfl
@[simp] theorem putDev_agenda (s : State) (d : Device) : (putDev s d).agenda = s.agenda := rfl
@[simp] theorem putDev_cur (s : State) (d : Device) : (putDev s d).cur = s.cur := rfl
@[simp] theorem putDev_turn (s : State) (d : Device) : (putDev s d).turn = s.turn := rfl
@[simp] theorem putDev_free (s : State) (d : Device) : (putDev s d).free = s.free := rfl
@[simp] theorem putDev_nextId (s : State) (d : Device) : (putDev s d).nextId = s.nextId := rfl
@[simp] theorem putDev_ended (s : State) (d : Device) : (putDev s d).ended = s.ended := rfl
/-! Records. -/
@[simp] theorem waveAt_putWave (s : State) (k : Nat) (x : Wave) : waveAt (putWave s k x) k = x := tbGet_tbPut_self
theorem waveAt_putWave_ne (s : State) (k j : Nat) (x : Wave) (h : j ≠ k) : waveAt (putWave s k x) j = waveAt s j := tbGet_tbPut_ne h
@[simp] theorem waveAt_putGroup (s : State) (k j : Nat) (x : Group) : waveAt (putGroup s k x) j = waveAt s j := rfl
@[simp] theorem waveAt_putLaunch (s : State) (k j : Nat) (x : Launch) : waveAt (putLaunch s k x) j = waveAt s j := rfl
@[simp] theorem waveAt_putQuarter (s : State) (k j : Nat) (x : Quarter) : waveAt (putQuarter s k x) j = waveAt s j := rfl
@[simp] theorem waveAt_putCore (s : State) (k j : Nat) (x : Core) : waveAt (putCore s k x) j = waveAt s j := rfl
@[simp] theorem waveAt_putCluster (s : State) (k j : Nat) (x : Cluster) : waveAt (putCluster s k x) j = waveAt s j := rfl
@[simp] theorem waveAt_putIsland (s : State) (k j : Nat) (x : Island) : waveAt (putIsland s k x) j = waveAt s j := rfl
@[simp] theorem waveAt_putDev (s : State) (j : Nat) (d : Device) : waveAt (putDev s d) j = waveAt s j := rfl
@[simp] theorem groupAt_putWave (s : State) (k j : Nat) (x : Wave) : groupAt (putWave s k x) j = groupAt s j := rfl
@[simp] theorem groupAt_putGroup (s : State) (k : Nat) (x : Group) : groupAt (putGroup s k x) k = x := tbGet_tbPut_self
theorem groupAt_putGroup_ne (s : State) (k j : Nat) (x : Group) (h : j ≠ k) : groupAt (putGroup s k x) j = groupAt s j := tbGet_tbPut_ne h
@[simp] theorem groupAt_putLaunch (s : State) (k j : Nat) (x : Launch) : groupAt (putLaunch s k x) j = groupAt s j := rfl
@[simp] theorem groupAt_putQuarter (s : State) (k j : Nat) (x : Quarter) : groupAt (putQuarter s k x) j = groupAt s j := rfl
@[simp] theorem groupAt_putCore (s : State) (k j : Nat) (x : Core) : groupAt (putCore s k x) j = groupAt s j := rfl
@[simp] theorem groupAt_putCluster (s : State) (k j : Nat) (x : Cluster) : groupAt (putCluster s k x) j = groupAt s j := rfl
@[simp] theorem groupAt_putIsland (s : State) (k j : Nat) (x : Island) : groupAt (putIsland s k x) j = groupAt s j := rfl
@[simp] theorem groupAt_putDev (s : State) (j : Nat) (d : Device) : groupAt (putDev s d) j = groupAt s j := rfl
@[simp] theorem launchAt_putWave (s : State) (k j : Nat) (x : Wave) : launchAt (putWave s k x) j = launchAt s j := rfl
@[simp] theorem launchAt_putGroup (s : State) (k j : Nat) (x : Group) : launchAt (putGroup s k x) j = launchAt s j := rfl
@[simp] theorem launchAt_putLaunch (s : State) (k : Nat) (x : Launch) : launchAt (putLaunch s k x) k = x := tbGet_tbPut_self
theorem launchAt_putLaunch_ne (s : State) (k j : Nat) (x : Launch) (h : j ≠ k) : launchAt (putLaunch s k x) j = launchAt s j := tbGet_tbPut_ne h
@[simp] theorem launchAt_putQuarter (s : State) (k j : Nat) (x : Quarter) : launchAt (putQuarter s k x) j = launchAt s j := rfl
@[simp] theorem launchAt_putCore (s : State) (k j : Nat) (x : Core) : launchAt (putCore s k x) j = launchAt s j := rfl
@[simp] theorem launchAt_putCluster (s : State) (k j : Nat) (x : Cluster) : launchAt (putCluster s k x) j = launchAt s j := rfl
@[simp] theorem launchAt_putIsland (s : State) (k j : Nat) (x : Island) : launchAt (putIsland s k x) j = launchAt s j := rfl
@[simp] theorem launchAt_putDev (s : State) (j : Nat) (d : Device) : launchAt (putDev s d) j = launchAt s j := rfl
@[simp] theorem quarterAt_putWave (s : State) (k j : Nat) (x : Wave) : quarterAt (putWave s k x) j = quarterAt s j := rfl
@[simp] theorem quarterAt_putGroup (s : State) (k j : Nat) (x : Group) : quarterAt (putGroup s k x) j = quarterAt s j := rfl
@[simp] theorem quarterAt_putLaunch (s : State) (k j : Nat) (x : Launch) : quarterAt (putLaunch s k x) j = quarterAt s j := rfl
@[simp] theorem quarterAt_putQuarter (s : State) (k : Nat) (x : Quarter) : quarterAt (putQuarter s k x) k = x := tbGet_tbPut_self
theorem quarterAt_putQuarter_ne (s : State) (k j : Nat) (x : Quarter) (h : j ≠ k) : quarterAt (putQuarter s k x) j = quarterAt s j := tbGet_tbPut_ne h
@[simp] theorem quarterAt_putCore (s : State) (k j : Nat) (x : Core) : quarterAt (putCore s k x) j = quarterAt s j := rfl
@[simp] theorem quarterAt_putCluster (s : State) (k j : Nat) (x : Cluster) : quarterAt (putCluster s k x) j = quarterAt s j := rfl
@[simp] theorem quarterAt_putIsland (s : State) (k j : Nat) (x : Island) : quarterAt (putIsland s k x) j = quarterAt s j := rfl
@[simp] theorem quarterAt_putDev (s : State) (j : Nat) (d : Device) : quarterAt (putDev s d) j = quarterAt s j := rfl
@[simp] theorem coreAt_putWave (s : State) (k j : Nat) (x : Wave) : coreAt (putWave s k x) j = coreAt s j := rfl
@[simp] theorem coreAt_putGroup (s : State) (k j : Nat) (x : Group) : coreAt (putGroup s k x) j = coreAt s j := rfl
@[simp] theorem coreAt_putLaunch (s : State) (k j : Nat) (x : Launch) : coreAt (putLaunch s k x) j = coreAt s j := rfl
@[simp] theorem coreAt_putQuarter (s : State) (k j : Nat) (x : Quarter) : coreAt (putQuarter s k x) j = coreAt s j := rfl
@[simp] theorem coreAt_putCore (s : State) (k : Nat) (x : Core) : coreAt (putCore s k x) k = x := tbGet_tbPut_self
theorem coreAt_putCore_ne (s : State) (k j : Nat) (x : Core) (h : j ≠ k) : coreAt (putCore s k x) j = coreAt s j := tbGet_tbPut_ne h
@[simp] theorem coreAt_putCluster (s : State) (k j : Nat) (x : Cluster) : coreAt (putCluster s k x) j = coreAt s j := rfl
@[simp] theorem coreAt_putIsland (s : State) (k j : Nat) (x : Island) : coreAt (putIsland s k x) j = coreAt s j := rfl
@[simp] theorem coreAt_putDev (s : State) (j : Nat) (d : Device) : coreAt (putDev s d) j = coreAt s j := rfl
@[simp] theorem clusterAt_putWave (s : State) (k j : Nat) (x : Wave) : clusterAt (putWave s k x) j = clusterAt s j := rfl
@[simp] theorem clusterAt_putGroup (s : State) (k j : Nat) (x : Group) : clusterAt (putGroup s k x) j = clusterAt s j := rfl
@[simp] theorem clusterAt_putLaunch (s : State) (k j : Nat) (x : Launch) : clusterAt (putLaunch s k x) j = clusterAt s j := rfl
@[simp] theorem clusterAt_putQuarter (s : State) (k j : Nat) (x : Quarter) : clusterAt (putQuarter s k x) j = clusterAt s j := rfl
@[simp] theorem clusterAt_putCore (s : State) (k j : Nat) (x : Core) : clusterAt (putCore s k x) j = clusterAt s j := rfl
@[simp] theorem clusterAt_putCluster (s : State) (k : Nat) (x : Cluster) : clusterAt (putCluster s k x) k = x := tbGet_tbPut_self
theorem clusterAt_putCluster_ne (s : State) (k j : Nat) (x : Cluster) (h : j ≠ k) : clusterAt (putCluster s k x) j = clusterAt s j := tbGet_tbPut_ne h
@[simp] theorem clusterAt_putIsland (s : State) (k j : Nat) (x : Island) : clusterAt (putIsland s k x) j = clusterAt s j := rfl
@[simp] theorem clusterAt_putDev (s : State) (j : Nat) (d : Device) : clusterAt (putDev s d) j = clusterAt s j := rfl
@[simp] theorem islandAt_putWave (s : State) (k j : Nat) (x : Wave) : islandAt (putWave s k x) j = islandAt s j := rfl
@[simp] theorem islandAt_putGroup (s : State) (k j : Nat) (x : Group) : islandAt (putGroup s k x) j = islandAt s j := rfl
@[simp] theorem islandAt_putLaunch (s : State) (k j : Nat) (x : Launch) : islandAt (putLaunch s k x) j = islandAt s j := rfl
@[simp] theorem islandAt_putQuarter (s : State) (k j : Nat) (x : Quarter) : islandAt (putQuarter s k x) j = islandAt s j := rfl
@[simp] theorem islandAt_putCore (s : State) (k j : Nat) (x : Core) : islandAt (putCore s k x) j = islandAt s j := rfl
@[simp] theorem islandAt_putCluster (s : State) (k j : Nat) (x : Cluster) : islandAt (putCluster s k x) j = islandAt s j := rfl
@[simp] theorem islandAt_putIsland (s : State) (k : Nat) (x : Island) : islandAt (putIsland s k x) k = x := tbGet_tbPut_self
theorem islandAt_putIsland_ne (s : State) (k j : Nat) (x : Island) (h : j ≠ k) : islandAt (putIsland s k x) j = islandAt s j := tbGet_tbPut_ne h
@[simp] theorem islandAt_putDev (s : State) (j : Nat) (d : Device) : islandAt (putDev s d) j = islandAt s j := rfl
theorem putWave_putWave (s : State) (k : Nat) (x y : Wave) : putWave (putWave s k x) k y = putWave s k y := by simp [putWave, tbPut_tbPut]
theorem putGroup_putGroup (s : State) (k : Nat) (x y : Group) : putGroup (putGroup s k x) k y = putGroup s k y := by simp [putGroup, tbPut_tbPut]
theorem putLaunch_putLaunch (s : State) (k : Nat) (x y : Launch) : putLaunch (putLaunch s k x) k y = putLaunch s k y := by simp [putLaunch, tbPut_tbPut]
theorem putQuarter_putQuarter (s : State) (k : Nat) (x y : Quarter) : putQuarter (putQuarter s k x) k y = putQuarter s k y := by simp [putQuarter, tbPut_tbPut]
theorem putCore_putCore (s : State) (k : Nat) (x y : Core) : putCore (putCore s k x) k y = putCore s k y := by simp [putCore, tbPut_tbPut]
theorem putCluster_putCluster (s : State) (k : Nat) (x y : Cluster) : putCluster (putCluster s k x) k y = putCluster s k y := by simp [putCluster, tbPut_tbPut]
theorem putIsland_putIsland (s : State) (k : Nat) (x y : Island) : putIsland (putIsland s k x) k y = putIsland s k y := by simp [putIsland, tbPut_tbPut]
/-! Updates of a wave. -/
@[simp] theorem putSplit_group (w : Wave) (i : Nat) (x : Split) : (putSplit w i x).group = w.group := rfl
@[simp] theorem putSplit_quarter (w : Wave) (i : Nat) (x : Split) : (putSplit w i x).quarter = w.quarter := rfl
@[simp] theorem putSplit_num (w : Wave) (i : Nat) (x : Split) : (putSplit w i x).num = w.num := rfl
@[simp] theorem putSplit_role (w : Wave) (i : Nat) (x : Split) : (putSplit w i x).role = w.role := rfl
@[simp] theorem putSplit_width (w : Wave) (i : Nat) (x : Split) : (putSplit w i x).width = w.width := rfl
@[simp] theorem putSplit_regs (w : Wave) (i : Nat) (x : Split) : (putSplit w i x).regs = w.regs := rfl
@[simp] theorem putSplit_win (w : Wave) (i : Nat) (x : Split) : (putSplit w i x).win = w.win := rfl
@[simp] theorem putSplit_evt (w : Wave) (i : Nat) (x : Split) : (putSplit w i x).evt = w.evt := rfl
@[simp] theorem putSplit_tim (w : Wave) (i : Nat) (x : Split) : (putSplit w i x).tim = w.tim := rfl
@[simp] theorem putSplit_out (w : Wave) (i : Nat) (x : Split) : (putSplit w i x).out = w.out := rfl
@[simp] theorem putSplit_batch (w : Wave) (i : Nat) (x : Split) : (putSplit w i x).batch = w.batch := rfl
@[simp] theorem putSplit_layout (w : Wave) (i : Nat) (x : Split) : (putSplit w i x).layout = w.layout := rfl
@[simp] theorem putSplit_apnd (w : Wave) (i : Nat) (x : Split) : (putSplit w i x).apnd = w.apnd := rfl
@[simp] theorem putSplit_commits (w : Wave) (i : Nat) (x : Split) : (putSplit w i x).commits = w.commits := rfl
@[simp] theorem putSplit_block (w : Wave) (i : Nat) (x : Split) : (putSplit w i x).block = w.block := rfl
@[simp] theorem putSplit_fenced (w : Wave) (i : Nat) (x : Split) : (putSplit w i x).fenced = w.fenced := rfl
@[simp] theorem rowSet_group (w : Wave) (r l : Nat) (v : Lane) : (rowSet w r l v).group = w.group := rfl
@[simp] theorem rowSet_quarter (w : Wave) (r l : Nat) (v : Lane) : (rowSet w r l v).quarter = w.quarter := rfl
@[simp] theorem rowSet_num (w : Wave) (r l : Nat) (v : Lane) : (rowSet w r l v).num = w.num := rfl
@[simp] theorem rowSet_role (w : Wave) (r l : Nat) (v : Lane) : (rowSet w r l v).role = w.role := rfl
@[simp] theorem rowSet_width (w : Wave) (r l : Nat) (v : Lane) : (rowSet w r l v).width = w.width := rfl
@[simp] theorem rowSet_win (w : Wave) (r l : Nat) (v : Lane) : (rowSet w r l v).win = w.win := rfl
@[simp] theorem rowSet_ctl (w : Wave) (r l : Nat) (v : Lane) : (rowSet w r l v).ctl = w.ctl := rfl
@[simp] theorem rowSet_evt (w : Wave) (r l : Nat) (v : Lane) : (rowSet w r l v).evt = w.evt := rfl
@[simp] theorem rowSet_tim (w : Wave) (r l : Nat) (v : Lane) : (rowSet w r l v).tim = w.tim := rfl
@[simp] theorem rowSet_out (w : Wave) (r l : Nat) (v : Lane) : (rowSet w r l v).out = w.out := rfl
@[simp] theorem rowSet_batch (w : Wave) (r l : Nat) (v : Lane) : (rowSet w r l v).batch = w.batch := rfl
@[simp] theorem rowSet_layout (w : Wave) (r l : Nat) (v : Lane) : (rowSet w r l v).layout = w.layout := rfl
@[simp] theorem rowSet_apnd (w : Wave) (r l : Nat) (v : Lane) : (rowSet w r l v).apnd = w.apnd := rfl
@[simp] theorem rowSet_commits (w : Wave) (r l : Nat) (v : Lane) : (rowSet w r l v).commits = w.commits := rfl
@[simp] theorem rowSet_block (w : Wave) (r l : Nat) (v : Lane) : (rowSet w r l v).block = w.block := rfl
@[simp] theorem rowSet_fenced (w : Wave) (r l : Nat) (v : Lane) : (rowSet w r l v).fenced = w.fenced := rfl
@[simp] theorem mset_group (w : Wave) (r : Nat) (v : Mask) : (mset w r v).group = w.group := rfl
@[simp] theorem mset_quarter (w : Wave) (r : Nat) (v : Mask) : (mset w r v).quarter = w.quarter := rfl
@[simp] theorem mset_num (w : Wave) (r : Nat) (v : Mask) : (mset w r v).num = w.num := rfl
@[simp] theorem mset_role (w : Wave) (r : Nat) (v : Mask) : (mset w r v).role = w.role := rfl
@[simp] theorem mset_width (w : Wave) (r : Nat) (v : Mask) : (mset w r v).width = w.width := rfl
@[simp] theorem mset_win (w : Wave) (r : Nat) (v : Mask) : (mset w r v).win = w.win := rfl
@[simp] theorem mset_ctl (w : Wave) (r : Nat) (v : Mask) : (mset w r v).ctl = w.ctl := rfl
@[simp] theorem mset_evt (w : Wave) (r : Nat) (v : Mask) : (mset w r v).evt = w.evt := rfl
@[simp] theorem mset_tim (w : Wave) (r : Nat) (v : Mask) : (mset w r v).tim = w.tim := rfl
@[simp] theorem mset_out (w : Wave) (r : Nat) (v : Mask) : (mset w r v).out = w.out := rfl
@[simp] theorem mset_batch (w : Wave) (r : Nat) (v : Mask) : (mset w r v).batch = w.batch := rfl
@[simp] theorem mset_layout (w : Wave) (r : Nat) (v : Mask) : (mset w r v).layout = w.layout := rfl
@[simp] theorem mset_apnd (w : Wave) (r : Nat) (v : Mask) : (mset w r v).apnd = w.apnd := rfl
@[simp] theorem mset_commits (w : Wave) (r : Nat) (v : Mask) : (mset w r v).commits = w.commits := rfl
@[simp] theorem mset_block (w : Wave) (r : Nat) (v : Mask) : (mset w r v).block = w.block := rfl
@[simp] theorem mset_fenced (w : Wave) (r : Nat) (v : Mask) : (mset w r v).fenced = w.fenced := rfl
@[simp] theorem thSet_group (w : Wave) (n k v : Nat) : (thSet w n k v).group = w.group := rfl
@[simp] theorem thSet_quarter (w : Wave) (n k v : Nat) : (thSet w n k v).quarter = w.quarter := rfl
@[simp] theorem thSet_num (w : Wave) (n k v : Nat) : (thSet w n k v).num = w.num := rfl
@[simp] theorem thSet_role (w : Wave) (n k v : Nat) : (thSet w n k v).role = w.role := rfl
@[simp] theorem thSet_width (w : Wave) (n k v : Nat) : (thSet w n k v).width = w.width := rfl
@[simp] theorem thSet_win (w : Wave) (n k v : Nat) : (thSet w n k v).win = w.win := rfl
@[simp] theorem thSet_ctl (w : Wave) (n k v : Nat) : (thSet w n k v).ctl = w.ctl := rfl
@[simp] theorem thSet_evt (w : Wave) (n k v : Nat) : (thSet w n k v).evt = w.evt := rfl
@[simp] theorem thSet_tim (w : Wave) (n k v : Nat) : (thSet w n k v).tim = w.tim := rfl
@[simp] theorem thSet_out (w : Wave) (n k v : Nat) : (thSet w n k v).out = w.out := rfl
@[simp] theorem thSet_batch (w : Wave) (n k v : Nat) : (thSet w n k v).batch = w.batch := rfl
@[simp] theorem thSet_layout (w : Wave) (n k v : Nat) : (thSet w n k v).layout = w.layout := rfl
@[simp] theorem thSet_apnd (w : Wave) (n k v : Nat) : (thSet w n k v).apnd = w.apnd := rfl
@[simp] theorem thSet_commits (w : Wave) (n k v : Nat) : (thSet w n k v).commits = w.commits := rfl
@[simp] theorem thSet_block (w : Wave) (n k v : Nat) : (thSet w n k v).block = w.block := rfl
@[simp] theorem thSet_fenced (w : Wave) (n k v : Nat) : (thSet w n k v).fenced = w.fenced := rfl
@[simp] theorem raise_group (w : Wave) (f : Flags) : (raise w f).group = w.group := rfl
@[simp] theorem raise_quarter (w : Wave) (f : Flags) : (raise w f).quarter = w.quarter := rfl
@[simp] theorem raise_num (w : Wave) (f : Flags) : (raise w f).num = w.num := rfl
@[simp] theorem raise_role (w : Wave) (f : Flags) : (raise w f).role = w.role := rfl
@[simp] theorem raise_width (w : Wave) (f : Flags) : (raise w f).width = w.width := rfl
@[simp] theorem raise_win (w : Wave) (f : Flags) : (raise w f).win = w.win := rfl
@[simp] theorem raise_ctl (w : Wave) (f : Flags) : (raise w f).ctl = w.ctl := rfl
@[simp] theorem raise_evt (w : Wave) (f : Flags) : (raise w f).evt = w.evt := rfl
@[simp] theorem raise_tim (w : Wave) (f : Flags) : (raise w f).tim = w.tim := rfl
@[simp] theorem raise_out (w : Wave) (f : Flags) : (raise w f).out = w.out := rfl
@[simp] theorem raise_batch (w : Wave) (f : Flags) : (raise w f).batch = w.batch := rfl
@[simp] theorem raise_layout (w : Wave) (f : Flags) : (raise w f).layout = w.layout := rfl
@[simp] theorem raise_apnd (w : Wave) (f : Flags) : (raise w f).apnd = w.apnd := rfl
@[simp] theorem raise_commits (w : Wave) (f : Flags) : (raise w f).commits = w.commits := rfl
@[simp] theorem raise_block (w : Wave) (f : Flags) : (raise w f).block = w.block := rfl
@[simp] theorem raise_fenced (w : Wave) (f : Flags) : (raise w f).fenced = w.fenced := rfl
@[simp] theorem cntSet_group (w : Wave) (l v : Nat) : (cntSet w l v).group = w.group := rfl
@[simp] theorem cntSet_quarter (w : Wave) (l v : Nat) : (cntSet w l v).quarter = w.quarter := rfl
@[simp] theorem cntSet_num (w : Wave) (l v : Nat) : (cntSet w l v).num = w.num := rfl
@[simp] theorem cntSet_role (w : Wave) (l v : Nat) : (cntSet w l v).role = w.role := rfl
@[simp] theorem cntSet_width (w : Wave) (l v : Nat) : (cntSet w l v).width = w.width := rfl
@[simp] theorem cntSet_regs (w : Wave) (l v : Nat) : (cntSet w l v).regs = w.regs := rfl
@[simp] theorem cntSet_win (w : Wave) (l v : Nat) : (cntSet w l v).win = w.win := rfl
@[simp] theorem cntSet_evt (w : Wave) (l v : Nat) : (cntSet w l v).evt = w.evt := rfl
@[simp] theorem cntSet_tim (w : Wave) (l v : Nat) : (cntSet w l v).tim = w.tim := rfl
@[simp] theorem cntSet_out (w : Wave) (l v : Nat) : (cntSet w l v).out = w.out := rfl
@[simp] theorem cntSet_batch (w : Wave) (l v : Nat) : (cntSet w l v).batch = w.batch := rfl
@[simp] theorem cntSet_layout (w : Wave) (l v : Nat) : (cntSet w l v).layout = w.layout := rfl
@[simp] theorem cntSet_apnd (w : Wave) (l v : Nat) : (cntSet w l v).apnd = w.apnd := rfl
@[simp] theorem cntSet_commits (w : Wave) (l v : Nat) : (cntSet w l v).commits = w.commits := rfl
@[simp] theorem cntSet_block (w : Wave) (l v : Nat) : (cntSet w l v).block = w.block := rfl
@[simp] theorem cntSet_fenced (w : Wave) (l v : Nat) : (cntSet w l v).fenced = w.fenced := rfl
@[simp] theorem sset_group (w : Wave) (r : Nat) (v : Scalar) : (sset w r v).group = w.group := by unfold sset; split <;> rfl
@[simp] theorem sset_quarter (w : Wave) (r : Nat) (v : Scalar) : (sset w r v).quarter = w.quarter := by unfold sset; split <;> rfl
@[simp] theorem sset_num (w : Wave) (r : Nat) (v : Scalar) : (sset w r v).num = w.num := by unfold sset; split <;> rfl
@[simp] theorem sset_role (w : Wave) (r : Nat) (v : Scalar) : (sset w r v).role = w.role := by unfold sset; split <;> rfl
@[simp] theorem sset_width (w : Wave) (r : Nat) (v : Scalar) : (sset w r v).width = w.width := by unfold sset; split <;> rfl
@[simp] theorem sset_win (w : Wave) (r : Nat) (v : Scalar) : (sset w r v).win = w.win := by unfold sset; split <;> rfl
@[simp] theorem sset_ctl (w : Wave) (r : Nat) (v : Scalar) : (sset w r v).ctl = w.ctl := by unfold sset; split <;> rfl
@[simp] theorem sset_evt (w : Wave) (r : Nat) (v : Scalar) : (sset w r v).evt = w.evt := by unfold sset; split <;> rfl
@[simp] theorem sset_tim (w : Wave) (r : Nat) (v : Scalar) : (sset w r v).tim = w.tim := by unfold sset; split <;> rfl
@[simp] theorem sset_out (w : Wave) (r : Nat) (v : Scalar) : (sset w r v).out = w.out := by unfold sset; split <;> rfl
@[simp] theorem sset_batch (w : Wave) (r : Nat) (v : Scalar) : (sset w r v).batch = w.batch := by unfold sset; split <;> rfl
@[simp] theorem sset_layout (w : Wave) (r : Nat) (v : Scalar) : (sset w r v).layout = w.layout := by unfold sset; split <;> rfl
@[simp] theorem sset_apnd (w : Wave) (r : Nat) (v : Scalar) : (sset w r v).apnd = w.apnd := by unfold sset; split <;> rfl
@[simp] theorem sset_commits (w : Wave) (r : Nat) (v : Scalar) : (sset w r v).commits = w.commits := by unfold sset; split <;> rfl
@[simp] theorem sset_block (w : Wave) (r : Nat) (v : Scalar) : (sset w r v).block = w.block := by unfold sset; split <;> rfl
@[simp] theorem sset_fenced (w : Wave) (r : Nat) (v : Scalar) : (sset w r v).fenced = w.fenced := by unfold sset; split <;> rfl
@[simp] theorem rowSet_regs_sca (w : Wave) (r l : Nat) (v : Lane) : (rowSet w r l v).regs.sca = w.regs.sca := rfl
@[simp] theorem rowSet_regs_msk (w : Wave) (r l : Nat) (v : Lane) : (rowSet w r l v).regs.msk = w.regs.msk := rfl
@[simp] theorem rowSet_regs_th (w : Wave) (r l : Nat) (v : Lane) : (rowSet w r l v).regs.th = w.regs.th := rfl
@[simp] theorem rowSet_regs_flags (w : Wave) (r l : Nat) (v : Lane) : (rowSet w r l v).regs.flags = w.regs.flags := rfl
@[simp] theorem rowSet_regs_strict (w : Wave) (r l : Nat) (v : Lane) : (rowSet w r l v).regs.strict = w.regs.strict := rfl
@[simp] theorem rowSet_regs_bad (w : Wave) (r l : Nat) (v : Lane) :
    (rowSet w r l v).regs.bad = w.regs.bad.filter (· != laneKey r l) := rfl
@[simp] theorem mset_regs_vec (w : Wave) (r : Nat) (v : Mask) : (mset w r v).regs.vec = w.regs.vec := rfl
@[simp] theorem mset_regs_sca (w : Wave) (r : Nat) (v : Mask) : (mset w r v).regs.sca = w.regs.sca := rfl
@[simp] theorem mset_regs_th (w : Wave) (r : Nat) (v : Mask) : (mset w r v).regs.th = w.regs.th := rfl
@[simp] theorem mset_regs_flags (w : Wave) (r : Nat) (v : Mask) : (mset w r v).regs.flags = w.regs.flags := rfl
@[simp] theorem mset_regs_strict (w : Wave) (r : Nat) (v : Mask) : (mset w r v).regs.strict = w.regs.strict := rfl
@[simp] theorem mset_regs_bad (w : Wave) (r : Nat) (v : Mask) : (mset w r v).regs.bad = w.regs.bad := rfl
@[simp] theorem thSet_regs_vec (w : Wave) (n k v : Nat) : (thSet w n k v).regs.vec = w.regs.vec := rfl
@[simp] theorem thSet_regs_sca (w : Wave) (n k v : Nat) : (thSet w n k v).regs.sca = w.regs.sca := rfl
@[simp] theorem thSet_regs_msk (w : Wave) (n k v : Nat) : (thSet w n k v).regs.msk = w.regs.msk := rfl
@[simp] theorem thSet_regs_flags (w : Wave) (n k v : Nat) : (thSet w n k v).regs.flags = w.regs.flags := rfl
@[simp] theorem thSet_regs_strict (w : Wave) (n k v : Nat) : (thSet w n k v).regs.strict = w.regs.strict := rfl
@[simp] theorem thSet_regs_bad (w : Wave) (n k v : Nat) : (thSet w n k v).regs.bad = w.regs.bad := rfl
@[simp] theorem raise_regs_vec (w : Wave) (f : Flags) : (raise w f).regs.vec = w.regs.vec := rfl
@[simp] theorem raise_regs_sca (w : Wave) (f : Flags) : (raise w f).regs.sca = w.regs.sca := rfl
@[simp] theorem raise_regs_msk (w : Wave) (f : Flags) : (raise w f).regs.msk = w.regs.msk := rfl
@[simp] theorem raise_regs_th (w : Wave) (f : Flags) : (raise w f).regs.th = w.regs.th := rfl
@[simp] theorem raise_regs_strict (w : Wave) (f : Flags) : (raise w f).regs.strict = w.regs.strict := rfl
@[simp] theorem raise_regs_bad (w : Wave) (f : Flags) : (raise w f).regs.bad = w.regs.bad := rfl
@[simp] theorem sset_regs_vec (w : Wave) (r : Nat) (v : Scalar) : (sset w r v).regs.vec = w.regs.vec := by unfold sset; split <;> rfl
@[simp] theorem sset_regs_msk (w : Wave) (r : Nat) (v : Scalar) : (sset w r v).regs.msk = w.regs.msk := by unfold sset; split <;> rfl
@[simp] theorem sset_regs_th (w : Wave) (r : Nat) (v : Scalar) : (sset w r v).regs.th = w.regs.th := by unfold sset; split <;> rfl
@[simp] theorem sset_regs_flags (w : Wave) (r : Nat) (v : Scalar) : (sset w r v).regs.flags = w.regs.flags := by unfold sset; split <;> rfl
@[simp] theorem sset_regs_strict (w : Wave) (r : Nat) (v : Scalar) : (sset w r v).regs.strict = w.regs.strict := by unfold sset; split <;> rfl
@[simp] theorem sset_regs_bad (w : Wave) (r : Nat) (v : Scalar) : (sset w r v).regs.bad = w.regs.bad := by unfold sset; split <;> rfl

/-! Splits of a wave. -/
@[simp] theorem getSplit_sset (w : Wave) (r i : Nat) (v : Scalar) : getSplit (sset w r v) i = getSplit w i := by simp [getSplit]
@[simp] theorem getSplit_mset (w : Wave) (r i : Nat) (v : Mask) : getSplit (mset w r v) i = getSplit w i := rfl
@[simp] theorem getSplit_rowSet (w : Wave) (r l i : Nat) (v : Lane) : getSplit (rowSet w r l v) i = getSplit w i := rfl
@[simp] theorem getSplit_thSet (w : Wave) (n k v i : Nat) : getSplit (thSet w n k v) i = getSplit w i := rfl
@[simp] theorem getSplit_raise (w : Wave) (f : Flags) (i : Nat) : getSplit (raise w f) i = getSplit w i := rfl
@[simp] theorem getSplit_cntSet (w : Wave) (l v i : Nat) : getSplit (cntSet w l v) i = getSplit w i := rfl
theorem getSplit_putSplit_self (w : Wave) (i : Nat) (x : Split) (h : i < w.ctl.splits.length) : getSplit (putSplit w i x) i = x := by
  simp [getSplit, putSplit, h]
theorem getSplit_putSplit_ne (w : Wave) (i j : Nat) (x : Split) (h : j ≠ i) : getSplit (putSplit w i x) j = getSplit w j := by
  simp [getSplit, putSplit, List.getElem?_set_ne (Ne.symm h)]
theorem putSplit_length (w : Wave) (i : Nat) (x : Split) : (putSplit w i x).ctl.splits.length = w.ctl.splits.length := by simp [putSplit]
theorem putSplit_putSplit (w : Wave) (i : Nat) (x y : Split) : putSplit (putSplit w i x) i y = putSplit w i y := by simp [putSplit]

/-! R84: the scalar s0. -/
@[simp] theorem sget_zero (w : Wave) : sget w 0 = 0 := rfl
@[simp] theorem sset_zero (w : Wave) (v : Scalar) : sset w 0 v = w := rfl

end Sys2Proof.Machine
end

