-- ==== Sys2Proof/Laws/Issue.lean ====
section
/-!
SUPPORT. The issue of one instruction (R53, R90, R376): once no check stops it, the next state is that of its own effect. One lemma for each
way an effect ends.
-/
namespace Sys2Proof.Machine

theorem tbGet?_isSome_get {α : Type} {m : Tbl α} {k : Nat} {z : α} (h : (tbGet? m k).isSome = true) : tbGet? m k = some (tbGet z m k) := by
  cases e : tbGet? m k with
  | none => simp [e] at h
  | some v => simp [tbGet, e]

/-- The fields of `ready`. -/
theorem ready_iff {s : State} {wv sp : Nat} {u : Usage} : ready s wv sp u = true ↔
    (waveAt s wv).regs.bad = [] ∧ s.cur = some (wv, sp) ∧ (tbGet? s.waves wv).isSome = true ∧ sp < 4 ∧ (waveAt s wv).ctl.splits.length = 4 ∧
    (getSplit (waveAt s wv) sp).valid = true ∧ (getSplit (waveAt s wv) sp).held = false ∧ (waveAt s wv).ctl.wait = .no ∧
    (waveAt s wv).out = [] ∧ u.legal = true ∧ (u.priv = true → privileged s (waveAt s wv) = true) ∧
    rangeBad (getSplit (waveAt s wv) sp).frame u = false ∧ (u.skipExec = true ∨ actOf (waveAt s wv) sp ≠ 0) ∧
    refillNeed (waveAt s wv) (getSplit (waveAt s wv) sp).frame u = none ∧
    (u.collective = true → liveSplits (waveAt s wv) = [sp] ∧ jmpxHolder (getSplit (waveAt s wv) sp) = false) := by
  simp only [ready, Bool.and_eq_true, Bool.or_eq_true, Bool.not_eq_true', decide_eq_true_eq, List.isEmpty_iff, Option.isNone_iff_eq_none]
  constructor
  · rintro ⟨⟨⟨⟨⟨⟨⟨⟨⟨⟨⟨⟨⟨⟨z, a⟩, b⟩, c⟩, d⟩, e⟩, f⟩, g⟩, h⟩, i⟩, j⟩, k⟩, l⟩, m⟩, n⟩
    refine ⟨z, a, b, c, d, e, f, g, h, i, ?_, k, l, m, ?_⟩
    · intro hp; rcases j with j | j
      · simp [hp] at j
      · exact j
    · intro hp; rcases n with n | n
      · simp [hp] at n
      · exact n
  · rintro ⟨z, a, b, c, d, e, f, g, h, i, j, k, l, m, n⟩
    refine ⟨⟨⟨⟨⟨⟨⟨⟨⟨⟨⟨⟨⟨⟨z, a⟩, b⟩, c⟩, d⟩, e⟩, f⟩, g⟩, h⟩, i⟩, ?_⟩, k⟩, l⟩, m⟩, ?_⟩
    · cases hp : u.priv
      · exact .inl rfl
      · exact .inr (j hp)
    · cases hp : u.collective
      · exact .inl rfl
      · exact .inr (n hp)

theorem waveAt_of_get {s : State} {wv : Nat} (h : (tbGet? s.waves wv).isSome = true) : tbGet? s.waves wv = some (waveAt s wv) :=
  tbGet?_isSome_get h

/-- R96: with nothing outstanding, an instruction reads the wave itself. -/
theorem raceView_nil {n : Nat} {w : Wave} (h : w.out = []) : raceView n w = w := by simp [raceView, h]

/-- R97: with nothing outstanding, STRICT never traps. -/
theorem strictBad_nil {w : Wave} {f : Frame} {u : Usage} (h : w.out = []) : strictBad w f u = false := by
  have hr : (fun row => outRow w row) = fun _ => false := by funext row; simp [outRow, h]
  have hs : (fun n => outSca w n) = fun _ => false := by funext n; simp [outSca, h]
  have hr' : outRow w = fun _ => false := hr
  have hs' : outSca w = fun _ => false := hs
  simp [strictBad, hr', hs']

/-! The gather of a lone split (R376). -/
theorem liveSplits_valid {w w' : Wave} (h : ∀ i, i < 4 → (getSplit w' i).valid = (getSplit w i).valid) : liveSplits w' = liveSplits w := by
  simp [liveSplits, splitIds, List.filter, h]

theorem gather_lone {w : Wave} {sp : Nat} (hl : liveSplits w = [sp]) (h4 : sp < w.ctl.splits.length) (hv : (getSplit w sp).valid = true)
    (hj : jmpxHolder (getSplit w sp) = false) :
    gather w sp = (.runs (let w1 := putSplit w sp (unparked (getSplit w sp))
                          { w1 with ctl := { w1.ctl with parks := w.ctl.parks + 1 } }) sp, 0) := by
  have g1 : getSplit (parkSplit w sp .collective) sp =
      { getSplit w sp with
        park :=
          { kind := .collective, since := if (getSplit w sp).park.back then (getSplit w sp).park.since else w.ctl.parks, clocks := 0 } } :=
    getSplit_putSplit_self w sp _ h4
  have hl1 : liveSplits (parkSplit w sp .collective) = [sp] := by
    rw [liveSplits_valid (w := w), hl]
    intro i _
    by_cases e : i = sp
    · subst e; rw [g1]
    · exact congrArg Split.valid (getSplit_putSplit_ne w sp i _ e)
  have hg : gathered (parkSplit w sp .collective) (getSplit w sp).pc = true := by
    have e1 : ((getSplit w sp).pc == (getSplit w sp).pc) = true := by simp
    have e2 : (ParkKind.collective == ParkKind.collective) = true := by decide
    simp [gathered, hl1, g1]
  have hf : fuseAll [sp] (parkSplit w sp .collective) = parkSplit w sp .collective := by simp [fuseAll, g1, hv, fuseInto]
  have hj1 : jmpxHolder (getSplit (parkSplit w sp .collective) sp) = false := by rw [g1]; exact hj
  have ha : apartCount (parkSplit w sp .collective) (parkSplit w sp .collective) (fun _ => false) [sp] = 0 := by
    simp [apartCount, List.filter]
  have hp : putSplit (parkSplit w sp .collective) sp (unparked (getSplit (parkSplit w sp .collective) sp)) =
      (let w1 := putSplit w sp (unparked (getSplit w sp))
       { w1 with ctl := { w1.ctl with parks := w.ctl.parks + 1 } }) := by
    rw [g1]
    simp [parkSplit, putSplit, unparked]
  simp only [gather, hg, if_true, hl1, hf, List.any_cons, List.any_nil, hj1, Bool.or_false, Bool.false_eq_true, if_false, List.headD_cons, hp, ha]

/-- What `ready` comes to: the body runs on `begun`. -/
theorem issue_ready {s : State} {wv sp : Nat} {y : Bool} {u : Usage} {body : Ctx → State → State × Eff} (h : ready s wv sp u = true) :
    issue s y u body = .next (runBody (begun s wv sp u) wv sp y u body) := by
  obtain ⟨_, a, b, c, d, e, f, g, hn, i, j, k, l, m, n⟩ := ready_iff.1 h
  have hi : issueAt s wv sp y u body = runBody (begun s wv sp u) wv sp y u body := by
    have hpr : (u.priv && !privileged s (waveAt s wv)) = false := by
      cases hp : u.priv
      · rfl
      · simp [j hp]
    have hact : (decide (actOf (waveAt s wv) sp = 0) && !u.skipExec) = false := by
      rcases l with l | l
      · simp [l]
      · simpa using fun e0 => absurd e0 l
    have hact' : ¬ ((actOf (waveAt s wv) sp = 0 : Bool) && !u.skipExec) = true := by simpa using hact
    simp only [issueAt, i, Bool.not_true, Bool.false_eq_true, if_false, hpr, k, hact', strictBad_nil hn, m, Bool.and_false, ite_self]
    by_cases hc : u.collective = true
    · obtain ⟨hl, hj⟩ := n hc
      have hlen : sp < (waveAt s wv).ctl.splits.length := by omega
      simp only [hc, if_true, gather_lone hl hlen e hj, begun]
      simp
    · have hc' : u.collective = false := by simpa using hc
      simp [hc', begun]
  simp [issue, a, hi]

/-- `begun` leaves what the checks looked at. -/
theorem begun_out {s : State} {wv sp : Nat} {u : Usage} (h : (waveAt s wv).out = []) : (waveAt (begun s wv sp u) wv).out = [] := by
  unfold begun
  split
  · simpa using h
  · exact h
theorem begun_bad {s : State} {wv sp : Nat} {u : Usage} (h : (waveAt s wv).regs.bad = []) : (waveAt (begun s wv sp u) wv).regs.bad = [] := by
  unfold begun
  split
  · simpa using h
  · exact h
theorem begun_resident {s : State} {wv sp : Nat} {u : Usage} (h : (tbGet? s.waves wv).isSome = true) :
    (tbGet? (begun s wv sp u).waves wv).isSome = true := by
  unfold begun
  split
  · simp [tbGet?_tbPut_self]
  · exact h
theorem begun_plain {s : State} {wv sp : Nat} {u : Usage} (h : u.collective = false) : begun s wv sp u = s := by simp [begun, h]

/-- The effect, and what follows it. -/
theorem runBody_quiet {s : State} {wv sp : Nat} {y : Bool} {u : Usage} {body : Ctx → State → State × Eff} {t : State} {e : Eff}
    (hz : (waveAt s wv).regs.bad = []) (ho : (waveAt s wv).out = []) (hb : body (seen s wv sp) (entered s wv sp u.closes) = (t, e)) :
    runBody s wv sp y u body = finish t wv sp y u.collective e := by
  have hv : raceView s.free (waveAt s wv) = waveAt s wv := raceView_nil ho
  have hs : seen s wv sp = { seen s wv sp with view := raceView s.free (waveAt s wv) } := by rw [hv]; rfl
  rw [hs] at hb
  simp only [seen, entered] at hb
  have hq (v : Wave) : badView s.free [] v = v := rfl
  simp only [runBody, hz, hq, hb, ho, List.isEmpty_nil, Bool.not_true, Bool.and_false, Bool.false_eq_true, if_false, if_true]

/-- The fields of `steady`. -/
theorem steady_iff {s : State} {wv sp : Nat} : steady s wv sp = true ↔
    (tbGet? s.waves wv).isSome = true ∧ (waveAt s wv).ctl.splits.length = 4 ∧ (getSplit (waveAt s wv) sp).valid = true ∧
    (getSplit (waveAt s wv) sp).held = false ∧ (waveAt s wv).ctl.wait = .no := by
  simp [steady, and_assoc]

theorem onWave_eq {s : State} {wv : Nat} {f : Wave → Wave} (h : (tbGet? s.waves wv).isSome = true) :
    onWave s wv f = putWave s wv (f (waveAt s wv)) := by
  simp [onWave, waveAt_of_get h]
theorem settle_running {s : State} {wv sp : Nat} {w : Wave} (hw : w.ctl.wait = .no) (h4 : sp < 4) (hv : (getSplit w sp).valid = true)
    (hh : (getSplit w sp).held = false) (hp : (getSplit w sp).park.kind = .no) : settleSlots (putWave s wv w) wv = putWave s wv w := by
  have hl : sp ∈ liveSplits w := by
    simp only [liveSplits, splitIds, List.mem_filter, hv, and_true]
    have : sp = 0 ∨ sp = 1 ∨ sp = 2 ∨ sp = 3 := by omega
    rcases this with rfl | rfl | rfl | rfl <;> decide
  have ha : allParked w = false := by
    simp only [allParked, List.all_eq_false]
    exact ⟨sp, hl, by simp [hh, hp]⟩
  simp [settleSlots, tbGet?_tbPut_self, hw, ha]
theorem marker_off {s : State} {wv : Nat} {y : Bool} {w : Wave} (h : y = false ∨ w.out = []) : marker (putWave s wv w) wv y = putWave s wv w := by
  rcases h with h | h <;> simp [marker, tbGet?_tbPut_self, h]

/-- R44: an instruction that jumps. -/
theorem finish_goto {t : State} {wv sp : Nat} {y coll : Bool} {pc : Nat} (h4 : sp < 4) (hs : steady t wv sp = true)
    (hy : y = false ∨ (waveAt t wv).out = []) : finish t wv sp y coll (.goto pc) = goesTo t wv sp pc := by
  obtain ⟨a, b, c, d, e⟩ := steady_iff.1 hs
  have hlen : sp < (waveAt t wv).ctl.splits.length := by omega
  have hg := getSplit_putSplit_self (waveAt t wv) sp { unparked (getSplit (waveAt t wv) sp) with pc := pc } hlen
  simp only [finish, onWave_eq a, goesTo]
  rw [marker_off (by simpa using hy)]
  exact settle_running (w := putSplit (waveAt t wv) sp _) e h4 (by rw [hg]; exact c) (by rw [hg]; exact d) (by rw [hg]; rfl)

theorem stepPast_eq (x : Split) : stepPast x = { unparked x with pc := pcNext x.pc } := rfl

/-- An instruction that goes on at PC + 4. -/
theorem finish_done {t : State} {wv sp : Nat} {y coll : Bool} (h4 : sp < 4) (hs : steady t wv sp = true)
    (hc : coll = true → liveSplits (waveAt t wv) = [sp]) (hy : y = false ∨ (waveAt t wv).out = []) :
    finish t wv sp y coll .done = stepped t wv sp := by
  have hg := finish_goto (y := y) (coll := coll) (pc := pcNext (getSplit (waveAt t wv) sp).pc) h4 hs hy
  obtain ⟨a, b, c, d, e⟩ := steady_iff.1 hs
  have : finish t wv sp y coll .done = finish t wv sp y coll (.goto (pcNext (getSplit (waveAt t wv) sp).pc)) := by
    simp only [finish, onWave_eq a]
    cases coll
    · rfl
    · simp [stepCollective, hc rfl, List.filter, mapSplits, stepPast_eq]
  rw [this, hg, stepped]

/-- An instruction of one wave that completes at PC + 4. -/
theorem issue_done {s t : State} {wv sp : Nat} {y : Bool} {u : Usage} {body : Ctx → State → State × Eff} (h : ready s wv sp u = true)
    (hb : body (seen (begun s wv sp u) wv sp) (entered (begun s wv sp u) wv sp u.closes) = (t, .done)) (hs : steady t wv sp = true)
    (hc : u.collective = true → liveSplits (waveAt t wv) = [sp]) (hy : y = false ∨ (waveAt t wv).out = []) :
    issue s y u body = .next (stepped t wv sp) := by
  obtain ⟨hb0, _, _, c, _, _, _, _, hn, _⟩ := ready_iff.1 h
  rw [issue_ready h, runBody_quiet (begun_bad hb0) (begun_out hn) hb, finish_done c hs hc hy]
/-- An instruction that completes with a jump. -/
theorem issue_goto {s t : State} {wv sp pc : Nat} {y : Bool} {u : Usage} {body : Ctx → State → State × Eff} (h : ready s wv sp u = true)
    (hb : body (seen (begun s wv sp u) wv sp) (entered (begun s wv sp u) wv sp u.closes) = (t, .goto pc)) (hs : steady t wv sp = true)
    (hy : y = false ∨ (waveAt t wv).out = []) :
    issue s y u body = .next (goesTo t wv sp pc) := by
  obtain ⟨hb0, _, _, c, _, _, _, _, hn, _⟩ := ready_iff.1 h
  rw [issue_ready h, runBody_quiet (begun_bad hb0) (begun_out hn) hb, finish_goto c hs hy]

/-! The state on which an effect acts. -/
theorem entered_wave (s : State) (wv sp : Nat) (cl : Bool) : waveAt (entered s wv sp cl) wv = openIssue (waveAt s wv) sp cl := by
  simp [entered]
theorem openIssue_split {w : Wave} {sp : Nat} (h : sp < w.ctl.splits.length) (cl : Bool) :
    getSplit (openIssue w sp cl) sp = if cl then closeRegion (getSplit w sp) else getSplit w sp := by
  cases cl
  · rfl
  · simp only [openIssue, if_true]
    exact getSplit_putSplit_self w sp _ h
@[simp] theorem openIssue_regs (w : Wave) (sp : Nat) (cl : Bool) : (openIssue w sp cl).regs = w.regs := by cases cl <;> rfl
@[simp] theorem openIssue_out (w : Wave) (sp : Nat) (cl : Bool) : (openIssue w sp cl).out = w.out := by cases cl <;> rfl
@[simp] theorem openIssue_width (w : Wave) (sp : Nat) (cl : Bool) : (openIssue w sp cl).width = w.width := by cases cl <;> rfl
@[simp] theorem openIssue_win (w : Wave) (sp : Nat) (cl : Bool) : (openIssue w sp cl).win = w.win := by cases cl <;> rfl
@[simp] theorem openIssue_wait (w : Wave) (sp : Nat) (cl : Bool) : (openIssue w sp cl).ctl.wait = w.ctl.wait := by cases cl <;> rfl
@[simp] theorem openIssue_length (w : Wave) (sp : Nat) (cl : Bool) : (openIssue w sp cl).ctl.splits.length = w.ctl.splits.length := by
  cases cl
  · rfl
  · simp [openIssue, putSplit]

/-- The effect of a ready instruction begins in a steady state. -/
theorem entered_steady {s : State} {wv sp : Nat} {u : Usage} (h : ready s wv sp u = true) :
    steady (entered (begun s wv sp u) wv sp u.closes) wv sp = true := by
  obtain ⟨_, _, b, c, d, e, f, g, _⟩ := ready_iff.1 h
  have hw : (waveAt (begun s wv sp u) wv).ctl.splits.length = 4 ∧ (getSplit (waveAt (begun s wv sp u) wv) sp).valid = true ∧
      (getSplit (waveAt (begun s wv sp u) wv) sp).held = false ∧ (waveAt (begun s wv sp u) wv).ctl.wait = .no := by
    unfold begun
    split
    · have hg := getSplit_putSplit_self (waveAt s wv) sp (unparked (getSplit (waveAt s wv) sp)) (by omega)
      simp only [waveAt_putWave]
      refine ⟨by simpa [putSplit] using d, ?_, ?_, g⟩
      · exact (congrArg Split.valid hg).trans e
      · exact (congrArg Split.held hg).trans f
    · exact ⟨d, e, f, g⟩
  obtain ⟨d', e', f', g'⟩ := hw
  rw [steady_iff, entered_wave, openIssue_split (by omega)]
  refine ⟨by simp [entered, tbGet?_tbPut_self], by simpa using d', ?_, ?_, by simpa using g'⟩
  · split
    · exact e'
    · exact e'
  · split
    · exact f'
    · exact f'

/-- R126 and others: an instruction that writes registers of its wave only. -/
theorem issue_onRegs {s : State} {wv sp : Nat} {y : Bool} {u : Usage} {f : Ctx → Wave → Wave} (h : ready s wv sp u = true)
    (hc : u.collective = false)
    (hctl : ∀ w, (f (seen s wv sp) w).ctl = w.ctl) (hout : ∀ w, (f (seen s wv sp) w).out = w.out) :
    issue s y u (onRegs f) =
      .next (stepped (putWave { s with free := s.free + 2 } wv (f (seen s wv sp) (openIssue (waveAt s wv) sp u.closes))) wv sp) := by
  have he := entered_steady h
  obtain ⟨hb0, _, _, c, _, _, _, _, hn, _⟩ := ready_iff.1 h
  rw [begun_plain hc] at he
  obtain ⟨a', b', c', d', e'⟩ := steady_iff.1 he
  rw [entered_wave] at b' c' d' e'
  have hb : onRegs f (seen (begun s wv sp u) wv sp) (entered (begun s wv sp u) wv sp u.closes) =
      (putWave { s with free := s.free + 2 } wv (f (seen s wv sp) (openIssue (waveAt s wv) sp u.closes)), .done) := by
    rw [begun_plain hc]
    simp only [onRegs]
    have hwv : (seen s wv sp).wv = wv := rfl
    rw [hwv, entered_wave]
    simp [entered, putWave, tbPut_tbPut]
  refine issue_done h hb ?_ ?_ ?_
  · rw [steady_iff]
    simp only [waveAt_putWave, getSplit, hctl]
    exact ⟨by simp [tbGet?_tbPut_self], b', c', d', e'⟩
  · intro h'; simp [hc] at h'
  · right
    simp [hout, hn]

end Sys2Proof.Machine
end

