-- ==== Sys2Proof/Laws/Memory.lean ====
section
/-!
SUPPORT. Memory at the home agents: bytes read after a write, what a write leaves alone, and the canonical form (log 3), which reset has and which
every operation on memory, on the caches and on translations keeps.
-/
namespace Sys2Proof.Machine

/-! One byte, and a run of bytes. -/
theorem reset_mem_wf : Memory.wf State.reset.dev.mem = true := rfl
theorem veilMeets_of_veilOn {a : Nat} {v : Veil} (h : veilOn a v = true) : veilMeets (a / 128) v = true := by
  simp only [veilOn, veilMeets, Bool.and_eq_true, decide_eq_true_eq] at h ⊢
  exact ⟨⟨by omega, by omega⟩, h.2⟩
/-- A line is open after it is opened: no region with a changed key holds it. -/
theorem openLine_find (s : State) (a : Nat) : (openLine s (a / 128)).dev.veils.find? (veilOn a) = none := by
  unfold openLine
  split
  · rw [List.find?_eq_none]
    intro v hv
    obtain ⟨u, -, rfl⟩ := List.mem_map.1 hv
    by_cases e : veilMeets (a / 128) u = true
    · simp [e, veilOn]
    · rw [if_neg e]; exact fun c => e (veilMeets_of_veilOn c)
  · next e =>
    rw [List.find?_eq_none]
    intro v hv c
    exact e (List.any_eq_true.2 ⟨v, hv, veilMeets_of_veilOn c⟩)
theorem homeByte_opened (s : State) (a : Nat) :
    homeByte (openLine s (a / 128)) a = spGet memDefault (openLine s (a / 128)).dev.mem a := by
  unfold homeByte; rw [openLine_find]
theorem find?_map_clear {line a : Nat} (n : a / 128 ≠ line) (l : List Veil) :
    (l.map fun v => if veilMeets line v then { v with clear := line :: v.clear } else v).find? (veilOn a) =
      (l.find? (veilOn a)).map fun v => if veilMeets line v then { v with clear := line :: v.clear } else v := by
  have e (v : Veil) : veilOn a (if veilMeets line v then { v with clear := line :: v.clear } else v) = veilOn a v := by
    split
    · simp [veilOn, n]
    · rfl
  rw [List.find?_map]
  congr 2
  exact funext e
/-- An element after a run of writes. -/
theorem fillFrom_spec (g : Nat → Byte) (base a n : Nat) {m : Sparse Byte} (h : spWf memDefault m = true) :
    spWf memDefault (fillFrom g base n m) = true ∧ spGet memDefault (fillFrom g base n m) a =
      if base ≤ a ∧ a < base + n then g (a - base) else spGet memDefault m a := by
  unfold fillFrom
  induction n with
  | zero => exact ⟨h, by rw [if_neg (by omega)]; rfl⟩
  | succ n ih =>
    rw [List.range_succ, List.foldl_append]
    refine ⟨spWf_spSet ih.1, ?_⟩
    by_cases e : a = base + n
    · subst e
      rw [if_pos (by omega), Nat.add_sub_cancel_left]
      exact spGet_spSet_self (lo := 0) ih.1
    · rw [List.foldl_cons, List.foldl_nil, spGet_spSet_ne (lo := 0) e ih.1, ih.2]
      by_cases c : base ≤ a ∧ a < base + n
      · rw [if_pos c, if_pos (by omega)]
      · rw [if_neg c, if_neg (by omega)]
theorem rawLine_congr {m m' : Sparse Byte} {line : Nat}
    (h : ∀ j, j < 128 → spGet memDefault m (line * 128 + j) = spGet memDefault m' (line * 128 + j)) : rawLine m line = rawLine m' line := by
  unfold rawLine
  congr 1
  exact List.map_congr_left fun j hj => by rw [h j (List.mem_range.1 hj)]
theorem openLine_wf {s : State} (h : Memory.wf s.dev.mem = true) (line : Nat) : Memory.wf (openLine s line).dev.mem = true := by
  unfold openLine; split
  · dsimp only
    exact (fillFrom_spec (fun j => homeByte s (line * 128 + j)) (line * 128) 0 128 h).1
  · exact h
/-- R423: opening a line changes no byte as it reads. -/
theorem homeByte_openLine {s : State} (h : Memory.wf s.dev.mem = true) (line a : Nat) : homeByte (openLine s line) a = homeByte s a := by
  have hm := fun k => (fillFrom_spec (fun j => homeByte s (line * 128 + j)) (line * 128) k 128 h).2
  by_cases e : a / 128 = line
  · subst e
    rw [homeByte_opened]
    unfold openLine; split
    · dsimp only
      rw [hm, if_pos (by omega)]
      congr 1; omega
    · next c =>
      have := openLine_find s a
      unfold openLine at this
      rw [if_neg c] at this
      rw [homeByte, this]
  · unfold openLine; split
    · generalize (fun j => homeByte s (line * 128 + j)) = g at hm ⊢
      unfold homeByte
      dsimp only
      rw [find?_map_clear e, hm, if_neg (by omega)]
      cases s.dev.veils.find? (veilOn a) with
      | none => rfl
      | some v =>
        have hk : (if veilMeets line v then { v with clear := line :: v.clear } else v).key = v.key := by split <;> rfl
        rw [Option.map_some]
        dsimp only
        rw [hk, rawLine_congr fun j hj => (hm (a / 128 * 128 + j)).trans (if_neg (by omega))]
    · rfl
@[simp] theorem openLine_waves (s : State) (line : Nat) : (openLine s line).waves = s.waves := by unfold openLine; split <;> rfl
@[simp] theorem openLine_groups (s : State) (line : Nat) : (openLine s line).groups = s.groups := by unfold openLine; split <;> rfl
@[simp] theorem openLine_cores (s : State) (line : Nat) : (openLine s line).cores = s.cores := by unfold openLine; split <;> rfl
@[simp] theorem openLine_islands (s : State) (line : Nat) : (openLine s line).islands = s.islands := by unfold openLine; split <;> rfl
@[simp] theorem homePut_mem (s : State) (pa b : Nat) :
    (homePut s pa b).dev.mem = spSet memDefault (openLine s (pa / 128)).dev.mem pa (BitVec.ofNat 8 b) := rfl
@[simp] theorem homePut_waves (s : State) (pa b : Nat) : (homePut s pa b).waves = s.waves := openLine_waves s _
@[simp] theorem homePut_groups (s : State) (pa b : Nat) : (homePut s pa b).groups = s.groups := openLine_groups s _
@[simp] theorem homePut_cores (s : State) (pa b : Nat) : (homePut s pa b).cores = s.cores := openLine_cores s _
@[simp] theorem homePut_islands (s : State) (pa b : Nat) : (homePut s pa b).islands = s.islands := openLine_islands s _
theorem homePut_wf {s : State} (h : Memory.wf s.dev.mem = true) (pa b : Nat) : Memory.wf (homePut s pa b).dev.mem = true :=
  spWf_spSet (openLine_wf h _)
theorem homeByte_homePut {s : State} (h : Memory.wf s.dev.mem = true) (pa b a : Nat) :
    homeByte (homePut s pa b) a = if a = pa then BitVec.ofNat 8 b else homeByte s a := by
  have hw := openLine_wf h (pa / 128)
  have hv : (homePut s pa b).dev.veils = (openLine s (pa / 128)).dev.veils := rfl
  rw [← homeByte_openLine h (pa / 128)]
  unfold homeByte
  rw [hv, homePut_mem]
  by_cases e : a / 128 = pa / 128
  · rw [← e, openLine_find]
    dsimp only
    split
    · next c => subst c; exact spGet_spSet_self (lo := 0) (openLine_wf h _)
    · next c => exact spGet_spSet_ne (lo := 0) c (openLine_wf h _)
  · have n : a ≠ pa := fun c => e (by rw [c])
    rw [if_neg n, spGet_spSet_ne (lo := 0) n hw, rawLine_congr fun j hj => spGet_spSet_ne (lo := 0) (by omega) hw]

theorem openLine_plain {s : State} (h : s.dev.veils = []) (line : Nat) : openLine s line = s := by unfold openLine; simp [h]
/-- Writing a run at home is writing its bytes one after another. -/
theorem homeWrite_eq (pa : Nat) (l : List Nat) (s : State) : homeWrite s pa l = putRun homePut s pa l := by
  unfold homeWrite; split
  · next e =>
    induction l generalizing s pa with
    | nil => rfl
    | cons b t ih =>
      rw [putRun, putRun, homePut, openLine_plain (by simpa using e)]
      exact ih (pa + 1) (plainPut s pa b) e
  · rfl
@[simp] theorem homeWrite_nil (s : State) (pa : Nat) : homeWrite s pa [] = s := by rw [homeWrite_eq]; rfl
theorem homeWrite_cons (s : State) (pa b : Nat) (t : List Nat) : homeWrite s pa (b :: t) = homeWrite (homePut s pa b) (pa + 1) t := by
  rw [homeWrite_eq, homeWrite_eq]; rfl
@[simp] theorem homeWrite_waves (pa : Nat) (l : List Nat) (s : State) : (homeWrite s pa l).waves = s.waves := by
  induction l generalizing s pa with
  | nil => simp
  | cons b t ih => simp [homeWrite_cons, ih]
@[simp] theorem homeWrite_groups (pa : Nat) (l : List Nat) (s : State) : (homeWrite s pa l).groups = s.groups := by
  induction l generalizing s pa with
  | nil => simp
  | cons b t ih => simp [homeWrite_cons, ih]
@[simp] theorem homeWrite_cores (pa : Nat) (l : List Nat) (s : State) : (homeWrite s pa l).cores = s.cores := by
  induction l generalizing s pa with
  | nil => simp
  | cons b t ih => simp [homeWrite_cons, ih]
@[simp] theorem homeWrite_islands (pa : Nat) (l : List Nat) (s : State) : (homeWrite s pa l).islands = s.islands := by
  induction l generalizing s pa with
  | nil => simp
  | cons b t ih => simp [homeWrite_cons, ih]
theorem homeWrite_wf (pa : Nat) (l : List Nat) {s : State} (h : Memory.wf s.dev.mem = true) :
    Memory.wf (homeWrite s pa l).dev.mem = true := by
  induction l generalizing s pa with
  | nil => simpa using h
  | cons b t ih => rw [homeWrite_cons]; exact ih (pa + 1) (homePut_wf h pa b)
/-- A byte at home after a run of bytes is written: the byte of the run, or what was there. -/
theorem homeByte_homeWrite (pa : Nat) (l : List Nat) {s : State} (h : Memory.wf s.dev.mem = true) (a : Nat) :
    homeByte (homeWrite s pa l) a = if pa ≤ a ∧ a < pa + l.length then BitVec.ofNat 8 (l.getD (a - pa) 0) else homeByte s a := by
  induction l generalizing s pa with
  | nil =>
    have : ¬ (pa ≤ a ∧ a < pa + ([] : List Nat).length) := by simp only [List.length_nil]; omega
    rw [if_neg this, homeWrite_nil]
  | cons b t ih =>
    rw [homeWrite_cons, ih (pa + 1) (homePut_wf h pa b), homeByte_homePut h]
    by_cases e : a = pa
    · subst e
      have h1 : ¬ (a + 1 ≤ a ∧ a < a + 1 + t.length) := by omega
      have h2 : a ≤ a ∧ a < a + (b :: t).length := by simp
      rw [if_neg h1, if_pos rfl, if_pos h2, Nat.sub_self, List.getD_cons_zero]
    · by_cases hl : pa + 1 ≤ a ∧ a < pa + 1 + t.length
      · have h2 : pa ≤ a ∧ a < pa + (b :: t).length := by simp; omega
        obtain ⟨n, hn⟩ : ∃ n, a - pa = n + 1 := ⟨a - pa - 1, by omega⟩
        have hn' : a - (pa + 1) = n := by omega
        rw [if_pos hl, if_pos h2, hn, hn', List.getD_cons_succ]
      · have h2 : ¬ (pa ≤ a ∧ a < pa + (b :: t).length) := by simp; omega
        rw [if_neg hl, if_neg e, if_neg h2]

/-! Operations that write no memory. -/
@[simp] theorem clearPoison_mem (s : State) (line : Nat) : (clearPoison s line).dev.mem = s.dev.mem := rfl
@[simp] theorem addPoison_mem (s : State) (line : Nat) : (addPoison s line).dev.mem = s.dev.mem := by unfold addPoison; split <;> rfl
@[simp] theorem evInterrupt_mem (s : State) (isl : Nat) : (evInterrupt s isl).dev.mem = s.dev.mem := by
  unfold evInterrupt; dsimp only; split <;> rfl
@[simp] theorem placeEvent_mem (s : State) (isl : Nat) (r : EvRec) : (placeEvent s isl r).dev.mem = s.dev.mem := by
  unfold placeEvent; dsimp only; (repeat' split) <;> simp
@[simp] theorem popEvents_mem (s : State) (isl n : Nat) : (popEvents s isl n).dev.mem = s.dev.mem := rfl
@[simp] theorem onWave_mem (s : State) (wv : Nat) (f : Wave → Wave) : (onWave s wv f).dev.mem = s.dev.mem := by
  unfold onWave; split <;> rfl
@[simp] theorem walkPark_mem (s : State) (wv : Nat) : (walkPark s wv).1.dev.mem = s.dev.mem := onWave_mem s wv _
@[simp] theorem walkOver_mem (s : State) (wv : Nat) : (walkOver s wv).dev.mem = s.dev.mem := by
  unfold walkOver; split
  · exact onWave_mem s wv _
  · rfl
@[simp] theorem pushResult_mem (s : State) (wv : Nat) (r : Result) : (pushResult s wv r).dev.mem = s.dev.mem := by simp [pushResult]
@[simp] theorem sliceStore_mem (s : State) (cl : Nat) (l : Line) : (sliceStore s cl l).dev.mem = s.dev.mem := rfl
@[simp] theorem l1Store_mem (s : State) (core : Nat) (l : Line) : (l1Store s core l).dev.mem = s.dev.mem := rfl
@[simp] theorem invalidateClean_mem (s : State) (core : Nat) : (invalidateClean s core).dev.mem = s.dev.mem := rfl
@[simp] theorem acquireInvalidate_mem (s : State) (core sc : Nat) : (acquireInvalidate s core sc).dev.mem = s.dev.mem := by
  unfold acquireInvalidate; split <;> rfl
@[simp] theorem forgetL1_mem (s : State) (core isl pa n : Nat) : (forgetL1 s core isl pa n).dev.mem = s.dev.mem := rfl
@[simp] theorem setRecord_mem (s : State) (line core kind : Nat) : (setRecord s line core kind).dev.mem = s.dev.mem := rfl
@[simp] theorem recordRelease_mem (s : State) (line core sc : Nat) : (recordRelease s line core sc).dev.mem = s.dev.mem := by
  unfold recordRelease; split <;> rfl
@[simp] theorem recordFenced_mem (s : State) (line core : Nat) : (recordFenced s line core).dev.mem = s.dev.mem := rfl
@[simp] theorem recordStore_mem (fenced : Bool) (rel : Option Nat) (core : Nat) (s : State) (line : Nat) :
    (recordStore fenced rel core s line).dev.mem = s.dev.mem := by
  unfold recordStore; split <;> split <;> simp
@[simp] theorem releaseOwned_mem (s : State) (id : Nat) (lines : List Nat) : (releaseOwned s id lines).dev.mem = s.dev.mem := rfl
@[simp] theorem startCommit_mem (s : State) (wv isl pa : Nat) (bytes : List Nat) : (startCommit s wv isl pa bytes).dev.mem = s.dev.mem := by
  unfold startCommit; dsimp only; split
  · rfl
  · simp
@[simp] theorem farPut_mem (s : State) (cl o : Nat) (bytes : List Nat) : (farPut s cl o bytes).dev.mem = s.dev.mem := by
  unfold farPut; dsimp only; split <;> rfl
@[simp] theorem spadPut_mem (s : State) (core pos : Nat) (bytes : List Nat) : (spadPut s core pos bytes).dev.mem = s.dev.mem := rfl
@[simp] theorem countConflicts_mem (s : State) (w : Wave) (n : Nat) (xs : List Acc) : (countConflicts s w n xs).dev.mem = s.dev.mem := rfl
@[simp] theorem tlbAdd_mem (s : State) (core : Nat) (t : TlbEntry) : (tlbAdd s core t).dev.mem = s.dev.mem := rfl
theorem foldl_mem {α : Type} (f : State → α → State) (h : ∀ s x, (f s x).dev.mem = s.dev.mem) (l : List α) (s : State) :
    (l.foldl f s).dev.mem = s.dev.mem := by
  induction l generalizing s with
  | nil => rfl
  | cons x t ih => rw [List.foldl_cons, ih, h]
@[simp] theorem clearCovered_mem (level core : Nat) (s : State) (n : Nat) (xs : List Acc) :
    (clearCovered level core s n xs).dev.mem = s.dev.mem := by
  unfold clearCovered
  rw [foldl_mem _ (fun s x => by dsimp only; split <;> rfl), foldl_mem _ (fun s x => by dsimp only; split <;> rfl)]
@[simp] theorem clearLines_mem (pa n : Nat) (s : State) : (clearLines pa n s).dev.mem = s.dev.mem := by
  unfold clearLines; exact foldl_mem (fun s k => clearPoison s (pa / 128 + k)) (fun _ _ => rfl) _ _

/-! Operations that write memory keep its form. -/
theorem foldl_wf {α : Type} (f : State → α → State) (hf : ∀ s x, Memory.wf s.dev.mem = true → Memory.wf (f s x).dev.mem = true) (l : List α)
    {s : State} (h : Memory.wf s.dev.mem = true) : Memory.wf (l.foldl f s).dev.mem = true := by
  induction l generalizing s with
  | nil => exact h
  | cons x t ih => exact ih (hf s x h)
variable {s : State} (h : Memory.wf s.dev.mem = true)
include h
theorem putFaultSlot_wf (isl : Nat) (bytes : List Nat) : Memory.wf (putFaultSlot s isl bytes).1.dev.mem = true := by
  unfold putFaultSlot; dsimp only; split
  · rw [clearLines_mem]; exact homeWrite_wf _ _ h
  · exact h
theorem placeFaultQuiet_wf (isl : Nat) (f : FaultInfo) : Memory.wf (placeFaultQuiet s isl f).1.dev.mem = true := by
  unfold placeFaultQuiet; dsimp only; split
  · exact putFaultSlot_wf (s := putIsland s isl _) h isl _
  · exact h
theorem placeFault_wf (isl : Nat) (f : FaultInfo) : Memory.wf (placeFault s isl f).1.dev.mem = true := by
  have := placeFaultQuiet_wf h isl f
  simpa [placeFault] using this
theorem placeWaiting_wf (isl : Nat) (f : FaultInfo) : Memory.wf (placeWaiting s isl f).1.dev.mem = true := placeFault_wf h isl f
theorem homeWriteLine_wf (line : Nat) (bytes : Sparse Byte) : Memory.wf (homeWriteLine s line bytes).dev.mem = true :=
  foldl_wf _ (fun _ _ h => homePut_wf h _ _) _ h
theorem writeBackHome_wf (l : Line) : Memory.wf (writeBackHome s l).dev.mem = true := by
  unfold writeBackHome; dsimp only; split
  · exact homeWriteLine_wf h _ _
  · exact homeWriteLine_wf h _ _
theorem sliceRoom_wf (cl line : Nat) : Memory.wf (sliceRoom s cl line).1.dev.mem = true := by
  unfold sliceRoom; dsimp only; split
  · exact h
  · split
    · exact h
    · exact writeBackHome_wf h _
theorem sliceAlloc_wf (cl isl line : Nat) (cls : Touch) : Memory.wf (sliceAlloc s cl isl line cls).1.dev.mem = true := by
  unfold sliceAlloc; split
  · exact h
  · exact sliceRoom_wf h _ _
theorem sliceFill_wf (cl isl line : Nat) (cls : Touch) : Memory.wf (sliceFill s cl isl line cls).1.dev.mem = true := sliceAlloc_wf h _ _ _ _
theorem sliceReceive_wf (cl : Nat) (x : Line) : Memory.wf (sliceReceive s cl x).dev.mem = true := sliceAlloc_wf h _ _ _ _
theorem l1Room_wf (core line : Nat) : Memory.wf (l1Room s core line).dev.mem = true := by
  unfold l1Room; dsimp only; split
  · exact h
  · split
    · exact h
    · simp only [putCore_dev]
      split
      · exact h
      · exact sliceReceive_wf h _ _
theorem l1Alloc_wf (core isl line : Nat) (cls : Touch) : Memory.wf (l1Alloc s core isl line cls).1.dev.mem = true := by
  unfold l1Alloc; split
  · exact h
  · exact l1Room_wf h _ _
theorem l1Fill_wf (core isl line : Nat) (cls : Touch) : Memory.wf (l1Fill s core isl line cls).1.dev.mem = true := by
  unfold l1Fill; dsimp only; split
  · exact l1Alloc_wf h _ _ _ _
  · exact sliceFill_wf (l1Alloc_wf h _ _ _ _) _ _ _ _
theorem cacheRead_wf (core isl pa n cls : Nat) : Memory.wf (cacheRead s core isl pa n cls).1.dev.mem = true := by
  unfold cacheRead; split
  · exact h
  · exact l1Fill_wf h _ _ _ _
theorem cacheWrite_wf (core isl pa cls : Nat) (bytes : List Nat) : Memory.wf (cacheWrite s core isl pa cls bytes).dev.mem = true := by
  unfold cacheWrite; split
  · exact homeWrite_wf _ _ h
  · exact l1Alloc_wf h _ _ _ _
theorem pushLine_wf (level core : Nat) (l : Line) : Memory.wf (pushLine level core s l).dev.mem = true := by
  unfold pushLine; dsimp only; split
  · exact h
  · split
    · exact sliceReceive_wf (s := putCore s core _) h _ _
    · exact writeBackHome_wf (s := putCluster (putCore s core _) _ _) h _
theorem pushSliceLine_wf (cl : Nat) (l : Line) : Memory.wf (pushSliceLine cl s l).dev.mem = true := by
  unfold pushSliceLine; split
  · exact h
  · exact writeBackHome_wf h _
theorem releasePush_wf (core isl sc : Nat) : Memory.wf (releasePush s core isl sc).dev.mem = true := by
  have h1 (lv : Nat) : Memory.wf ((coreAt s core).l1.foldl (pushLine lv core) s).dev.mem = true := foldl_wf _ (fun _ _ h => pushLine_wf h _ _ _) _ h
  unfold releasePush
  generalize (if sc = 7 then 0 else scopeLevel sc) = lv
  dsimp only; split
  · exact foldl_wf _ (fun _ _ h => pushSliceLine_wf h _ _) _ (h1 lv)
  · exact h1 lv
theorem syncLine_wf (core isl line level : Nat) : Memory.wf (syncLine s core isl line level).dev.mem = true := by
  have h1 (o : Option Line) : Memory.wf (match o with
      | some l => pushLine level core s l
      | none => s).dev.mem = true := by
    cases o with
    | none => exact h
    | some l => exact pushLine_wf h _ _ _
  unfold syncLine; dsimp only; split
  · split
    · exact pushSliceLine_wf (h1 _) _ _
    · exact h1 _
  · exact h1 _
theorem pullBytes_wf (core isl pa n : Nat) : Memory.wf (pullBytes s core isl pa n).dev.mem = true := by
  have put (s : State) (h : Memory.wf s.dev.mem = true) (o : Option Line) : Memory.wf (match o with
      | some l => homeWriteLine s l.line (dirtyBytes { l with dirty := l.dirty &&& byteMask pa n })
      | none => s).dev.mem = true := by
    cases o with
    | none => exact h
    | some l => exact homeWriteLine_wf h _ _
  exact put _ (put _ h _) _
theorem levelRead_wf (core isl pa n cls level : Nat) : Memory.wf (levelRead s core isl pa n cls level).1.dev.mem = true := by
  unfold levelRead; dsimp only; split
  · exact cacheRead_wf h _ _ _ _ _
  · split
    · exact pullBytes_wf h _ _ _ _
    · split
      · exact sliceFill_wf (syncLine_wf h _ _ _ _) _ _ _ _
      · exact syncLine_wf h _ _ _ _
theorem levelWrite_wf (core isl pa cls level : Nat) (bytes : List Nat) : Memory.wf (levelWrite s core isl pa cls level bytes).dev.mem = true := by
  unfold levelWrite; dsimp only; split
  · exact cacheWrite_wf h _ _ _ _ _
  · have hs := syncLine_wf h core isl (pa / 128) level
    split
    · exact sliceAlloc_wf (s := forgetL1 _ _ _ _ _) hs _ _ _ _
    · exact homeWrite_wf _ _ (s := forgetL1 _ _ _ _ _) hs
theorem promote_wf (line k isl : Nat) : Memory.wf (promote s line k isl).dev.mem = true := by
  unfold promote; split
  · exact h
  · split
    · exact h
    · split
      · exact h
      · exact releasePush_wf h _ _ _
theorem promotedWrite_wf (core isl pa : Nat) (bytes : List Nat) : Memory.wf (promotedWrite s core isl pa bytes).dev.mem = true :=
  homeWrite_wf _ _ (s := putCluster s _ _) h
theorem recallLine_wf (line : Nat) : Memory.wf (recallLine s line).dev.mem = true :=
  foldl_wf _ (fun _ _ h => foldl_wf _ (fun _ _ h => writeBackHome_wf h _) _ h) _
    (foldl_wf _ (fun _ _ h => foldl_wf _ (fun _ _ h => writeBackHome_wf h _) _ h) _ h)
theorem ownLine_wf (id line : Nat) : Memory.wf (ownLine id s line).dev.mem = true := recallLine_wf h line
theorem drainL1_wf (core : Nat) : Memory.wf (drainL1 s core).dev.mem = true := foldl_wf _ (fun _ _ h => pushLine_wf h _ _ _) _ h
theorem markLeaf_wf (addr pte access : Nat) : Memory.wf (markLeaf s addr pte access).dev.mem = true := by
  unfold markLeaf
  generalize pte ||| 0x20 ||| (if access = 1 ∨ access = 2 then 0x40 else 0) = want
  dsimp only; split
  · exact h
  · exact homeWrite_wf _ _ h
theorem walk_wf (core isl va access : Nat) (priv : Bool) : Memory.wf (walk s core isl va access priv).1.dev.mem = true := by
  unfold walk; dsimp only; (repeat' split) <;> first | exact h | exact markLeaf_wf h _ _ _
theorem translate_wf (core isl va access : Nat) (priv : Bool) : Memory.wf (translate s core isl va access priv).1.dev.mem = true := by
  unfold translate; (repeat' (first | split | dsimp only)) <;> first | exact h | exact walk_wf h _ _ _ _ _
theorem resolveGlobal_wf (core isl access : Nat) (priv : Bool) (n va : Nat) :
    Memory.wf (resolveGlobal s core isl access priv n va).1.dev.mem = true := by
  have := translate_wf h core isl va access priv
  unfold resolveGlobal; (repeat' (first | split | dsimp only)) <;> first | exact h | simp_all
theorem resolve_wf (sp : Space) (w : Wave) (access n va : Nat) : Memory.wf (resolve s sp w access n va).1.dev.mem = true := by
  cases sp
  · exact resolveGlobal_wf h _ _ _ _ _ _
  · exact h
omit h in
theorem resolveLanes_wf (sp : Space) (w : Wave) (access n : Nat) (l : List (Nat × Nat)) {s : State} (h : Memory.wf s.dev.mem = true) :
    Memory.wf (resolveLanes sp w access n l s).1.dev.mem = true := by
  induction l generalizing s with
  | nil => exact h
  | cons x t ih => exact ih (resolve_wf h _ _ _ _ _)
theorem settleFault_wf (agent : Nat) (c : Ctx) (access : Nat) (absent : List Acc) : Memory.wf (settleFault agent c access absent s).1.dev.mem = true := by
  unfold settleFault; split
  · simpa using h
  · simpa using placeWaiting_wf h _ _
theorem accessWith_wf (c : Ctx) (sp : Space) (access n : Nat) (addrs : List (Nat × Nat)) (go : State → List Acc → State)
    (hg : ∀ s xs, Memory.wf s.dev.mem = true → Memory.wf (go s xs).dev.mem = true) :
    Memory.wf (accessWith c s sp access n addrs go).1.dev.mem = true := by
  unfold accessWith; dsimp only
  generalize (if access = 0 then addrs else addrs.filter fun p => !mbit (waveAt s c.wv).ctl.helpers p.1) = who
  have hr := resolveLanes_wf sp (waveAt s c.wv) access n who h
  generalize resolveLanes sp (waveAt s c.wv) access n who s = r at hr ⊢
  split
  · simpa using hr
  · have h1 : Memory.wf (walkOver (if (firstAddr resMis r.2).isSome then s else r.1) c.wv).dev.mem = true := by
      rw [walkOver_mem]; split
      · exact h
      · exact hr
    generalize walkOver (if (firstAddr resMis r.2).isSome then s else r.1) c.wv = s1 at h1 ⊢
    split
    · exact h1
    · split
      · exact h1
      · exact settleFault_wf (hg _ _ h1) _ _ _ _
theorem readAcc_wf (core isl n level : Nat) (x : Acc) : Memory.wf (readAcc core isl n level s x).1.dev.mem = true := by
  unfold readAcc; (repeat' split) <;> first | exact h | exact levelRead_wf h _ _ _ _ _ _
theorem replicatedWrite_wf (wv core isl pa : Nat) (bytes : List Nat) : Memory.wf (replicatedWrite s wv core isl pa bytes).dev.mem = true := by
  simpa [replicatedWrite] using syncLine_wf h _ _ _ _
omit h in
@[simp] theorem spoilPools_dev (isl va n : Nat) (s : State) : (spoilPools isl va n s).dev = s.dev := by
  unfold spoilPools; dsimp only; split <;> rfl
omit h in
@[simp] theorem storedOver_mem (s : State) (core pos n : Nat) : (storedOver s core pos n).dev.mem = s.dev.mem := by
  unfold storedOver; dsimp only; split <;> rfl
theorem writeAcc_wf (wv core isl level : Nat) (promoted : Bool) (bytes : List Nat) (x : Acc) :
    Memory.wf (writeAcc wv core isl level promoted bytes s x).dev.mem = true := by
  unfold writeAcc
  (repeat' split) <;> (try rw [spoilPools_dev]) <;> first
    | exact h
    | (rw [farPut_mem]; exact h)
    | (rw [spadPut_mem, storedOver_mem]; exact h)
    | exact replicatedWrite_wf h _ _ _ _ _
    | exact promotedWrite_wf h _ _ _ _
    | exact levelWrite_wf h _ _ _ _ _ _
omit h in
theorem readAll_wf (c : Ctx) (core isl n level : Nat) (l : List Acc) {s : State} (h : Memory.wf s.dev.mem = true) :
    Memory.wf (readAll c core isl n level l s).1.dev.mem = true := by
  induction l generalizing s with
  | nil => exact h
  | cons x t ih => exact ih (readAcc_wf h _ _ _ _ _)
theorem engineWrite_wf (wv : Nat) (q : Asker) (bytes : List Nat) (x : Seg × LaneRes) : Memory.wf (engineWrite wv q bytes s x).dev.mem = true := by
  have hr (l : Nat) := recallLine_wf h l
  unfold engineWrite
  (repeat' split) <;> first
    | exact h
    | (rw [farPut_mem]; exact h)
    | simpa using hr _
    | exact homeWrite_wf _ _ (hr _)
omit h in
theorem engineWriteAll_wf (wv : Nat) (q : Asker) (l : List (Seg × LaneRes)) (bytes : List Nat) {s : State} (h : Memory.wf s.dev.mem = true) :
    Memory.wf (engineWriteAll wv q l bytes s).dev.mem = true := by
  induction l generalizing s bytes with
  | nil => exact h
  | cons x t ih => exact ih _ (engineWrite_wf h _ _ _ _)

end Sys2Proof.Machine
end

