-- ==== Sys2Proof/Laws/Moves.lean ====
section
/-!
SUPPORT. What the hub die, the agents outside and the placing of an instruction do to memory: each of their writes keeps its canonical form.
-/
namespace Sys2Proof.Machine

@[simp] theorem cleared_mem (s : State) (d : Device) : (cleared s d).dev.mem = s.dev.mem.filter fun e => decide (2 ^ 51 ≤ e.1) := rfl
@[simp] theorem boot_mem (s : State) (good : Bool) (mods cycle : Nat) :
    (boot s good mods cycle).dev.mem = s.dev.mem.filter fun e => decide (2 ^ 51 ≤ e.1) := by
  unfold boot; split <;> rfl
@[simp] theorem replyWith_mem (s : State) (b bad : List Nat) : (replyWith s b bad).dev.mem = s.dev.mem := rfl
@[simp] theorem wipeCarve_mem (i : Island) (s : State) : (wipeCarve i s).dev.mem = s.dev.mem.filter fun e => !inCarve i e.1 := rfl
@[simp] theorem moveHead_mem (s : State) (isl cls : Nat) : (moveHead s isl cls).dev.mem = s.dev.mem := rfl
@[simp] theorem putGraph_mem (s : State) (isl gid : Nat) (g : Graph) : (putGraph s isl gid g).dev.mem = s.dev.mem := rfl
@[simp] theorem setCopies_mem (s : State) (core : Nat) (l : List CopyCmd) : (setCopies s core l).dev.mem = s.dev.mem := rfl
@[simp] theorem mapCopy_mem (s : State) (core id : Nat) (f : CopyCmd → CopyCmd) : (mapCopy s core id f).dev.mem = s.dev.mem := rfl
@[simp] theorem sweepCopies_mem (s : State) : (sweepCopies s).dev.mem = s.dev.mem := rfl
@[simp] theorem ringPut_mem (s : State) (g off n v : Nat) : (ringPut s g off n v).dev.mem = s.dev.mem := rfl
@[simp] theorem countSlot_mem (s : State) (g : Nat) (k : Nat × Nat) (dp da : Nat) : (countSlot s g k dp da).dev.mem = s.dev.mem := by
  unfold countSlot; dsimp only; split <;> rfl
@[simp] theorem leaveSlots_mem (s : State) (wv : Nat) : (leaveSlots s wv).dev.mem = s.dev.mem := by
  unfold leaveSlots; dsimp only; split
  · rfl
  · split <;> rfl
@[simp] theorem tellPoison_mem (s : State) (isl who : Nat) (e : Imprecise) : (tellPoison s isl who e).dev.mem = s.dev.mem := by
  unfold tellPoison; split <;> simp
@[simp] theorem retire_mem (s : State) (wv : Nat) : (retire s wv).dev.mem = s.dev.mem := by unfold retire; split <;> rfl
@[simp] theorem stopWave_mem (s : State) (wv : Nat) : (stopWave s wv).dev.mem = s.dev.mem := by
  unfold stopWave; simp only [retire_mem]
  exact foldl_mem _ (fun _ _ => tellPoison_mem _ _ _ _) _ _
@[simp] theorem settleSlots_mem (s : State) (wv : Nat) : (settleSlots s wv).dev.mem = s.dev.mem := by
  unfold settleSlots; split
  · rfl
  · split <;> simp
@[simp] theorem marker_mem (s : State) (wv : Nat) (y : Bool) : (marker s wv y).dev.mem = s.dev.mem := by
  unfold marker; split
  · rfl
  · split <;> rfl
@[simp] theorem stopWaves_mem (s : State) (g : Nat) : (stopWaves s g).dev.mem = s.dev.mem := by
  unfold stopWaves; exact foldl_mem _ (fun _ _ => stopWave_mem _ _) _ _
@[simp] theorem barrierCheck_mem (s : State) (g b : Nat) : (barrierCheck s g b).dev.mem = s.dev.mem := by
  unfold barrierCheck; dsimp only; split
  · exact foldl_mem (fun s k => putWave s k (clearArrival b (waveAt s k))) (fun _ _ => rfl) _ _
  · rfl

variable {s : State} (h : Memory.wf s.dev.mem = true)
include h

theorem cleared_wf (d : Device) : Memory.wf (cleared s d).dev.mem = true := spWf_filter _ h
theorem wipeCarve_wf (i : Island) : Memory.wf (wipeCarve i s).dev.mem = true := spWf_filter _ h
theorem locate_wf (q : Asker) (access : Nat) (l : List Seg) : Memory.wf (locate q access l s).1.dev.mem = true := by
  induction l generalizing s with
  | nil => exact h
  | cons g t ih => exact ih (resolveGlobal_wf h _ _ _ _ _ _)
theorem hubWrite_wf (isl va : Nat) (bytes : List Nat) : Memory.wf (hubWrite s isl va bytes).dev.mem = true := by
  unfold hubWrite; dsimp only; split
  · exact locate_wf h _ _ _
  · exact engineWriteAll_wf _ _ _ _ (locate_wf h _ _ _)
theorem hubRead_wf (isl va n : Nat) : Memory.wf (hubRead s isl va n).1.dev.mem = true := by
  unfold hubRead; dsimp only; split <;> exact locate_wf h _ _ _
theorem graphCheck_wf (isl gid : Nat) : Memory.wf (graphCheck isl s gid).dev.mem = true := by
  unfold graphCheck; split
  · exact h
  · dsimp only; split
    · exact h
    · split
      · exact hubWrite_wf (by simpa using h) _ _ _
      · simpa using h
theorem graphSweep_wf (isl : Nat) : Memory.wf (graphSweep s isl).dev.mem = true := foldl_wf _ (fun _ _ h => graphCheck_wf h _ _) _ h
theorem writeOutside_wf (pa : Nat) (bytes : List Nat) : Memory.wf (writeOutside s pa bytes).dev.mem = true :=
  foldl_wf _ (fun _ _ h => by split <;> simpa using h) _ (homeWrite_wf _ _ h)
theorem atomicOutside_wf (pa ao et k v v2 : Nat) (bad : List Nat) : Memory.wf (atomicOutside s pa ao et k v v2 bad).dev.mem = true :=
  homeWrite_wf _ _ h
theorem performOutside_wf (pa : Nat) (acc : OutsideAccess) : Memory.wf (performOutside s pa acc).dev.mem = true := by
  have hr : Memory.wf ((spanLines pa (accessSize acc)).foldl recallLine { s with free := s.free + 1 }).dev.mem = true :=
    foldl_wf _ (fun _ _ h => recallLine_wf h _) _ (s := { s with free := s.free + 1 }) h
  unfold performOutside; dsimp only; split
  · exact hr
  · exact writeOutside_wf hr _ _
  · exact atomicOutside_wf hr _ _ _ _ _ _ _
theorem leaveCache_wf (cl k : Nat) : Memory.wf (leaveCache cl k s).dev.mem = true := foldl_wf _ (fun _ _ h => writeBackHome_wf h _) _ h
theorem cleanSlice_wf (cl : Nat) : Memory.wf (cleanSlice s cl).dev.mem = true := foldl_wf _ (fun _ _ h => pushSliceLine_wf h _ _) _ h
theorem faultEnd_wf (g : Nat) (f : FaultInfo) : Memory.wf (faultEnd s g f).dev.mem = true := by
  unfold faultEnd; dsimp only; split
  · split
    · exact h
    · simpa using h
  · split
    · exact foldl_wf _ (fun _ _ h => by simpa using h) _ h
    · exact foldl_wf _ (fun _ _ h => by simpa using h) _ (by simpa using placeFaultQuiet_wf h _ _)
theorem takeTrap_wf (wv : Nat) (t : Trap) : Memory.wf (takeTrap s wv t).dev.mem = true := by
  unfold takeTrap; dsimp only
  (repeat' split) <;> first
    | exact faultEnd_wf h _ _
    | simpa using h
theorem placeWord_wf (w : Nat) : Memory.wf (placeWord s w).dev.mem = true := by
  unfold placeWord; split
  · exact homeWrite_wf _ _ h
  · exact homeWrite_wf _ _ h

end Sys2Proof.Machine
end

