-- ==== Sys2Proof/Laws/PerInstr.lean ====
section
/-!
SUPPORT. Families of statements made once per constructor of Instr. RoundTrip: a legal instruction's word has 32 bits and decodes to it; an
event row has no word.
-/
namespace Sys2Proof.Laws

/-- R42, R49, R50, R53. -/
def RoundTrip.Statement (i : Instr) : Prop := ∀ w, encode i = some w → wellFormed i = true → w < 2 ^ 32 ∧ decode w = .ok i

theorem RoundTrip.iadd (y : Bool) (d : VReg) (a : VReg) (b : BOp) : RoundTrip.Statement (.iadd y d a b) := fun _ e h => by
  cases e
  exact ⟨encVVB_lt _ y d a b (by decide), decode_of (opcodeOf_encVVB _ y d a b (by decide)) rfl (decVVB_encVVB _ _ y d a b (by decide)) h⟩
theorem RoundTrip.isub (y : Bool) (d : VReg) (a : VReg) (b : BOp) : RoundTrip.Statement (.isub y d a b) := fun _ e h => by
  cases e
  exact ⟨encVVB_lt _ y d a b (by decide), decode_of (opcodeOf_encVVB _ y d a b (by decide)) rfl (decVVB_encVVB _ _ y d a b (by decide)) h⟩
theorem RoundTrip.imul (y : Bool) (d : VReg) (a : VReg) (b : BOp) : RoundTrip.Statement (.imul y d a b) := fun _ e h => by
  cases e
  exact ⟨encVVB_lt _ y d a b (by decide), decode_of (opcodeOf_encVVB _ y d a b (by decide)) rfl (decVVB_encVVB _ _ y d a b (by decide)) h⟩
theorem RoundTrip.imulh (y : Bool) (d : VReg) (a : VReg) (b : BOp) : RoundTrip.Statement (.imulh y d a b) := fun _ e h => by
  cases e
  exact ⟨encVVB_lt _ y d a b (by decide), decode_of (opcodeOf_encVVB _ y d a b (by decide)) rfl (decVVB_encVVB _ _ y d a b (by decide)) h⟩
theorem RoundTrip.imad (y : Bool) (d : VReg) (a : VReg) (b : BOp) : RoundTrip.Statement (.imad y d a b) := fun _ e h => by
  cases e
  exact ⟨encVVB_lt _ y d a b (by decide), decode_of (opcodeOf_encVVB _ y d a b (by decide)) rfl (decVVB_encVVB _ _ y d a b (by decide)) h⟩
theorem RoundTrip.imin (y : Bool) (d : VReg) (a : VReg) (b : BOp) : RoundTrip.Statement (.imin y d a b) := fun _ e h => by
  cases e
  exact ⟨encVVB_lt _ y d a b (by decide), decode_of (opcodeOf_encVVB _ y d a b (by decide)) rfl (decVVB_encVVB _ _ y d a b (by decide)) h⟩
theorem RoundTrip.imax (y : Bool) (d : VReg) (a : VReg) (b : BOp) : RoundTrip.Statement (.imax y d a b) := fun _ e h => by
  cases e
  exact ⟨encVVB_lt _ y d a b (by decide), decode_of (opcodeOf_encVVB _ y d a b (by decide)) rfl (decVVB_encVVB _ _ y d a b (by decide)) h⟩
theorem RoundTrip.iabs (y : Bool) (d : VReg) (a : VReg) : RoundTrip.Statement (.iabs y d a) := fun _ e h => by
  cases e
  exact ⟨encVV_lt _ y d a (by decide), decode_of (opcodeOf_encVV _ y d a (by decide)) rfl (decVV_encVV _ _ y d a (by decide)) h⟩
theorem RoundTrip.and (y : Bool) (d : VReg) (a : VReg) (b : BOp) : RoundTrip.Statement (.and y d a b) := fun _ e h => by
  cases e
  exact ⟨encVVB_lt _ y d a b (by decide), decode_of (opcodeOf_encVVB _ y d a b (by decide)) rfl (decVVB_encVVB _ _ y d a b (by decide)) h⟩
theorem RoundTrip.or (y : Bool) (d : VReg) (a : VReg) (b : BOp) : RoundTrip.Statement (.or y d a b) := fun _ e h => by
  cases e
  exact ⟨encVVB_lt _ y d a b (by decide), decode_of (opcodeOf_encVVB _ y d a b (by decide)) rfl (decVVB_encVVB _ _ y d a b (by decide)) h⟩
theorem RoundTrip.xor (y : Bool) (d : VReg) (a : VReg) (b : BOp) : RoundTrip.Statement (.xor y d a b) := fun _ e h => by
  cases e
  exact ⟨encVVB_lt _ y d a b (by decide), decode_of (opcodeOf_encVVB _ y d a b (by decide)) rfl (decVVB_encVVB _ _ y d a b (by decide)) h⟩
theorem RoundTrip.shl (y : Bool) (d : VReg) (a : VReg) (b : BOp) : RoundTrip.Statement (.shl y d a b) := fun _ e h => by
  cases e
  exact ⟨encVVB_lt _ y d a b (by decide), decode_of (opcodeOf_encVVB _ y d a b (by decide)) rfl (decVVB_encVVB _ _ y d a b (by decide)) h⟩
theorem RoundTrip.shr (y : Bool) (d : VReg) (a : VReg) (b : BOp) : RoundTrip.Statement (.shr y d a b) := fun _ e h => by
  cases e
  exact ⟨encVVB_lt _ y d a b (by decide), decode_of (opcodeOf_encVVB _ y d a b (by decide)) rfl (decVVB_encVVB _ _ y d a b (by decide)) h⟩
theorem RoundTrip.sra (y : Bool) (d : VReg) (a : VReg) (b : BOp) : RoundTrip.Statement (.sra y d a b) := fun _ e h => by
  cases e
  exact ⟨encVVB_lt _ y d a b (by decide), decode_of (opcodeOf_encVVB _ y d a b (by decide)) rfl (decVVB_encVVB _ _ y d a b (by decide)) h⟩
theorem RoundTrip.bfx (y : Bool) (d : VReg) (a : VReg) (b : BOp) : RoundTrip.Statement (.bfx y d a b) := fun _ e h => by
  cases e
  exact ⟨encVVB_lt _ y d a b (by decide), decode_of (opcodeOf_encVVB _ y d a b (by decide)) rfl (decVVB_encVVB _ _ y d a b (by decide)) h⟩
theorem RoundTrip.bfi (y : Bool) (d : VReg) (a : VReg) (b : BOp) : RoundTrip.Statement (.bfi y d a b) := fun _ e h => by
  cases e
  exact ⟨encVVB_lt _ y d a b (by decide), decode_of (opcodeOf_encVVB _ y d a b (by decide)) rfl (decVVB_encVVB _ _ y d a b (by decide)) h⟩
theorem RoundTrip.popc (y : Bool) (d : VReg) (a : VReg) : RoundTrip.Statement (.popc y d a) := fun _ e h => by
  cases e
  exact ⟨encVV_lt _ y d a (by decide), decode_of (opcodeOf_encVV _ y d a (by decide)) rfl (decVV_encVV _ _ y d a (by decide)) h⟩
theorem RoundTrip.clz (y : Bool) (d : VReg) (a : VReg) : RoundTrip.Statement (.clz y d a) := fun _ e h => by
  cases e
  exact ⟨encVV_lt _ y d a (by decide), decode_of (opcodeOf_encVV _ y d a (by decide)) rfl (decVV_encVV _ _ y d a (by decide)) h⟩
theorem RoundTrip.brev (y : Bool) (d : VReg) (a : VReg) : RoundTrip.Statement (.brev y d a) := fun _ e h => by
  cases e
  exact ⟨encVV_lt _ y d a (by decide), decode_of (opcodeOf_encVV _ y d a (by decide)) rfl (decVV_encVV _ _ y d a (by decide)) h⟩
theorem RoundTrip.sel (y : Bool) (d : VReg) (a : VReg) (b : BOp) : RoundTrip.Statement (.sel y d a b) := fun _ e h => by
  cases e
  exact ⟨encVVB_lt _ y d a b (by decide), decode_of (opcodeOf_encVVB _ y d a b (by decide)) rfl (decVVB_encVVB _ _ y d a b (by decide)) h⟩
theorem RoundTrip.icmpeq (y : Bool) (d : MReg) (a : VReg) (b : BOp) : RoundTrip.Statement (.icmpeq y d a b) := fun _ e h => by
  cases e
  exact ⟨encMVB_lt _ y d a b (by decide), decode_of (opcodeOf_encMVB _ y d a b (by decide)) rfl (decMVB_encMVB _ _ y d a b (by decide)) h⟩
theorem RoundTrip.icmpne (y : Bool) (d : MReg) (a : VReg) (b : BOp) : RoundTrip.Statement (.icmpne y d a b) := fun _ e h => by
  cases e
  exact ⟨encMVB_lt _ y d a b (by decide), decode_of (opcodeOf_encMVB _ y d a b (by decide)) rfl (decMVB_encMVB _ _ y d a b (by decide)) h⟩
theorem RoundTrip.icmplt (y : Bool) (d : MReg) (a : VReg) (b : BOp) : RoundTrip.Statement (.icmplt y d a b) := fun _ e h => by
  cases e
  exact ⟨encMVB_lt _ y d a b (by decide), decode_of (opcodeOf_encMVB _ y d a b (by decide)) rfl (decMVB_encMVB _ _ y d a b (by decide)) h⟩
theorem RoundTrip.icmple (y : Bool) (d : MReg) (a : VReg) (b : BOp) : RoundTrip.Statement (.icmple y d a b) := fun _ e h => by
  cases e
  exact ⟨encMVB_lt _ y d a b (by decide), decode_of (opcodeOf_encMVB _ y d a b (by decide)) rfl (decMVB_encMVB _ _ y d a b (by decide)) h⟩
theorem RoundTrip.mov (y : Bool) (d : VReg) (a : VReg) : RoundTrip.Statement (.mov y d a) := fun _ e h => by
  cases e
  exact ⟨encVV_lt _ y d a (by decide), decode_of (opcodeOf_encVV _ y d a (by decide)) rfl (decVV_encVV _ _ y d a (by decide)) h⟩
theorem RoundTrip.movi (y : Bool) (d : VReg) (i : BitVec 16) : RoundTrip.Statement (.movi y d i) := fun _ e h => by
  cases e
  exact ⟨encVI_lt _ y d i (by decide), decode_of (opcodeOf_encVI _ y d i (by decide)) rfl (decVI_encVI _ _ y d i (by decide)) h⟩
theorem RoundTrip.movih (y : Bool) (d : VReg) (i : BitVec 16) : RoundTrip.Statement (.movih y d i) := fun _ e h => by
  cases e
  exact ⟨encVI_lt _ y d i (by decide), decode_of (opcodeOf_encVI _ y d i (by decide)) rfl (decVI_encVI _ _ y d i (by decide)) h⟩
theorem RoundTrip.iaddi (y : Bool) (d : VReg) (a : VReg) (i : BitVec 9) : RoundTrip.Statement (.iaddi y d a i) := fun _ e h => by
  cases e
  exact ⟨encVVI_lt _ y d a i (by decide), decode_of (opcodeOf_encVVI _ y d a i (by decide)) rfl (decVVI_encVVI _ _ y d a i (by decide)) h⟩
theorem RoundTrip.shli (y : Bool) (d : VReg) (a : VReg) (n : Fin 32) : RoundTrip.Statement (.shli y d a n) := fun _ e h => by
  cases e
  exact ⟨encVVN_lt _ y d a n (by decide), decode_of (opcodeOf_encVVN _ y d a n (by decide)) rfl (decVVN_encVVN _ _ y d a n (by decide)) h⟩
theorem RoundTrip.shri (y : Bool) (d : VReg) (a : VReg) (n : Fin 32) : RoundTrip.Statement (.shri y d a n) := fun _ e h => by
  cases e
  exact ⟨encVVN_lt _ y d a n (by decide), decode_of (opcodeOf_encVVN _ y d a n (by decide)) rfl (decVVN_encVVN _ _ y d a n (by decide)) h⟩
theorem RoundTrip.srai (y : Bool) (d : VReg) (a : VReg) (n : Fin 32) : RoundTrip.Statement (.srai y d a n) := fun _ e h => by
  cases e
  exact ⟨encVVN_lt _ y d a n (by decide), decode_of (opcodeOf_encVVN _ y d a n (by decide)) rfl (decVVN_encVVN _ _ y d a n (by decide)) h⟩
theorem RoundTrip.andi (y : Bool) (d : VReg) (a : VReg) (i : BitVec 9) : RoundTrip.Statement (.andi y d a i) := fun _ e h => by
  cases e
  exact ⟨encVVI_lt _ y d a i (by decide), decode_of (opcodeOf_encVVI _ y d a i (by decide)) rfl (decVVI_encVVI _ _ y d a i (by decide)) h⟩
theorem RoundTrip.ori (y : Bool) (d : VReg) (a : VReg) (i : BitVec 9) : RoundTrip.Statement (.ori y d a i) := fun _ e h => by
  cases e
  exact ⟨encVVI_lt _ y d a i (by decide), decode_of (opcodeOf_encVVI _ y d a i (by decide)) rfl (decVVI_encVVI _ _ y d a i (by decide)) h⟩
theorem RoundTrip.xori (y : Bool) (d : VReg) (a : VReg) (i : BitVec 9) : RoundTrip.Statement (.xori y d a i) := fun _ e h => by
  cases e
  exact ⟨encVVI_lt _ y d a i (by decide), decode_of (opcodeOf_encVVI _ y d a i (by decide)) rfl (decVVI_encVVI _ _ y d a i (by decide)) h⟩
theorem RoundTrip.sadd (y : Bool) (d : SReg) (a : SReg) (b : SReg) : RoundTrip.Statement (.sadd y d a b) := fun _ e h => by
  cases e
  exact ⟨encSSS_lt _ y d a b (by decide), decode_of (opcodeOf_encSSS _ y d a b (by decide)) rfl (decSSS_encSSS _ _ y d a b (by decide)) h⟩
theorem RoundTrip.ssub (y : Bool) (d : SReg) (a : SReg) (b : SReg) : RoundTrip.Statement (.ssub y d a b) := fun _ e h => by
  cases e
  exact ⟨encSSS_lt _ y d a b (by decide), decode_of (opcodeOf_encSSS _ y d a b (by decide)) rfl (decSSS_encSSS _ _ y d a b (by decide)) h⟩
theorem RoundTrip.smul (y : Bool) (d : SReg) (a : SReg) (b : SReg) : RoundTrip.Statement (.smul y d a b) := fun _ e h => by
  cases e
  exact ⟨encSSS_lt _ y d a b (by decide), decode_of (opcodeOf_encSSS _ y d a b (by decide)) rfl (decSSS_encSSS _ _ y d a b (by decide)) h⟩
theorem RoundTrip.sand (y : Bool) (d : SReg) (a : SReg) (b : SReg) : RoundTrip.Statement (.sand y d a b) := fun _ e h => by
  cases e
  exact ⟨encSSS_lt _ y d a b (by decide), decode_of (opcodeOf_encSSS _ y d a b (by decide)) rfl (decSSS_encSSS _ _ y d a b (by decide)) h⟩
theorem RoundTrip.sor (y : Bool) (d : SReg) (a : SReg) (b : SReg) : RoundTrip.Statement (.sor y d a b) := fun _ e h => by
  cases e
  exact ⟨encSSS_lt _ y d a b (by decide), decode_of (opcodeOf_encSSS _ y d a b (by decide)) rfl (decSSS_encSSS _ _ y d a b (by decide)) h⟩
theorem RoundTrip.sxor (y : Bool) (d : SReg) (a : SReg) (b : SReg) : RoundTrip.Statement (.sxor y d a b) := fun _ e h => by
  cases e
  exact ⟨encSSS_lt _ y d a b (by decide), decode_of (opcodeOf_encSSS _ y d a b (by decide)) rfl (decSSS_encSSS _ _ y d a b (by decide)) h⟩
theorem RoundTrip.sshl (y : Bool) (d : SReg) (a : SReg) (b : SReg) : RoundTrip.Statement (.sshl y d a b) := fun _ e h => by
  cases e
  exact ⟨encSSS_lt _ y d a b (by decide), decode_of (opcodeOf_encSSS _ y d a b (by decide)) rfl (decSSS_encSSS _ _ y d a b (by decide)) h⟩
theorem RoundTrip.sshr (y : Bool) (d : SReg) (a : SReg) (b : SReg) : RoundTrip.Statement (.sshr y d a b) := fun _ e h => by
  cases e
  exact ⟨encSSS_lt _ y d a b (by decide), decode_of (opcodeOf_encSSS _ y d a b (by decide)) rfl (decSSS_encSSS _ _ y d a b (by decide)) h⟩
theorem RoundTrip.ssra (y : Bool) (d : SReg) (a : SReg) (b : SReg) : RoundTrip.Statement (.ssra y d a b) := fun _ e h => by
  cases e
  exact ⟨encSSS_lt _ y d a b (by decide), decode_of (opcodeOf_encSSS _ y d a b (by decide)) rfl (decSSS_encSSS _ _ y d a b (by decide)) h⟩
theorem RoundTrip.smov (y : Bool) (d : SReg) (a : SReg) : RoundTrip.Statement (.smov y d a) := fun _ e h => by
  cases e
  exact ⟨encSS_lt _ y d a (by decide), decode_of (opcodeOf_encSS _ y d a (by decide)) rfl (decSS_encSS _ _ y d a (by decide)) h⟩
theorem RoundTrip.smovi (y : Bool) (d : SReg) (i : BitVec 16) : RoundTrip.Statement (.smovi y d i) := fun _ e h => by
  cases e
  exact ⟨encSI_lt _ y d i (by decide), decode_of (opcodeOf_encSI _ y d i (by decide)) rfl (decSI_encSI _ _ y d i (by decide)) h⟩
theorem RoundTrip.smovk (y : Bool) (d : SReg) (i : BitVec 16) : RoundTrip.Statement (.smovk y d i) := fun _ e h => by
  cases e
  exact ⟨encSI_lt _ y d i (by decide), decode_of (opcodeOf_encSI _ y d i (by decide)) rfl (decSI_encSI _ _ y d i (by decide)) h⟩
theorem RoundTrip.saddi (y : Bool) (d : SReg) (a : SReg) (i : BitVec 9) : RoundTrip.Statement (.saddi y d a i) := fun _ e h => by
  cases e
  exact ⟨encSSI_lt _ y d a i (by decide), decode_of (opcodeOf_encSSI _ y d a i (by decide)) rfl (decSSI_encSSI _ _ y d a i (by decide)) h⟩
theorem RoundTrip.sseq (y : Bool) (d : SReg) (a : SReg) (b : SReg) : RoundTrip.Statement (.sseq y d a b) := fun _ e h => by
  cases e
  exact ⟨encSSS_lt _ y d a b (by decide), decode_of (opcodeOf_encSSS _ y d a b (by decide)) rfl (decSSS_encSSS _ _ y d a b (by decide)) h⟩
theorem RoundTrip.sslt (y : Bool) (d : SReg) (a : SReg) (b : SReg) : RoundTrip.Statement (.sslt y d a b) := fun _ e h => by
  cases e
  exact ⟨encSSS_lt _ y d a b (by decide), decode_of (opcodeOf_encSSS _ y d a b (by decide)) rfl (decSSS_encSSS _ _ y d a b (by decide)) h⟩
theorem RoundTrip.ssltu (y : Bool) (d : SReg) (a : SReg) (b : SReg) : RoundTrip.Statement (.ssltu y d a b) := fun _ e h => by
  cases e
  exact ⟨encSSS_lt _ y d a b (by decide), decode_of (opcodeOf_encSSS _ y d a b (by decide)) rfl (decSSS_encSSS _ _ y d a b (by decide)) h⟩
theorem RoundTrip.vtos (y : Bool) (d : SReg) (a : VReg) : RoundTrip.Statement (.vtos y d a) := fun _ e h => by
  cases e
  exact ⟨encSV_lt _ y d a (by decide), decode_of (opcodeOf_encSV _ y d a (by decide)) rfl (decSV_encSV _ _ y d a (by decide)) h⟩
theorem RoundTrip.fadd (y : Bool) (d : VReg) (a : VReg) (b : BOp) : RoundTrip.Statement (.fadd y d a b) := fun _ e h => by
  cases e
  exact ⟨encVVB_lt _ y d a b (by decide), decode_of (opcodeOf_encVVB _ y d a b (by decide)) rfl (decVVB_encVVB _ _ y d a b (by decide)) h⟩
theorem RoundTrip.fsub (y : Bool) (d : VReg) (a : VReg) (b : BOp) : RoundTrip.Statement (.fsub y d a b) := fun _ e h => by
  cases e
  exact ⟨encVVB_lt _ y d a b (by decide), decode_of (opcodeOf_encVVB _ y d a b (by decide)) rfl (decVVB_encVVB _ _ y d a b (by decide)) h⟩
theorem RoundTrip.fmul (y : Bool) (d : VReg) (a : VReg) (b : BOp) : RoundTrip.Statement (.fmul y d a b) := fun _ e h => by
  cases e
  exact ⟨encVVB_lt _ y d a b (by decide), decode_of (opcodeOf_encVVB _ y d a b (by decide)) rfl (decVVB_encVVB _ _ y d a b (by decide)) h⟩
theorem RoundTrip.ffma (y : Bool) (d : VReg) (a : VReg) (b : BOp) : RoundTrip.Statement (.ffma y d a b) := fun _ e h => by
  cases e
  exact ⟨encVVB_lt _ y d a b (by decide), decode_of (opcodeOf_encVVB _ y d a b (by decide)) rfl (decVVB_encVVB _ _ y d a b (by decide)) h⟩
theorem RoundTrip.fmin (y : Bool) (d : VReg) (a : VReg) (b : BOp) : RoundTrip.Statement (.fmin y d a b) := fun _ e h => by
  cases e
  exact ⟨encVVB_lt _ y d a b (by decide), decode_of (opcodeOf_encVVB _ y d a b (by decide)) rfl (decVVB_encVVB _ _ y d a b (by decide)) h⟩
theorem RoundTrip.fmax (y : Bool) (d : VReg) (a : VReg) (b : BOp) : RoundTrip.Statement (.fmax y d a b) := fun _ e h => by
  cases e
  exact ⟨encVVB_lt _ y d a b (by decide), decode_of (opcodeOf_encVVB _ y d a b (by decide)) rfl (decVVB_encVVB _ _ y d a b (by decide)) h⟩
theorem RoundTrip.fabs (y : Bool) (d : VReg) (a : VReg) : RoundTrip.Statement (.fabs y d a) := fun _ e h => by
  cases e
  exact ⟨encVV_lt _ y d a (by decide), decode_of (opcodeOf_encVV _ y d a (by decide)) rfl (decVV_encVV _ _ y d a (by decide)) h⟩
theorem RoundTrip.fneg (y : Bool) (d : VReg) (a : VReg) : RoundTrip.Statement (.fneg y d a) := fun _ e h => by
  cases e
  exact ⟨encVV_lt _ y d a (by decide), decode_of (opcodeOf_encVV _ y d a (by decide)) rfl (decVV_encVV _ _ y d a (by decide)) h⟩
theorem RoundTrip.fcmpeq (y : Bool) (d : MReg) (a : VReg) (b : BOp) : RoundTrip.Statement (.fcmpeq y d a b) := fun _ e h => by
  cases e
  exact ⟨encMVB_lt _ y d a b (by decide), decode_of (opcodeOf_encMVB _ y d a b (by decide)) rfl (decMVB_encMVB _ _ y d a b (by decide)) h⟩
theorem RoundTrip.fcmplt (y : Bool) (d : MReg) (a : VReg) (b : BOp) : RoundTrip.Statement (.fcmplt y d a b) := fun _ e h => by
  cases e
  exact ⟨encMVB_lt _ y d a b (by decide), decode_of (opcodeOf_encMVB _ y d a b (by decide)) rfl (decMVB_encMVB _ _ y d a b (by decide)) h⟩
theorem RoundTrip.fcmple (y : Bool) (d : MReg) (a : VReg) (b : BOp) : RoundTrip.Statement (.fcmple y d a b) := fun _ e h => by
  cases e
  exact ⟨encMVB_lt _ y d a b (by decide), decode_of (opcodeOf_encMVB _ y d a b (by decide)) rfl (decMVB_encMVB _ _ y d a b (by decide)) h⟩
theorem RoundTrip.fcmpun (y : Bool) (d : MReg) (a : VReg) (b : BOp) : RoundTrip.Statement (.fcmpun y d a b) := fun _ e h => by
  cases e
  exact ⟨encMVB_lt _ y d a b (by decide), decode_of (opcodeOf_encMVB _ y d a b (by decide)) rfl (decMVB_encMVB _ _ y d a b (by decide)) h⟩
theorem RoundTrip.frcp (y : Bool) (d : VReg) (a : VReg) : RoundTrip.Statement (.frcp y d a) := fun _ e h => by
  cases e
  exact ⟨encVV_lt _ y d a (by decide), decode_of (opcodeOf_encVV _ y d a (by decide)) rfl (decVV_encVV _ _ y d a (by decide)) h⟩
theorem RoundTrip.frsq (y : Bool) (d : VReg) (a : VReg) : RoundTrip.Statement (.frsq y d a) := fun _ e h => by
  cases e
  exact ⟨encVV_lt _ y d a (by decide), decode_of (opcodeOf_encVV _ y d a (by decide)) rfl (decVV_encVV _ _ y d a (by decide)) h⟩
theorem RoundTrip.fsqrt (y : Bool) (d : VReg) (a : VReg) : RoundTrip.Statement (.fsqrt y d a) := fun _ e h => by
  cases e
  exact ⟨encVV_lt _ y d a (by decide), decode_of (opcodeOf_encVV _ y d a (by decide)) rfl (decVV_encVV _ _ y d a (by decide)) h⟩
theorem RoundTrip.fexp2 (y : Bool) (d : VReg) (a : VReg) : RoundTrip.Statement (.fexp2 y d a) := fun _ e h => by
  cases e
  exact ⟨encVV_lt _ y d a (by decide), decode_of (opcodeOf_encVV _ y d a (by decide)) rfl (decVV_encVV _ _ y d a (by decide)) h⟩
theorem RoundTrip.flog2 (y : Bool) (d : VReg) (a : VReg) : RoundTrip.Statement (.flog2 y d a) := fun _ e h => by
  cases e
  exact ⟨encVV_lt _ y d a (by decide), decode_of (opcodeOf_encVV _ y d a (by decide)) rfl (decVV_encVV _ _ y d a (by decide)) h⟩
theorem RoundTrip.fsinpi (y : Bool) (d : VReg) (a : VReg) : RoundTrip.Statement (.fsinpi y d a) := fun _ e h => by
  cases e
  exact ⟨encVV_lt _ y d a (by decide), decode_of (opcodeOf_encVV _ y d a (by decide)) rfl (decVV_encVV _ _ y d a (by decide)) h⟩
theorem RoundTrip.fcospi (y : Bool) (d : VReg) (a : VReg) : RoundTrip.Statement (.fcospi y d a) := fun _ e h => by
  cases e
  exact ⟨encVV_lt _ y d a (by decide), decode_of (opcodeOf_encVV _ y d a (by decide)) rfl (decVV_encVV _ _ y d a (by decide)) h⟩
theorem RoundTrip.fcvt (y : Bool) (d : VReg) (a : VReg) (ty : Fin 128) : RoundTrip.Statement (.fcvt y d a ty) := fun _ e h => by
  cases e
  exact ⟨encFCVT_lt _ y d a ty (by decide), decode_of (opcodeOf_encFCVT _ y d a ty (by decide)) rfl (decFCVT_encFCVT _ _ y d a ty (by decide)) h⟩
theorem RoundTrip.icvtf (y : Bool) (d : VReg) (a : VReg) : RoundTrip.Statement (.icvtf y d a) := fun _ e h => by
  cases e
  exact ⟨encVV_lt _ y d a (by decide), decode_of (opcodeOf_encVV _ y d a (by decide)) rfl (decVV_encVV _ _ y d a (by decide)) h⟩
theorem RoundTrip.fcvti (y : Bool) (d : VReg) (a : VReg) : RoundTrip.Statement (.fcvti y d a) := fun _ e h => by
  cases e
  exact ⟨encVV_lt _ y d a (by decide), decode_of (opcodeOf_encVV _ y d a (by decide)) rfl (decVV_encVV _ _ y d a (by decide)) h⟩
theorem RoundTrip.fclass (y : Bool) (d : VReg) (a : VReg) : RoundTrip.Statement (.fclass y d a) := fun _ e h => by
  cases e
  exact ⟨encVV_lt _ y d a (by decide), decode_of (opcodeOf_encVV _ y d a (by decide)) rfl (decVV_encVV _ _ y d a (by decide)) h⟩
theorem RoundTrip.fscale (y : Bool) (d : VReg) (a : VReg) (b : BOp) : RoundTrip.Statement (.fscale y d a b) := fun _ e h => by
  cases e
  exact ⟨encVVB_lt _ y d a b (by decide), decode_of (opcodeOf_encVVB _ y d a b (by decide)) rfl (decVVB_encVVB _ _ y d a b (by decide)) h⟩
theorem RoundTrip.frnd (y : Bool) (d : VReg) (a : VReg) : RoundTrip.Statement (.frnd y d a) := fun _ e h => by
  cases e
  exact ⟨encVV_lt _ y d a (by decide), decode_of (opcodeOf_encVV _ y d a (by decide)) rfl (decVV_encVV _ _ y d a (by decide)) h⟩
theorem RoundTrip.dot4 (y : Bool) (d : VReg) (a : VReg) (b : BOp) : RoundTrip.Statement (.dot4 y d a b) := fun _ e h => by
  cases e
  exact ⟨encVVB_lt _ y d a b (by decide), decode_of (opcodeOf_encVVB _ y d a b (by decide)) rfl (decVVB_encVVB _ _ y d a b (by decide)) h⟩
theorem RoundTrip.dot8 (y : Bool) (d : VReg) (a : VReg) (b : BOp) : RoundTrip.Statement (.dot8 y d a b) := fun _ e h => by
  cases e
  exact ⟨encVVB_lt _ y d a b (by decide), decode_of (opcodeOf_encVVB _ y d a b (by decide)) rfl (decVVB_encVVB _ _ y d a b (by decide)) h⟩
theorem RoundTrip.dot2f (y : Bool) (d : VReg) (a : VReg) (b : BOp) : RoundTrip.Statement (.dot2f y d a b) := fun _ e h => by
  cases e
  exact ⟨encVVB_lt _ y d a b (by decide), decode_of (opcodeOf_encVVB _ y d a b (by decide)) rfl (decVVB_encVVB _ _ y d a b (by decide)) h⟩
theorem RoundTrip.qscale (y : Bool) (d : VReg) (a : VReg) (b : BOp) : RoundTrip.Statement (.qscale y d a b) := fun _ e h => by
  cases e
  exact ⟨encVVB_lt _ y d a b (by decide), decode_of (opcodeOf_encVVB _ y d a b (by decide)) rfl (decVVB_encVVB _ _ y d a b (by decide)) h⟩
theorem RoundTrip.pack (y : Bool) (d : VReg) (a : VReg) (e : Fin 8) : RoundTrip.Statement (.pack y d a e) := fun _ e h => by
  cases e
  exact ⟨encVVE_lt _ y d a e (by decide), decode_of (opcodeOf_encVVE _ y d a e (by decide)) rfl (decVVE_encVVE _ _ y d a e (by decide)) h⟩
theorem RoundTrip.unpk (y : Bool) (d : VReg) (a : VReg) (e : Fin 8) : RoundTrip.Statement (.unpk y d a e) := fun _ e h => by
  cases e
  exact ⟨encVVE_lt _ y d a e (by decide), decode_of (opcodeOf_encVVE _ y d a e (by decide)) rfl (decVVE_encVVE _ _ y d a e (by decide)) h⟩
theorem RoundTrip.mand (y : Bool) (d : MReg) (a : MReg) (b : MReg) : RoundTrip.Statement (.mand y d a b) := fun _ e h => by
  cases e
  exact ⟨encMMM_lt _ y d a b (by decide), decode_of (opcodeOf_encMMM _ y d a b (by decide)) rfl (decMMM_encMMM _ _ y d a b (by decide)) h⟩
theorem RoundTrip.mor (y : Bool) (d : MReg) (a : MReg) (b : MReg) : RoundTrip.Statement (.mor y d a b) := fun _ e h => by
  cases e
  exact ⟨encMMM_lt _ y d a b (by decide), decode_of (opcodeOf_encMMM _ y d a b (by decide)) rfl (decMMM_encMMM _ _ y d a b (by decide)) h⟩
theorem RoundTrip.mxor (y : Bool) (d : MReg) (a : MReg) (b : MReg) : RoundTrip.Statement (.mxor y d a b) := fun _ e h => by
  cases e
  exact ⟨encMMM_lt _ y d a b (by decide), decode_of (opcodeOf_encMMM _ y d a b (by decide)) rfl (decMMM_encMMM _ _ y d a b (by decide)) h⟩
theorem RoundTrip.mandn (y : Bool) (d : MReg) (a : MReg) (b : MReg) : RoundTrip.Statement (.mandn y d a b) := fun _ e h => by
  cases e
  exact ⟨encMMM_lt _ y d a b (by decide), decode_of (opcodeOf_encMMM _ y d a b (by decide)) rfl (decMMM_encMMM _ _ y d a b (by decide)) h⟩
theorem RoundTrip.mtos (y : Bool) (d : SReg) (a : MReg) (hi : Bool) : RoundTrip.Statement (.mtos y d a hi) := fun _ e h => by
  cases e
  exact ⟨encMTOS_lt _ y d a hi (by decide), decode_of (opcodeOf_encMTOS _ y d a hi (by decide)) rfl (decMTOS_encMTOS _ _ y d a hi (by decide)) h⟩
theorem RoundTrip.stom (y : Bool) (d : MReg) (a : SReg) (hi : Bool) : RoundTrip.Statement (.stom y d a hi) := fun _ e h => by
  cases e
  exact ⟨encSTOM_lt _ y d a hi (by decide), decode_of (opcodeOf_encSTOM _ y d a hi (by decide)) rfl (decSTOM_encSTOM _ _ y d a hi (by decide)) h⟩
theorem RoundTrip.mpopc (y : Bool) (d : SReg) (a : MReg) : RoundTrip.Statement (.mpopc y d a) := fun _ e h => by
  cases e
  exact ⟨encSM_lt _ y d a (by decide), decode_of (opcodeOf_encSM _ y d a (by decide)) rfl (decSM_encSM _ _ y d a (by decide)) h⟩
theorem RoundTrip.mfirst (y : Bool) (d : SReg) (a : MReg) : RoundTrip.Statement (.mfirst y d a) := fun _ e h => by
  cases e
  exact ⟨encSM_lt _ y d a (by decide), decode_of (opcodeOf_encSM _ y d a (by decide)) rfl (decSM_encSM _ _ y d a (by decide)) h⟩
theorem RoundTrip.shfl (y : Bool) (d : VReg) (a : VReg) (b : VReg) : RoundTrip.Statement (.shfl y d a b) := fun _ e h => by
  cases e
  exact ⟨encVVV_lt _ y d a b (by decide), decode_of (opcodeOf_encVVV _ y d a b (by decide)) rfl (decVVV_encVVV _ _ y d a b (by decide)) h⟩
theorem RoundTrip.shflx (y : Bool) (d : VReg) (a : VReg) (b : SReg) : RoundTrip.Statement (.shflx y d a b) := fun _ e h => by
  cases e
  exact ⟨encVVS_lt _ y d a b (by decide), decode_of (opcodeOf_encVVS _ y d a b (by decide)) rfl (decVVS_encVVS _ _ y d a b (by decide)) h⟩
theorem RoundTrip.qswap (y : Bool) (d : VReg) (a : VReg) (k : Fin 4) : RoundTrip.Statement (.qswap y d a k) := fun _ e h => by
  cases e
  exact ⟨encQSWAP_lt _ y d a k (by decide), decode_of (opcodeOf_encQSWAP _ y d a k (by decide)) rfl (decQSWAP_encQSWAP _ _ y d a k (by decide)) h⟩
theorem RoundTrip.qbcast (y : Bool) (d : VReg) (a : VReg) (l : Fin 4) : RoundTrip.Statement (.qbcast y d a l) := fun _ e h => by
  cases e
  exact ⟨encQBC_lt _ y d a l (by decide), decode_of (opcodeOf_encQBC _ y d a l (by decide)) rfl (decQBC_encQBC _ _ y d a l (by decide)) h⟩
theorem RoundTrip.redadd (y : Bool) (d : SReg) (a : VReg) : RoundTrip.Statement (.redadd y d a) := fun _ e h => by
  cases e
  exact ⟨encSV_lt _ y d a (by decide), decode_of (opcodeOf_encSV _ y d a (by decide)) rfl (decSV_encSV _ _ y d a (by decide)) h⟩
theorem RoundTrip.redmin (y : Bool) (d : SReg) (a : VReg) : RoundTrip.Statement (.redmin y d a) := fun _ e h => by
  cases e
  exact ⟨encSV_lt _ y d a (by decide), decode_of (opcodeOf_encSV _ y d a (by decide)) rfl (decSV_encSV _ _ y d a (by decide)) h⟩
theorem RoundTrip.redmax (y : Bool) (d : SReg) (a : VReg) : RoundTrip.Statement (.redmax y d a) := fun _ e h => by
  cases e
  exact ⟨encSV_lt _ y d a (by decide), decode_of (opcodeOf_encSV _ y d a (by decide)) rfl (decSV_encSV _ _ y d a (by decide)) h⟩
theorem RoundTrip.scanadd (y : Bool) (d : VReg) (a : VReg) : RoundTrip.Statement (.scanadd y d a) := fun _ e h => by
  cases e
  exact ⟨encVV_lt _ y d a (by decide), decode_of (opcodeOf_encVV _ y d a (by decide)) rfl (decVV_encVV _ _ y d a (by decide)) h⟩
theorem RoundTrip.mset (y : Bool) (i : BitVec 16) : RoundTrip.Statement (.mset y i) := fun _ e h => by
  cases e
  exact ⟨encI_lt _ y i (by decide), decode_of (opcodeOf_encI _ y i (by decide)) rfl (decI_encI _ _ y i (by decide)) h⟩
theorem RoundTrip.mseth (y : Bool) (i : BitVec 16) : RoundTrip.Statement (.mseth y i) := fun _ e h => by
  cases e
  exact ⟨encI_lt _ y i (by decide), decode_of (opcodeOf_encI _ y i (by decide)) rfl (decI_encI _ _ y i (by decide)) h⟩
theorem RoundTrip.mrd (y : Bool) (d : SReg) : RoundTrip.Statement (.mrd y d) := fun _ e h => by
  cases e
  exact ⟨encSD_lt _ y d (by decide), decode_of (opcodeOf_encSD _ y d (by decide)) rfl (decSD_encSD _ _ y d (by decide)) h⟩
theorem RoundTrip.mwr (y : Bool) (a : SReg) : RoundTrip.Statement (.mwr y a) := fun _ e h => by
  cases e
  exact ⟨encSA_lt _ y a (by decide), decode_of (opcodeOf_encSA _ y a (by decide)) rfl (decSA_encSA _ _ y a (by decide)) h⟩
theorem RoundTrip.rdspec (y : Bool) (d : VReg) (sel : Fin 16) : RoundTrip.Statement (.rdspec y d sel) := fun _ e h => by
  cases e
  exact ⟨encRDSPEC_lt _ y d sel (by decide), decode_of (opcodeOf_encRDSPEC _ y d sel (by decide)) rfl (decRDSPEC_encRDSPEC _ _ y d sel (by decide)) h⟩
theorem RoundTrip.cwrd (y : Bool) (d : SReg) (w : Fin 4096) : RoundTrip.Statement (.cwrd y d w) := fun _ e h => by
  cases e
  exact ⟨encCW_lt _ y d w (by decide), decode_of (opcodeOf_encCW _ y d w (by decide)) rfl (decCW_encCW _ _ y d w (by decide)) h⟩
theorem RoundTrip.cwwr (y : Bool) (d : SReg) (w : Fin 4096) : RoundTrip.Statement (.cwwr y d w) := fun _ e h => by
  cases e
  exact ⟨encCW_lt _ y d w (by decide), decode_of (opcodeOf_encCW _ y d w (by decide)) rfl (decCW_encCW _ _ y d w (by decide)) h⟩
theorem RoundTrip.thset (y : Bool) (d : ThReg) (a : SReg) (b : SReg) : RoundTrip.Statement (.thset y d a b) := fun _ e h => by
  cases e
  exact ⟨encTHSET_lt _ y d a b (by decide), decode_of (opcodeOf_encTHSET _ y d a b (by decide)) rfl (decTHSET_encTHSET _ _ y d a b (by decide)) h⟩
theorem RoundTrip.ifM (y : Bool) (m : MReg) (o : BitVec 16) : RoundTrip.Statement (.ifM y m o) := fun _ e h => by
  cases e
  exact ⟨encMO_lt _ y m o (by decide), decode_of (opcodeOf_encMO _ y m o (by decide)) rfl (decMO_encMO _ _ y m o (by decide)) h⟩
theorem RoundTrip.elseM (y : Bool) (o : BitVec 16) : RoundTrip.Statement (.elseM y o) := fun _ e h => by
  cases e
  exact ⟨encO_lt _ y o (by decide), decode_of (opcodeOf_encO _ y o (by decide)) rfl (decO_encO _ _ y o (by decide)) h⟩
theorem RoundTrip.endif (y : Bool) : RoundTrip.Statement (.endif y) := fun _ e h => by
  cases e
  exact ⟨encENDIF_lt _ y (by decide), decode_of (opcodeOf_encENDIF _ y (by decide)) rfl (decENDIF_encENDIF _ _ y (by decide)) h⟩
theorem RoundTrip.loop (y : Bool) (o : BitVec 16) : RoundTrip.Statement (.loop y o) := fun _ e h => by
  cases e
  exact ⟨encO_lt _ y o (by decide), decode_of (opcodeOf_encO _ y o (by decide)) rfl (decO_encO _ _ y o (by decide)) h⟩
theorem RoundTrip.brk (y : Bool) (m : MReg) (n : Fin 64) : RoundTrip.Statement (.brk y m n) := fun _ e h => by
  cases e
  exact ⟨encMN_lt _ y m n (by decide), decode_of (opcodeOf_encMN _ y m n (by decide)) rfl (decMN_encMN _ _ y m n (by decide)) h⟩
theorem RoundTrip.cont (y : Bool) (m : MReg) (n : Fin 64) : RoundTrip.Statement (.cont y m n) := fun _ e h => by
  cases e
  exact ⟨encMN_lt _ y m n (by decide), decode_of (opcodeOf_encMN _ y m n (by decide)) rfl (decMN_encMN _ _ y m n (by decide)) h⟩
theorem RoundTrip.endloop (y : Bool) (o : BitVec 16) : RoundTrip.Statement (.endloop y o) := fun _ e h => by
  cases e
  exact ⟨encO_lt _ y o (by decide), decode_of (opcodeOf_encO _ y o (by decide)) rfl (decO_encO _ _ y o (by decide)) h⟩
theorem RoundTrip.jmp (y : Bool) (o : BitVec 23) : RoundTrip.Statement (.jmp y o) := fun _ e h => by
  cases e
  exact ⟨encJ_lt _ y o (by decide), decode_of (opcodeOf_encJ _ y o (by decide)) rfl (decJ_encJ _ _ y o (by decide)) h⟩
theorem RoundTrip.brs (y : Bool) (x : SReg) (o : BitVec 16) : RoundTrip.Statement (.brs y x o) := fun _ e h => by
  cases e
  exact ⟨encSO_lt _ y x o (by decide), decode_of (opcodeOf_encSO _ y x o (by decide)) rfl (decSO_encSO _ _ y x o (by decide)) h⟩
theorem RoundTrip.brany (y : Bool) (m : MReg) (o : BitVec 16) : RoundTrip.Statement (.brany y m o) := fun _ e h => by
  cases e
  exact ⟨encMO_lt _ y m o (by decide), decode_of (opcodeOf_encMO _ y m o (by decide)) rfl (decMO_encMO _ _ y m o (by decide)) h⟩
theorem RoundTrip.brall (y : Bool) (m : MReg) (o : BitVec 16) : RoundTrip.Statement (.brall y m o) := fun _ e h => by
  cases e
  exact ⟨encMO_lt _ y m o (by decide), decode_of (opcodeOf_encMO _ y m o (by decide)) rfl (decMO_encMO _ _ y m o (by decide)) h⟩
theorem RoundTrip.jmpx (y : Bool) (a : VReg) : RoundTrip.Statement (.jmpx y a) := fun _ e h => by
  cases e
  exact ⟨encVA_lt _ y a (by decide), decode_of (opcodeOf_encVA _ y a (by decide)) rfl (decVA_encVA _ _ y a (by decide)) h⟩
theorem RoundTrip.merge (y : Bool) : RoundTrip.Statement (.merge y) := fun _ e h => by
  cases e
  exact ⟨encNONE_lt _ y (by decide), decode_of (opcodeOf_encNONE _ y (by decide)) rfl (decNONE_encNONE _ _ y (by decide)) h⟩
theorem RoundTrip.exit (y : Bool) : RoundTrip.Statement (.exit y) := fun _ e h => by
  cases e
  exact ⟨encNONE_lt _ y (by decide), decode_of (opcodeOf_encNONE _ y (by decide)) rfl (decNONE_encNONE _ _ y (by decide)) h⟩
theorem RoundTrip.nop (y : Bool) : RoundTrip.Statement (.nop y) := fun _ e h => by
  cases e
  exact ⟨encNONE_lt _ y (by decide), decode_of (opcodeOf_encNONE _ y (by decide)) rfl (decNONE_encNONE _ _ y (by decide)) h⟩
theorem RoundTrip.yield (y : Bool) : RoundTrip.Statement (.yield y) := fun _ e h => by
  cases e
  exact ⟨encNONE_lt _ y (by decide), decode_of (opcodeOf_encNONE _ y (by decide)) rfl (decNONE_encNONE _ _ y (by decide)) h⟩
theorem RoundTrip.call (y : Bool) (o : BitVec 23) : RoundTrip.Statement (.call y o) := fun _ e h => by
  cases e
  exact ⟨encJ_lt _ y o (by decide), decode_of (opcodeOf_encJ _ y o (by decide)) rfl (decJ_encJ _ _ y o (by decide)) h⟩
theorem RoundTrip.callx (y : Bool) (a : VReg) : RoundTrip.Statement (.callx y a) := fun _ e h => by
  cases e
  exact ⟨encVA_lt _ y a (by decide), decode_of (opcodeOf_encVA _ y a (by decide)) rfl (decVA_encVA _ _ y a (by decide)) h⟩
theorem RoundTrip.ret (y : Bool) : RoundTrip.Statement (.ret y) := fun _ e h => by
  cases e
  exact ⟨encNONE_lt _ y (by decide), decode_of (opcodeOf_encNONE _ y (by decide)) rfl (decNONE_encNONE _ _ y (by decide)) h⟩
theorem RoundTrip.frame (y : Bool) (nin : Fin 32) (nloc : Fin 64) (nout : Fin 32) : RoundTrip.Statement (.frame y nin nloc nout) := fun _ e h => by
  cases e
  exact ⟨encFRAME_lt _ y nin nloc nout (by decide), decode_of (opcodeOf_encFRAME _ y nin nloc nout (by decide)) rfl (decFRAME_encFRAME _ _ y nin nloc nout (by decide)) h⟩
theorem RoundTrip.wflush (y : Bool) : RoundTrip.Statement (.wflush y) := fun _ e h => by
  cases e
  exact ⟨encNONE_lt _ y (by decide), decode_of (opcodeOf_encNONE _ y (by decide)) rfl (decNONE_encNONE _ _ y (by decide)) h⟩
theorem RoundTrip.rdlink (y : Bool) (d : SReg) : RoundTrip.Statement (.rdlink y d) := fun _ e h => by
  cases e
  exact ⟨encSD_lt _ y d (by decide), decode_of (opcodeOf_encSD _ y d (by decide)) rfl (decSD_encSD _ _ y d (by decide)) h⟩
theorem RoundTrip.wrlink (y : Bool) (a : SReg) : RoundTrip.Statement (.wrlink y a) := fun _ e h => by
  cases e
  exact ⟨encSA_lt _ y a (by decide), decode_of (opcodeOf_encSA _ y a (by decide)) rfl (decSA_encSA _ _ y a (by decide)) h⟩
theorem RoundTrip.trap (y : Bool) (i : BitVec 16) : RoundTrip.Statement (.trap y i) := fun _ e h => by
  cases e
  exact ⟨encI_lt _ y i (by decide), decode_of (opcodeOf_encI _ y i (by decide)) rfl (decI_encI _ _ y i (by decide)) h⟩
theorem RoundTrip.tret (y : Bool) : RoundTrip.Statement (.tret y) := fun _ e h => by
  cases e
  exact ⟨encNONE_lt _ y (by decide), decode_of (opcodeOf_encNONE _ y (by decide)) rfl (decNONE_encNONE _ _ y (by decide)) h⟩
theorem RoundTrip.region (y : Bool) : RoundTrip.Statement (.region y) := fun _ e h => by
  cases e
  exact ⟨encNONE_lt _ y (by decide), decode_of (opcodeOf_encNONE _ y (by decide)) rfl (decNONE_encNONE _ _ y (by decide)) h⟩
theorem RoundTrip.regend (y : Bool) : RoundTrip.Statement (.regend y) := fun _ e h => by
  cases e
  exact ⟨encNONE_lt _ y (by decide), decode_of (opcodeOf_encNONE _ y (by decide)) rfl (decNONE_encNONE _ _ y (by decide)) h⟩
theorem RoundTrip.bar (y : Bool) (n : Fin 16) : RoundTrip.Statement (.bar y n) := fun _ e h => by
  cases e
  exact ⟨encBAR_lt _ y n (by decide), decode_of (opcodeOf_encBAR _ y n (by decide)) rfl (decBAR_encBAR _ _ y n (by decide)) h⟩
theorem RoundTrip.bararv (y : Bool) (n : Fin 16) : RoundTrip.Statement (.bararv y n) := fun _ e h => by
  cases e
  exact ⟨encBAR_lt _ y n (by decide), decode_of (opcodeOf_encBAR _ y n (by decide)) rfl (decBAR_encBAR _ _ y n (by decide)) h⟩
theorem RoundTrip.barwt (y : Bool) (n : Fin 16) : RoundTrip.Statement (.barwt y n) := fun _ e h => by
  cases e
  exact ⟨encBAR_lt _ y n (by decide), decode_of (opcodeOf_encBAR _ y n (by decide)) rfl (decBAR_encBAR _ _ y n (by decide)) h⟩
theorem RoundTrip.tmset (y : Bool) (a : SReg) : RoundTrip.Statement (.tmset y a) := fun _ e h => by
  cases e
  exact ⟨encSA_lt _ y a (by decide), decode_of (opcodeOf_encSA _ y a (by decide)) rfl (decSA_encSA _ _ y a (by decide)) h⟩
theorem RoundTrip.ld (y : Bool) (d : VReg) (a : VReg) (s : SReg) (z : Fin 8) : RoundTrip.Statement (.ld y d a s z) := fun _ e h => by
  cases e
  exact ⟨encMEM_lt _ y d a s z (by decide), decode_of (opcodeOf_encMEM _ y d a s z (by decide)) rfl (decMEM_encMEM _ _ y d a s z (by decide)) h⟩
theorem RoundTrip.st (y : Bool) (d : VReg) (a : VReg) (s : SReg) (z : Fin 8) : RoundTrip.Statement (.st y d a s z) := fun _ e h => by
  cases e
  exact ⟨encMEM_lt _ y d a s z (by decide), decode_of (opcodeOf_encMEM _ y d a s z (by decide)) rfl (decMEM_encMEM _ _ y d a s z (by decide)) h⟩
theorem RoundTrip.lds (y : Bool) (d : VReg) (a : VReg) (s : SReg) (z : Fin 8) : RoundTrip.Statement (.lds y d a s z) := fun _ e h => by
  cases e
  exact ⟨encMEM_lt _ y d a s z (by decide), decode_of (opcodeOf_encMEM _ y d a s z (by decide)) rfl (decMEM_encMEM _ _ y d a s z (by decide)) h⟩
theorem RoundTrip.sts (y : Bool) (d : VReg) (a : VReg) (s : SReg) (z : Fin 8) : RoundTrip.Statement (.sts y d a s z) := fun _ e h => by
  cases e
  exact ⟨encMEM_lt _ y d a s z (by decide), decode_of (opcodeOf_encMEM _ y d a s z (by decide)) rfl (decMEM_encMEM _ _ y d a s z (by decide)) h⟩
theorem RoundTrip.ldu (y : Bool) (d : SReg) (a : SReg) (z : Fin 8) (i : BitVec 6) : RoundTrip.Statement (.ldu y d a z i) := fun _ e h => by
  cases e
  exact ⟨encLDU_lt _ y d a z i (by decide), decode_of (opcodeOf_encLDU _ y d a z i (by decide)) rfl (decLDU_encLDU _ _ y d a z i (by decide)) h⟩
theorem RoundTrip.stu (y : Bool) (d : SReg) (a : SReg) (z : Fin 8) (i : BitVec 6) : RoundTrip.Statement (.stu y d a z i) := fun _ e h => by
  cases e
  exact ⟨encLDU_lt _ y d a z i (by decide), decode_of (opcodeOf_encLDU _ y d a z i (by decide)) rfl (decLDU_encLDU _ _ y d a z i (by decide)) h⟩
theorem RoundTrip.atom (y : Bool) (d : VReg) (a : VReg) (s : SReg) (ord : Fin 4) (wide : Bool) : RoundTrip.Statement (.atom y d a s ord wide) := fun _ e h => by
  cases e
  exact ⟨encATOM_lt _ y d a s ord wide (by decide), decode_of (opcodeOf_encATOM _ y d a s ord wide (by decide)) rfl (decATOM_encATOM _ _ y d a s ord wide (by decide)) h⟩
theorem RoundTrip.atoms (y : Bool) (d : VReg) (a : VReg) (s : SReg) (ord : Fin 4) (wide : Bool) : RoundTrip.Statement (.atoms y d a s ord wide) := fun _ e h => by
  cases e
  exact ⟨encATOM_lt _ y d a s ord wide (by decide), decode_of (opcodeOf_encATOM _ y d a s ord wide (by decide)) rfl (decATOM_encATOM _ _ y d a s ord wide (by decide)) h⟩
theorem RoundTrip.lda (y : Bool) (d : VReg) (a : VReg) (s : SReg) (z : Fin 8) : RoundTrip.Statement (.lda y d a s z) := fun _ e h => by
  cases e
  exact ⟨encMEM_lt _ y d a s z (by decide), decode_of (opcodeOf_encMEM _ y d a s z (by decide)) rfl (decMEM_encMEM _ _ y d a s z (by decide)) h⟩
theorem RoundTrip.strel (y : Bool) (d : VReg) (a : VReg) (s : SReg) (z : Fin 8) : RoundTrip.Statement (.strel y d a s z) := fun _ e h => by
  cases e
  exact ⟨encMEM_lt _ y d a s z (by decide), decode_of (opcodeOf_encMEM _ y d a s z (by decide)) rfl (decMEM_encMEM _ _ y d a s z (by decide)) h⟩
theorem RoundTrip.fence (y : Bool) (z : Fin 8) : RoundTrip.Statement (.fence y z) := fun _ e h => by
  cases e
  exact ⟨encFENCE_lt _ y z (by decide), decode_of (opcodeOf_encFENCE _ y z (by decide)) rfl (decFENCE_encFENCE _ _ y z (by decide)) h⟩
theorem RoundTrip.cflush (y : Bool) (a : VReg) (s : SReg) : RoundTrip.Statement (.cflush y a s) := fun _ e h => by
  cases e
  exact ⟨encCF_lt _ y a s (by decide), decode_of (opcodeOf_encCF _ y a s (by decide)) rfl (decCF_encCF _ _ y a s (by decide)) h⟩
theorem RoundTrip.cinv (y : Bool) (a : VReg) (s : SReg) : RoundTrip.Statement (.cinv y a s) := fun _ e h => by
  cases e
  exact ⟨encCF_lt _ y a s (by decide), decode_of (opcodeOf_encCF _ y a s (by decide)) rfl (decCF_encCF _ _ y a s (by decide)) h⟩
theorem RoundTrip.pref (y : Bool) (a : VReg) (s : SReg) (z : Fin 8) : RoundTrip.Statement (.pref y a s z) := fun _ e h => by
  cases e
  exact ⟨encPREF_lt _ y a s z (by decide), decode_of (opcodeOf_encPREF _ y a s z (by decide)) rfl (decPREF_encPREF _ _ y a s z (by decide)) h⟩
theorem RoundTrip.srcfg (y : Bool) (d : SReg) : RoundTrip.Statement (.srcfg y d) := fun _ e h => by
  cases e
  exact ⟨encF_lt _ y d (by decide), decode_of (opcodeOf_encF _ y d (by decide)) rfl (decF_encF _ _ y d (by decide)) h⟩
theorem RoundTrip.spcfg (y : Bool) (d : SReg) : RoundTrip.Statement (.spcfg y d) := fun _ e h => by
  cases e
  exact ⟨encF_lt _ y d (by decide), decode_of (opcodeOf_encF _ y d (by decide)) rfl (decF_encF _ _ y d (by decide)) h⟩
theorem RoundTrip.haar (y : Bool) (d : VReg) (a : VReg) (s : SReg) : RoundTrip.Statement (.haar y d a s) := fun _ e h => by
  cases e
  exact ⟨encTILE_lt _ y d a s (by decide), decode_of (opcodeOf_encTILE _ y d a s (by decide)) rfl (decTILE_encTILE _ _ y d a s (by decide)) h⟩
theorem RoundTrip.ihaar (y : Bool) (d : VReg) (a : VReg) (s : SReg) : RoundTrip.Statement (.ihaar y d a s) := fun _ e h => by
  cases e
  exact ⟨encTILE_lt _ y d a s (by decide), decode_of (opcodeOf_encTILE _ y d a s (by decide)) rfl (decTILE_encTILE _ _ y d a s (by decide)) h⟩
theorem RoundTrip.thr (y : Bool) (d : VReg) (a : VReg) (th : ThReg) : RoundTrip.Statement (.thr y d a th) := fun _ e h => by
  cases e
  exact ⟨encTHR_lt _ y d a th (by decide), decode_of (opcodeOf_encTHR _ y d a th (by decide)) rfl (decTHR_encTHR _ _ y d a th (by decide)) h⟩
theorem RoundTrip.tst (y : Bool) (d : VReg) (a : SReg) (s : SReg) (th : Fin 8) : RoundTrip.Statement (.tst y d a s th) := fun _ e h => by
  cases e
  exact ⟨encTST_lt _ y d a s th (by decide), decode_of (opcodeOf_encTST _ y d a s th (by decide)) rfl (decTST_encTST _ _ y d a s th (by decide)) h⟩
theorem RoundTrip.tld (y : Bool) (d : VReg) (a : SReg) (s : SReg) : RoundTrip.Statement (.tld y d a s) := fun _ e h => by
  cases e
  exact ⟨encTLD_lt _ y d a s (by decide), decode_of (opcodeOf_encTLD _ y d a s (by decide)) rfl (decTLD_encTLD _ _ y d a s (by decide)) h⟩
theorem RoundTrip.tldq (y : Bool) (a : SReg) (s : SReg) : RoundTrip.Statement (.tldq y a s) := fun _ e h => by
  cases e
  exact ⟨encTLDQ_lt _ y a s (by decide), decode_of (opcodeOf_encTLDQ _ y a s (by decide)) rfl (decTLDQ_encTLDQ _ _ y a s (by decide)) h⟩
theorem RoundTrip.tbias (y : Bool) (d : VReg) (a : VReg) (s : SReg) : RoundTrip.Statement (.tbias y d a s) := fun _ e h => by
  cases e
  exact ⟨encTILE_lt _ y d a s (by decide), decode_of (opcodeOf_encTILE _ y d a s (by decide)) rfl (decTILE_encTILE _ _ y d a s (by decide)) h⟩
theorem RoundTrip.trecon (y : Bool) (d : VReg) (a : VReg) (s : SReg) : RoundTrip.Statement (.trecon y d a s) := fun _ e h => by
  cases e
  exact ⟨encTILE_lt _ y d a s (by decide), decode_of (opcodeOf_encTILE _ y d a s (by decide)) rfl (decTILE_encTILE _ _ y d a s (by decide)) h⟩
theorem RoundTrip.tact (y : Bool) (d : VReg) (a : VReg) (s : SReg) (fn : Fin 8) : RoundTrip.Statement (.tact y d a s fn) := fun _ e h => by
  cases e
  exact ⟨encTACT_lt _ y d a s fn (by decide), decode_of (opcodeOf_encTACT _ y d a s fn (by decide)) rfl (decTACT_encTACT _ _ y d a s fn (by decide)) h⟩
theorem RoundTrip.mma (y : Bool) (d : AccReg) (a : VReg) (b : VReg) : RoundTrip.Statement (.mma y d a b) := fun _ e h => by
  cases e
  exact ⟨encAVV_lt _ y d a b (by decide), decode_of (opcodeOf_encAVV _ y d a b (by decide)) rfl (decAVV_encAVV _ _ y d a b (by decide)) h⟩
theorem RoundTrip.mmax (y : Bool) (d : AccReg) (a : VReg) (b : VReg) : RoundTrip.Statement (.mmax y d a b) := fun _ e h => by
  cases e
  exact ⟨encAVV_lt _ y d a b (by decide), decode_of (opcodeOf_encAVV _ y d a b (by decide)) rfl (decAVV_encAVV _ _ y d a b (by decide)) h⟩
theorem RoundTrip.mmaq (y : Bool) (d : AccReg) (b : VReg) : RoundTrip.Statement (.mmaq y d b) := fun _ e h => by
  cases e
  exact ⟨encAV_lt _ y d b (by decide), decode_of (opcodeOf_encAV _ y d b (by decide)) rfl (decAV_encAV _ _ y d b (by decide)) h⟩
theorem RoundTrip.mzero (y : Bool) (d : AccReg) (a : SReg) : RoundTrip.Statement (.mzero y d a) := fun _ e h => by
  cases e
  exact ⟨encAS_lt _ y d a (by decide), decode_of (opcodeOf_encAS _ y d a (by decide)) rfl (decAS_encAS _ _ y d a (by decide)) h⟩
theorem RoundTrip.mrda (y : Bool) (d : VReg) (a : AccReg) (b : SReg) : RoundTrip.Statement (.mrda y d a b) := fun _ e h => by
  cases e
  exact ⟨encVAS_lt _ y d a b (by decide), decode_of (opcodeOf_encVAS _ y d a b (by decide)) rfl (decVAS_encVAS _ _ y d a b (by decide)) h⟩
theorem RoundTrip.mwra (y : Bool) (d : AccReg) (a : VReg) (b : SReg) : RoundTrip.Statement (.mwra y d a b) := fun _ e h => by
  cases e
  exact ⟨encAVS_lt _ y d a b (by decide), decode_of (opcodeOf_encAVS _ y d a b (by decide)) rfl (decAVS_encAVS _ _ y d a b (by decide)) h⟩
theorem RoundTrip.mlayout (y : Bool) (a : SReg) : RoundTrip.Statement (.mlayout y a) := fun _ e h => by
  cases e
  exact ⟨encSA_lt _ y a (by decide), decode_of (opcodeOf_encSA _ y a (by decide)) rfl (decSA_encSA _ _ y a (by decide)) h⟩
theorem RoundTrip.mldb (y : Bool) (d : VReg) (s : SReg) : RoundTrip.Statement (.mldb y d s) := fun _ e h => by
  cases e
  exact ⟨encMLDB_lt _ y d s (by decide), decode_of (opcodeOf_encMLDB _ y d s (by decide)) rfl (decMLDB_encMLDB _ _ y d s (by decide)) h⟩
theorem RoundTrip.cpy (y : Bool) (d : SReg) (a : SReg) (s : SReg) : RoundTrip.Statement (.cpy y d a s) := fun _ e h => by
  cases e
  exact ⟨encCPY_lt _ y d a s (by decide), decode_of (opcodeOf_encCPY _ y d a s (by decide)) rfl (decCPY_encCPY _ _ y d a s (by decide)) h⟩
theorem RoundTrip.cpyg (y : Bool) (d : SReg) (a : VReg) (s : SReg) (q : Fin 8) : RoundTrip.Statement (.cpyg y d a s q) := fun _ e h => by
  cases e
  exact ⟨encCPYG_lt _ y d a s q (by decide), decode_of (opcodeOf_encCPYG _ y d a s q (by decide)) rfl (decCPYG_encCPYG _ _ y d a s q (by decide)) h⟩
theorem RoundTrip.cpys (y : Bool) (d : SReg) (a : VReg) (s : SReg) (q : Fin 8) : RoundTrip.Statement (.cpys y d a s q) := fun _ e h => by
  cases e
  exact ⟨encCPYG_lt _ y d a s q (by decide), decode_of (opcodeOf_encCPYG _ y d a s q (by decide)) rfl (decCPYG_encCPYG _ _ y d a s q (by decide)) h⟩
theorem RoundTrip.cpyb (y : Bool) (d : SReg) (a : SReg) (s : SReg) (q : Fin 8) : RoundTrip.Statement (.cpyb y d a s q) := fun _ e h => by
  cases e
  exact ⟨encCPYB_lt _ y d a s q (by decide), decode_of (opcodeOf_encCPYB _ y d a s q (by decide)) rfl (decCPYB_encCPYB _ _ y d a s q (by decide)) h⟩
theorem RoundTrip.cpym (y : Bool) (d : SReg) (a : SReg) (s : SReg) (q : Fin 8) : RoundTrip.Statement (.cpym y d a s q) := fun _ e h => by
  cases e
  exact ⟨encCPYB_lt _ y d a s q (by decide), decode_of (opcodeOf_encCPYB _ y d a s q (by decide)) rfl (decCPYB_encCPYB _ _ y d a s q (by decide)) h⟩
theorem RoundTrip.batch (y : Bool) (d : SReg) : RoundTrip.Statement (.batch y d) := fun _ e h => by
  cases e
  exact ⟨encSD_lt _ y d (by decide), decode_of (opcodeOf_encSD _ y d (by decide)) rfl (decSD_encSD _ _ y d (by decide)) h⟩
theorem RoundTrip.bwait (y : Bool) (a : SReg) : RoundTrip.Statement (.bwait y a) := fun _ e h => by
  cases e
  exact ⟨encSA_lt _ y a (by decide), decode_of (opcodeOf_encSA _ y a (by decide)) rfl (decSA_encSA _ _ y a (by decide)) h⟩
theorem RoundTrip.rnginit (y : Bool) (a : SReg) : RoundTrip.Statement (.rnginit y a) := fun _ e h => by
  cases e
  exact ⟨encSA_lt _ y a (by decide), decode_of (opcodeOf_encSA _ y a (by decide)) rfl (decSA_encSA _ _ y a (by decide)) h⟩
theorem RoundTrip.rwait (y : Bool) (a : SReg) : RoundTrip.Statement (.rwait y a) := fun _ e h => by
  cases e
  exact ⟨encSA_lt _ y a (by decide), decode_of (opcodeOf_encSA _ y a (by decide)) rfl (decSA_encSA _ _ y a (by decide)) h⟩
theorem RoundTrip.rrel (y : Bool) (a : SReg) : RoundTrip.Statement (.rrel y a) := fun _ e h => by
  cases e
  exact ⟨encSA_lt _ y a (by decide), decode_of (opcodeOf_encSA _ y a (by decide)) rfl (decSA_encSA _ _ y a (by decide)) h⟩
theorem RoundTrip.rarrv (y : Bool) (a : SReg) (b : SReg) : RoundTrip.Statement (.rarrv y a b) := fun _ e h => by
  cases e
  exact ⟨encSAB_lt _ y a b (by decide), decode_of (opcodeOf_encSAB _ y a b (by decide)) rfl (decSAB_encSAB _ _ y a b (by decide)) h⟩
theorem RoundTrip.qpush (y : Bool) (q : Fin 8) (a : VReg) : RoundTrip.Statement (.qpush y q a) := fun _ e h => by
  cases e
  exact ⟨encQPUSH_lt _ y q a (by decide), decode_of (opcodeOf_encQPUSH _ y q a (by decide)) rfl (decQPUSH_encQPUSH _ _ y q a (by decide)) h⟩
theorem RoundTrip.qpop (y : Bool) (d : VReg) (q : Fin 8) : RoundTrip.Statement (.qpop y d q) := fun _ e h => by
  cases e
  exact ⟨encQPOP_lt _ y d q (by decide), decode_of (opcodeOf_encQPOP _ y d q (by decide)) rfl (decQPOP_encQPOP _ _ y d q (by decide)) h⟩
theorem RoundTrip.qpeek (y : Bool) (d : SReg) (q : Fin 8) : RoundTrip.Statement (.qpeek y d q) := fun _ e h => by
  cases e
  exact ⟨encQS_lt _ y d q (by decide), decode_of (opcodeOf_encQS _ y d q (by decide)) rfl (decQS_encQS _ _ y d q (by decide)) h⟩
theorem RoundTrip.qcnt (y : Bool) (d : SReg) (q : Fin 8) : RoundTrip.Statement (.qcnt y d q) := fun _ e h => by
  cases e
  exact ⟨encQS_lt _ y d q (by decide), decode_of (opcodeOf_encQS _ y d q (by decide)) rfl (decQS_encQS _ _ y d q (by decide)) h⟩
theorem RoundTrip.bscn (y : Bool) (a : SReg) : RoundTrip.Statement (.bscn y a) := fun _ e h => by
  cases e
  exact ⟨encSA_lt _ y a (by decide), decode_of (opcodeOf_encSA _ y a (by decide)) rfl (decSA_encSA _ _ y a (by decide)) h⟩
theorem RoundTrip.bcfg (y : Bool) (a : SReg) : RoundTrip.Statement (.bcfg y a) := fun _ e h => by
  cases e
  exact ⟨encSA_lt _ y a (by decide), decode_of (opcodeOf_encSA _ y a (by decide)) rfl (decSA_encSA _ _ y a (by decide)) h⟩
theorem RoundTrip.apnd (y : Bool) (a : VReg) (b : SReg) : RoundTrip.Statement (.apnd y a b) := fun _ e h => by
  cases e
  exact ⟨encVAB_lt _ y a b (by decide), decode_of (opcodeOf_encVAB _ y a b (by decide)) rfl (decVAB_encVAB _ _ y a b (by decide)) h⟩
theorem RoundTrip.tdone (y : Bool) (a : SReg) : RoundTrip.Statement (.tdone y a) := fun _ e h => by
  cases e
  exact ⟨encSA_lt _ y a (by decide), decode_of (opcodeOf_encSA _ y a (by decide)) rfl (decSA_encSA _ _ y a (by decide)) h⟩
theorem RoundTrip.launch (y : Bool) (a : SReg) : RoundTrip.Statement (.launch y a) := fun _ e h => by
  cases e
  exact ⟨encSA_lt _ y a (by decide), decode_of (opcodeOf_encSA _ y a (by decide)) rfl (decSA_encSA _ _ y a (by decide)) h⟩
theorem RoundTrip.wlcfg (y : Bool) (a : SReg) : RoundTrip.Statement (.wlcfg y a) := fun _ e h => by
  cases e
  exact ⟨encSA_lt _ y a (by decide), decode_of (opcodeOf_encSA _ y a (by decide)) rfl (decSA_encSA _ _ y a (by decide)) h⟩
theorem RoundTrip.wquiet (y : Bool) (d : SReg) : RoundTrip.Statement (.wquiet y d) := fun _ e h => by
  cases e
  exact ⟨encSDA_lt _ y d (by decide), decode_of (opcodeOf_encSDA _ y d (by decide)) rfl (decSDA_encSDA _ _ y d (by decide)) h⟩
theorem RoundTrip.variableResultReturn (wv idx : Nat) : RoundTrip.Statement (.variableResultReturn wv idx) := fun _ e => nomatch e
theorem RoundTrip.slotGrant (q slot : Nat) : RoundTrip.Statement (.slotGrant q slot) := fun _ e => nomatch e
theorem RoundTrip.holdCountDisplace (wv : Nat) : RoundTrip.Statement (.holdCountDisplace wv) := fun _ e => nomatch e
theorem RoundTrip.classDisplace (wv : Nat) : RoundTrip.Statement (.classDisplace wv) := fun _ e => nomatch e
theorem RoundTrip.spinQuantumExpiry (wv : Nat) : RoundTrip.Statement (.spinQuantumExpiry wv) := fun _ e => nomatch e
theorem RoundTrip.mergeWaitExpiry (wv : Nat) : RoundTrip.Statement (.mergeWaitExpiry wv) := fun _ e => nomatch e
theorem RoundTrip.leftoverRespawn (wv sp : Nat) : RoundTrip.Statement (.leftoverRespawn wv sp) := fun _ e => nomatch e
theorem RoundTrip.timerFire (wv : Nat) : RoundTrip.Statement (.timerFire wv) := fun _ e => nomatch e
theorem RoundTrip.tableWalk (core island asid va kind : Nat) : RoundTrip.Statement (.tableWalk core island asid va kind) := fun _ e => nomatch e
theorem RoundTrip.replicatedCommit (idx : Nat) : RoundTrip.Statement (.replicatedCommit idx) := fun _ e => nomatch e
theorem RoundTrip.replicatedStall (idx : Nat) : RoundTrip.Statement (.replicatedStall idx) := fun _ e => nomatch e
theorem RoundTrip.poisonedWrite (line : Nat) : RoundTrip.Statement (.poisonedWrite line) := fun _ e => nomatch e
theorem RoundTrip.impreciseEvent (wv idx : Nat) : RoundTrip.Statement (.impreciseEvent wv idx) := fun _ e => nomatch e
theorem RoundTrip.windowSpill (wv : Nat) : RoundTrip.Statement (.windowSpill wv) := fun _ e => nomatch e
theorem RoundTrip.windowRefill (wv : Nat) : RoundTrip.Statement (.windowRefill wv) := fun _ e => nomatch e
theorem RoundTrip.windowRefillAhead (wv : Nat) : RoundTrip.Statement (.windowRefillAhead wv) := fun _ e => nomatch e
theorem RoundTrip.copyCommandStart (core idx : Nat) : RoundTrip.Statement (.copyCommandStart core idx) := fun _ e => nomatch e
theorem RoundTrip.copyPiece (core idx piece : Nat) : RoundTrip.Statement (.copyPiece core idx piece) := fun _ e => nomatch e
theorem RoundTrip.collectiveCopyStart (g key : Nat) : RoundTrip.Statement (.collectiveCopyStart g key) := fun _ e => nomatch e
theorem RoundTrip.cpymHop (core idx piece : Nat) : RoundTrip.Statement (.cpymHop core idx piece) := fun _ e => nomatch e
theorem RoundTrip.beamAccept (g : Nat) : RoundTrip.Statement (.beamAccept g) := fun _ e => nomatch e
theorem RoundTrip.beamTraversalStep (g idx : Nat) : RoundTrip.Statement (.beamTraversalStep g idx) := fun _ e => nomatch e
theorem RoundTrip.rayEmit (g idx : Nat) : RoundTrip.Statement (.rayEmit g idx) := fun _ e => nomatch e
theorem RoundTrip.fragmentEmit (g idx : Nat) : RoundTrip.Statement (.fragmentEmit g idx) := fun _ e => nomatch e
theorem RoundTrip.beamRetire (g beam : Nat) : RoundTrip.Statement (.beamRetire g beam) := fun _ e => nomatch e
theorem RoundTrip.tldqRowPush (core : Nat) : RoundTrip.Statement (.tldqRowPush core) := fun _ e => nomatch e
theorem RoundTrip.tileInstructionComplete (core : Nat) : RoundTrip.Statement (.tileInstructionComplete core) := fun _ e => nomatch e
theorem RoundTrip.matrixCommandExecute (q : Nat) : RoundTrip.Statement (.matrixCommandExecute q) := fun _ e => nomatch e
theorem RoundTrip.mmaqPass (q : Nat) : RoundTrip.Statement (.mmaqPass q) := fun _ e => nomatch e
theorem RoundTrip.appendRecord (wv : Nat) : RoundTrip.Statement (.appendRecord wv) := fun _ e => nomatch e
theorem RoundTrip.batchTimerExpiry (island graph node : Nat) : RoundTrip.Statement (.batchTimerExpiry island graph node) := fun _ e => nomatch e
theorem RoundTrip.successorAppend (island graph : Nat) : RoundTrip.Statement (.successorAppend island graph) := fun _ e => nomatch e
theorem RoundTrip.taskControlBlockWrite (island : Nat) : RoundTrip.Statement (.taskControlBlockWrite island) := fun _ e => nomatch e
theorem RoundTrip.launchDoorbellWrite (island cls tail : Nat) : RoundTrip.Statement (.launchDoorbellWrite island cls tail) := fun _ e => nomatch e
theorem RoundTrip.launchEntryRead (island cls : Nat) : RoundTrip.Statement (.launchEntryRead island cls) := fun _ e => nomatch e
theorem RoundTrip.groupResidency (what : Placing) (core : Nat) : RoundTrip.Statement (.groupResidency what core) := fun _ e => nomatch e
theorem RoundTrip.atollGroupMove (g core : Nat) : RoundTrip.Statement (.atollGroupMove g core) := fun _ e => nomatch e
theorem RoundTrip.realTimeRelease (launch : Nat) : RoundTrip.Statement (.realTimeRelease launch) := fun _ e => nomatch e
theorem RoundTrip.deadlineMiss (launch : Nat) : RoundTrip.Statement (.deadlineMiss launch) := fun _ e => nomatch e
theorem RoundTrip.groupEnd (g : Nat) : RoundTrip.Statement (.groupEnd g) := fun _ e => nomatch e
theorem RoundTrip.clusterReclaim (cluster : Nat) : RoundTrip.Statement (.clusterReclaim cluster) := fun _ e => nomatch e
theorem RoundTrip.reclaimSwap (cluster : Nat) : RoundTrip.Statement (.reclaimSwap cluster) := fun _ e => nomatch e
theorem RoundTrip.reclaimForcedReset (cluster : Nat) : RoundTrip.Statement (.reclaimForcedReset cluster) := fun _ e => nomatch e
theorem RoundTrip.contextSave (cluster : Nat) : RoundTrip.Statement (.contextSave cluster) := fun _ e => nomatch e
theorem RoundTrip.contextRestore (cluster : Nat) : RoundTrip.Statement (.contextRestore cluster) := fun _ e => nomatch e
theorem RoundTrip.faultresResolved (island slot : Nat) : RoundTrip.Statement (.faultresResolved island slot) := fun _ e => nomatch e
theorem RoundTrip.faultresUnresolvable (island slot : Nat) : RoundTrip.Statement (.faultresUnresolvable island slot) := fun _ e => nomatch e
theorem RoundTrip.tlbinvPage (island va : Nat) : RoundTrip.Statement (.tlbinvPage island va) := fun _ e => nomatch e
theorem RoundTrip.tlbinvNonglobal (island : Nat) : RoundTrip.Statement (.tlbinvNonglobal island) := fun _ e => nomatch e
theorem RoundTrip.tlbinvAll (island : Nat) : RoundTrip.Statement (.tlbinvAll island) := fun _ e => nomatch e
theorem RoundTrip.tlbinvComplete (island : Nat) : RoundTrip.Statement (.tlbinvComplete island) := fun _ e => nomatch e
theorem RoundTrip.faultQueueHeadWrite (island head : Nat) : RoundTrip.Statement (.faultQueueHeadWrite island head) := fun _ e => nomatch e
theorem RoundTrip.islandTableWrite (island : Nat) (bytes : List Nat) : RoundTrip.Statement (.islandTableWrite island bytes) := fun _ e => nomatch e
theorem RoundTrip.esctWrite (island value : Nat) : RoundTrip.Statement (.esctWrite island value) := fun _ e => nomatch e
theorem RoundTrip.evqWindowRead (island : Nat) : RoundTrip.Statement (.evqWindowRead island) := fun _ e => nomatch e
theorem RoundTrip.registerWrite (addr value : Nat) : RoundTrip.Statement (.registerWrite addr value) := fun _ e => nomatch e
theorem RoundTrip.seal (island : Nat) : RoundTrip.Statement (.seal island) := fun _ e => nomatch e
theorem RoundTrip.unseal (island : Nat) : RoundTrip.Statement (.unseal island) := fun _ e => nomatch e
theorem RoundTrip.quote (island nonce : Nat) : RoundTrip.Statement (.quote island nonce) := fun _ e => nomatch e
theorem RoundTrip.cert : RoundTrip.Statement (.cert) := fun _ e => nomatch e
theorem RoundTrip.hostCxlMemAccess (addr : Nat) (acc : OutsideAccess) : RoundTrip.Statement (.hostCxlMemAccess addr acc) := fun _ e => nomatch e
theorem RoundTrip.hostSnoop (addr : Nat) (acc : OutsideAccess) : RoundTrip.Statement (.hostSnoop addr acc) := fun _ e => nomatch e
theorem RoundTrip.flitRetry (link : Nat) : RoundTrip.Statement (.flitRetry link) := fun _ e => nomatch e
theorem RoundTrip.linkDownPoison (line : Nat) : RoundTrip.Statement (.linkDownPoison line) := fun _ e => nomatch e
theorem RoundTrip.pwrctlReqRun (sideband : Bool) : RoundTrip.Statement (.pwrctlReqRun sideband) := fun _ e => nomatch e
theorem RoundTrip.pwrctlReqDoze (sideband : Bool) : RoundTrip.Statement (.pwrctlReqDoze sideband) := fun _ e => nomatch e
theorem RoundTrip.pwrctlReqWatch (sideband : Bool) : RoundTrip.Statement (.pwrctlReqWatch sideband) := fun _ e => nomatch e
theorem RoundTrip.dozeEntry : RoundTrip.Statement (.dozeEntry) := fun _ e => nomatch e
theorem RoundTrip.dozeWake : RoundTrip.Statement (.dozeWake) := fun _ e => nomatch e
theorem RoundTrip.watchEntry : RoundTrip.Statement (.watchEntry) := fun _ e => nomatch e
theorem RoundTrip.watchWake (good : Bool) (mods : Nat) : RoundTrip.Statement (.watchWake good mods) := fun _ e => nomatch e
theorem RoundTrip.powerOnBoot (good : Bool) (mods : Nat) : RoundTrip.Statement (.powerOnBoot good mods) := fun _ e => nomatch e
theorem RoundTrip.debugFreeze : RoundTrip.Statement (.debugFreeze) := fun _ e => nomatch e
theorem RoundTrip.debugUnfreeze : RoundTrip.Statement (.debugUnfreeze) := fun _ e => nomatch e
theorem RoundTrip.freezePin : RoundTrip.Statement (.freezePin) := fun _ e => nomatch e
theorem RoundTrip.illegalInstruction (word : Nat) : RoundTrip.Statement (.illegalInstruction word) := fun _ e => nomatch e
theorem RoundTrip.pushesComplete (wv : Nat) : RoundTrip.Statement (.pushesComplete wv) := fun _ e => nomatch e
theorem RoundTrip.peerDeviceAccess (addr : Nat) (acc : OutsideAccess) : RoundTrip.Statement (.peerDeviceAccess addr acc) := fun _ e => nomatch e
theorem RoundTrip.powerRemoval : RoundTrip.Statement (.powerRemoval) := fun _ e => nomatch e

end Sys2Proof.Laws
end

