-- ==== Sys2Proof/Laws/Results.lean ====
section
/-!
SUPPORT. What the shared result operations do: rows, elements, masks and scalars (R70, R84, R90, R125), and the lemmas that turn an
instruction written over `onRegs` into its result statement.
-/
namespace Sys2Proof.Machine

/-! The row writer. -/
@[simp] theorem setLanes_ctl (row : Nat) (m : Mask) (f : Nat → Lane) (n : Nat) (w : Wave) : (setLanes row m f n w).ctl = w.ctl := by
  induction n with
  | zero => rfl
  | succ n ih => simp only [setLanes]; split <;> simp [ih]
@[simp] theorem setLanes_out (row : Nat) (m : Mask) (f : Nat → Lane) (n : Nat) (w : Wave) : (setLanes row m f n w).out = w.out := by
  induction n with
  | zero => rfl
  | succ n ih => simp only [setLanes]; split <;> simp [ih]
@[simp] theorem writeRow_ctl (w : Wave) (row : Nat) (m : Mask) (f : Nat → Lane) : (writeRow w row m f).ctl = w.ctl := setLanes_ctl ..
@[simp] theorem writeRow_out (w : Wave) (row : Nat) (m : Mask) (f : Nat → Lane) : (writeRow w row m f).out = w.out := setLanes_out ..

/-- Only the values of the lanes that are written matter. -/
theorem setLanes_congr (row : Nat) (m : Mask) (f g : Nat → Lane) (n : Nat) (w : Wave)
    (h : ∀ i, i < n → mbit m i = true → f i = g i) : setLanes row m f n w = setLanes row m g n w := by
  induction n with
  | zero => rfl
  | succ n ih =>
    have ih' := ih fun i hi hm => h i (by omega) hm
    simp only [setLanes, ih']
    split
    · rw [h n (by omega) (by assumption)]
    · rfl

/-! Packed elements. -/
theorem elemsJoin_lt (w : Nat) (f : Nat → Nat) (n : Nat) : elemsJoin w f n < 2 ^ (w * n) := by
  induction n with
  | zero => simp [elemsJoin]
  | succ n ih =>
    have h1 : f n % 2 ^ w < 2 ^ w := Nat.mod_lt _ (Nat.two_pow_pos w)
    have h2 : 2 ^ (w * (n + 1)) = 2 ^ w * 2 ^ (w * n) := by rw [Nat.mul_succ, Nat.pow_add, Nat.mul_comm]
    have h3 : (f n % 2 ^ w + 1) * 2 ^ (w * n) ≤ 2 ^ w * 2 ^ (w * n) := Nat.mul_le_mul_right _ h1
    rw [elemsJoin, h2]
    rw [Nat.add_mul, Nat.one_mul] at h3
    omega
/-- R70: element e of a value that was made of elements. -/
theorem elemAt_elemsJoin (w : Nat) (f : Nat → Nat) (n e : Nat) (h : e < n) : elemAt w (elemsJoin w f n) e = f e % 2 ^ w := by
  induction n with
  | zero => omega
  | succ n ih =>
    have hlt := elemsJoin_lt w f n
    by_cases he : e = n
    · subst he
      have : (elemsJoin w f e + f e % 2 ^ w * 2 ^ (w * e)) / 2 ^ (w * e) = f e % 2 ^ w := by
        rw [Nat.add_mul_div_right _ _ (Nat.two_pow_pos _), Nat.div_eq_of_lt hlt, Nat.zero_add]
      simp [elemAt, elemsJoin, this]
    · have hen : e < n := by omega
      have hsp : 2 ^ (w * n) = 2 ^ (w * e) * (2 ^ w * 2 ^ (w * (n - e - 1))) := by
        rw [← Nat.pow_add, ← Nat.pow_add]
        congr 1
        obtain ⟨k, rfl⟩ : ∃ k, n = e + k + 1 := ⟨n - e - 1, by omega⟩
        have : e + k + 1 - e - 1 = k := by omega
        rw [this]
        simp only [Nat.mul_add, Nat.mul_one]
        omega
      have : (elemsJoin w f n + f n % 2 ^ w * 2 ^ (w * n)) / 2 ^ (w * e) =
          elemsJoin w f n / 2 ^ (w * e) + 2 ^ w * (f n % 2 ^ w * 2 ^ (w * (n - e - 1))) := by
        have hx : f n % 2 ^ w * (2 ^ (w * e) * (2 ^ w * 2 ^ (w * (n - e - 1)))) =
            (2 ^ w * (f n % 2 ^ w * 2 ^ (w * (n - e - 1)))) * 2 ^ (w * e) := by
          simp only [Nat.mul_left_comm, Nat.mul_comm]
        rw [hsp, hx]
        exact Nat.add_mul_div_right _ _ (Nat.two_pow_pos _)
      have ih' := ih hen
      simp only [elemAt] at ih' ⊢
      rw [elemsJoin, this, Nat.add_mul_mod_self_left, ih']

/-! Unions of flags. -/
@[simp] theorem flags_zero_getLsbD (b : Nat) : (0 : Flags).getLsbD b = false := by
  simp
theorem foldl_or_getLsbD {α : Type} (g : α → Flags) (l : List α) (z : Flags) (b : Nat) :
    (l.foldl (fun a x => a ||| g x) z).getLsbD b = true ↔ z.getLsbD b = true ∨ ∃ x ∈ l, (g x).getLsbD b = true := by
  induction l generalizing z with
  | nil => simp
  | cons x t ih => simp [ih, or_assoc]
theorem mem_maskList {m : Mask} {i : Nat} : i ∈ maskList m ↔ mbit m i = true := by
  have : mbit m i = true → i < 128 := fun h => BitVec.lt_of_getLsbD h
  simp only [maskList, List.mem_filter, List.mem_range]
  exact ⟨fun h => h.2, fun h => ⟨this h, h⟩⟩

theorem maskUpTo_bit (p : Nat → Bool) (n i : Nat) (hn : n ≤ 128) : mbit (maskUpTo p n) i = (decide (i < n) && p i) := by
  induction n with
  | zero => simp [maskUpTo, mbit]
  | succ n ih =>
    have ih' := ih (by omega)
    simp only [maskUpTo]
    have hb : mbit (maskUpTo p n ||| (1#128 <<< n)) i = (mbit (maskUpTo p n) i || decide (i = n)) := by
      simp only [mbit, BitVec.getLsbD_or, BitVec.getLsbD_shiftLeft, BitVec.getLsbD_one]
      congr 1
      by_cases e : i = n
      · subst e; simp; omega
      · by_cases hi : i < 128 <;> by_cases hlt : i < n <;> simp [hi, hlt, e] <;> omega
    split
    · rename_i hp
      rw [hb, ih']
      by_cases e : i = n
      · subst e; simp [hp]
      · by_cases hlt : i < n
        · simp [hlt, e, show i < n + 1 by omega]
        · simp [hlt, e, show ¬ i < n + 1 by omega]
    · rename_i hp
      rw [ih']
      by_cases e : i = n
      · subst e; simp [hp]
      · by_cases hlt : i < n
        · simp [hlt, show i < n + 1 by omega]
        · simp [hlt, show ¬ i < n + 1 by omega]
theorem maskOf_bit (p : Nat → Bool) (i : Nat) (h : i < 128) : mbit (maskOf p) i = p i := by simp [maskOf, maskUpTo_bit, h]

/-! From the text of an instruction to its result. -/
theorem completesWith_of {i : Instr} {y : Bool} {u : Usage} {f : Ctx → Wave → Wave} (h : ∀ s, exec i s = issue s y u (onRegs f))
    (hc : u.collective = false) (hctl : ∀ c w, (f c w).ctl = w.ctl) (hout : ∀ c w, (f c w).out = w.out) : CompletesWith i u f := by
  intro s wv sp hr
  rw [h, issue_onRegs hr hc (hctl _) (hout _)]
  rfl
/-- The same for a result that is read from the view of the wave, which is the wave itself. -/
theorem completesWith_congr {i : Instr} {u : Usage} {f g : Ctx → Wave → Wave} (h : CompletesWith i u f)
    (hg : ∀ s wv sp, ready s wv sp u = true →
      f (seen s wv sp) (openIssue (waveAt s wv) sp u.closes) = g (seen s wv sp) (openIssue (waveAt s wv) sp u.closes)) :
    CompletesWith i u g := by
  intro s wv sp hr
  rw [h s wv sp hr, ends, ends, hg s wv sp hr]

theorem writesLanes_of {i : Instr} {y : Bool} {u : Usage} {d : VReg} {m : Ctx → Mask} {f : Ctx → Nat → Lane}
    (h : ∀ s, exec i s = issue s y u (onRegs fun c w => writeVec c d (m c) (f c) w)) (hc : u.collective = false) :
    WritesLanes i u d m f :=
  completesWith_of h hc (fun _ _ => writeRow_ctl ..) (fun _ _ => writeRow_out ..)

theorem writesScalar_of {i : Instr} {y : Bool} {u : Usage} {d : SReg} {f : Ctx → Scalar}
    (h : ∀ s, exec i s = issue s y u (onRegs fun c w => sset w d.val (f c))) (hc : u.collective = false) : WritesScalar i u d f :=
  completesWith_of h hc (fun _ w => sset_ctl w d.val _) (fun _ w => sset_out w d.val _)

/-- R70, R90: packed elements, in the lanes of the write mask, with their flags. -/
theorem writesElements_of {i : Instr} {y : Bool} {u : Usage} {d : VReg} {n : Lane → Nat} {g f : Ctx → Nat → Nat → Nat × Flags}
    (hn : ∀ m, 0 < n m ∧ 32 / n m * n m = 32) (hc : u.collective = false)
    (h : ∀ s, exec i s = issue s y u (onRegs fun c w =>
      writeFlagged c d (fun l => packElems (n c.split.mode) (32 / n c.split.mode) (g c l)) w))
    (hf : ∀ c l e, (g c l e).2 = (f c l e).2 ∧ (g c l e).1 % 2 ^ n c.split.mode = (f c l e).1 % 2 ^ n c.split.mode) :
    WritesElements i u d (fun c => c.wm) n f := by
  intro s wv sp hr
  let c := seen s wv sp
  let k := n c.split.mode
  have hk := hn c.split.mode
  refine ⟨fun l => BitVec.ofNat 32 (packElems k (32 / k) (g c l)).1,
    ((maskList c.wm).filter (· < c.view.width)).foldl (fun a l => a ||| (packElems k (32 / k) (g c l)).2) 0, ?_, ?_, ?_⟩
  · rw [h, issue_onRegs hr hc]
    · simp only [ends, writeFlagged, writeVec, openIssue_width]
      rfl
    · intro w; simp [writeFlagged, writeVec]
    · intro w; simp [writeFlagged, writeVec]
  · intro l e hm hl he
    have hlt := elemsJoin_lt k (fun e => (g c l e).1) (32 / k)
    rw [Nat.mul_comm k, hk.2] at hlt
    have : (BitVec.ofNat 32 (packElems k (32 / k) (g c l)).1).toNat = elemsJoin k (fun e => (g c l e).1) (32 / k) := by
      simp only [packElems, BitVec.toNat_ofNat]
      exact Nat.mod_eq_of_lt hlt
    rw [this, elemAt_elemsJoin _ _ _ _ he, (hf c l e).2]
  · intro b
    rw [foldl_or_getLsbD]
    simp only [flags_zero_getLsbD, Bool.false_eq_true, false_or, List.mem_filter, mem_maskList, decide_eq_true_eq, packElems]
    constructor
    · rintro ⟨l, ⟨hm, hl⟩, hb⟩
      rw [foldl_or_getLsbD] at hb
      simp only [flags_zero_getLsbD, Bool.false_eq_true, false_or, List.mem_range] at hb
      obtain ⟨e, he, hb⟩ := hb
      exact ⟨l, e, hm, hl, he, by rw [← (hf c l e).1]; exact hb⟩
    · rintro ⟨l, e, hm, hl, he, hb⟩
      refine ⟨l, ⟨hm, hl⟩, ?_⟩
      rw [foldl_or_getLsbD]
      exact .inr ⟨e, List.mem_range.2 he, by rw [(hf c l e).1]; exact hb⟩

/-- The same for packed elements that raise no flag. -/
theorem writesElements_quiet {i : Instr} {y : Bool} {u : Usage} {d : VReg} {n : Lane → Nat} {g : Ctx → Nat → Nat → Nat}
    {f : Ctx → Nat → Nat → Nat × Flags} (hn : ∀ m, 0 < n m ∧ 32 / n m * n m = 32) (hc : u.collective = false)
    (h : ∀ s, exec i s = issue s y u (onRegs fun c w =>
      writeVec c d c.wm (fun l => BitVec.ofNat 32 (elemsJoin (n c.split.mode) (g c l) (32 / n c.split.mode))) w))
    (hf : ∀ c l e, (f c l e).2 = 0 ∧ g c l e % 2 ^ n c.split.mode = (f c l e).1 % 2 ^ n c.split.mode) :
    WritesElements i u d (fun c => c.wm) n f := by
  intro s wv sp hr
  let c := seen s wv sp
  let k := n c.split.mode
  have hk := hn c.split.mode
  refine ⟨fun l => BitVec.ofNat 32 (elemsJoin k (g c l) (32 / k)), 0, ?_, ?_, ?_⟩
  · rw [h, issue_onRegs hr hc (fun w => writeRow_ctl ..) (fun w => writeRow_out ..)]
    have hz (w : Wave) : raise w 0 = w := by simp [raise]
    simp only [ends, writeVec, hz]
    rfl
  · intro l e hm hl he
    have hlt := elemsJoin_lt k (g c l) (32 / k)
    rw [Nat.mul_comm k, hk.2] at hlt
    rw [BitVec.toNat_ofNat, Nat.mod_eq_of_lt hlt, elemAt_elemsJoin _ _ _ _ he, (hf c l e).2]
  · intro b
    simp only [flags_zero_getLsbD, Bool.false_eq_true, false_iff, not_exists, not_and]
    intro l e _ _ _
    rw [(hf c l e).1]
    simp

/-- R132, R143. -/
theorem writesMaskBits_of {i : Instr} {y : Bool} {u : Usage} {d : MReg} {p q : Ctx → Nat → Bool}
    (h : ∀ s, exec i s = issue s y u (onRegs fun c w => writeMaskBits c d (q c) w)) (hc : u.collective = false)
    (hp : ∀ c l, q c l = p c l) : WritesMaskBits i u d p := by
  intro s wv sp hr
  refine ⟨maskOf fun l => if mbit (seen s wv sp).wm l && decide (l < (seen s wv sp).view.width) then p (seen s wv sp) l
    else mbit (mget (seen s wv sp).view d.val) l, ?_, fun l hl => maskOf_bit _ l hl⟩
  rw [h, issue_onRegs hr hc (fun w => mset_ctl ..) (fun w => mset_out ..)]
  simp only [ends, writeMaskBits, openIssue_width, hp, mget, openIssue_regs]
  rfl

@[simp] theorem useVVB_collective (d a : VReg) (b : BOp) : (useVVB d a b).collective = false := by cases b <;> rfl
@[simp] theorem useAcc_collective (d a : VReg) (b : BOp) : (useAcc d a b).collective = false := by cases b <;> rfl
@[simp] theorem useMVB_collective (a : VReg) (b : BOp) : (useMVB a b).collective = false := by cases b <;> rfl

theorem etWidth_div (et : Nat) : 0 < etWidth et ∧ 32 / etWidth et * etWidth et = 32 := by
  unfold etWidth
  repeat' split
  all_goals decide

end Sys2Proof.Machine
end

