-- ==== Sys2Proof/Tests/Slice0.lean ====
section
/-!
SUPPORT. Tests. Words of the opcode table and of ISA_SPEC.md R45 to R52, and what they decode to; instructions that are not legal words; single
steps whose results are worked in the spec or follow from its tables by hand; and, for the statements of Certificates/Slice0, states and
operands that meet their hypotheses.
-/
namespace Sys2Proof.Tests
open Sys2Proof.Machine
set_option Elab.async false

/-! States to test on. -/
/-- A device with one wave of 32 lanes, alone in its group, that issues. -/
def base : State := { placedState State.reset with cur := some (0, 0) }
def withWave (s : State) (f : Wave → Wave) : State := putWave s 0 (f (waveAt s 0))
def withSplit (s : State) (f : Split → Split) : State := withWave s fun w => putSplit w 0 (f (getSplit w 0))
def withGroup (s : State) (f : Group → Group) : State := putGroup s 0 (f (groupAt s 0))
def withLaunch (s : State) (f : Launch → Launch) : State := putLaunch s 0 (f (launchAt s 0))
def withBlock (s : State) (f : List Nat → List Nat) : State := withLaunch s fun l => { l with block := f l.block }
def withIsland (s : State) (f : Island → Island) : State := putIsland s 0 (f (islandAt s 0))
def withDev (s : State) (f : Device → Device) : State := putDev s (f s.dev)
/-- The same wave, privileged (R52, R355). -/
def priv : State := withBlock base fun b => recPut b 0 4 0x10
/-- Scalar register n holds v. -/
def withSca (s : State) (n v : Nat) : State := withWave s fun w => sset w n (BitVec.ofNat 64 v)
def withMode (s : State) (m : Nat) : State := withSplit s fun x => { x with mode := BitVec.ofNat 32 m }
/-- Vector register g n holds v in every lane. -/
def withVec (s : State) (n : Nat) (v : Nat → Nat) : State := withWave s fun w => writeRow w n (BitVec.allOnes 128) fun l => BitVec.ofNat 32 (v l)
/-- What an instruction leaves, if it goes on. -/
def after (i : Instr) (s : State) : Option State := match exec i s with
  | .next t => some t
  | _ => none
/-- A value of the issuing wave afterwards. -/
def waveOf {α : Type} (i : Instr) (s : State) (f : Wave → α) : Option α := (after i s).map fun t => f (waveAt t 0)
def lane0 (n : Nat) (w : Wave) : Nat := (vget w (getSplit w 0).frame n 0).toNat

/-! Words of the opcode table. -/
/-- Every word decodes to the instruction beside it. -/
def decodesTo (l : List (Nat × Instr)) : Bool := l.all fun p => decodeTableWord 32 p.1 == some p.2

/-- IADD to BFI. -/
theorem test_decode_iadd_to_bfi : decodesTo [
    (0x00A06040, .iadd false 32 48 (.vec 16)),
    (0x81206015, .isub true 32 48 (.sca 5)),
    (0x01A06026, .imul false 32 48 (.xlane 9)),
    (0x8220608B, .imulh true 32 48 (.quad 34)),
    (0x02A06050, .imad false 32 48 (.vec 20)),
    (0x83206015, .imin true 32 48 (.sca 5)),
    (0x03A06026, .imax false 32 48 (.xlane 9)),
    (0x84206000, .iabs true 32 48),
    (0x04A06040, .and false 32 48 (.vec 16)),
    (0x85206015, .or true 32 48 (.sca 5)),
    (0x05A06026, .xor false 32 48 (.xlane 9)),
    (0x8620608B, .shl true 32 48 (.quad 34)),
    (0x06A06050, .shr false 32 48 (.vec 20)),
    (0x87206015, .sra true 32 48 (.sca 5)),
    (0x07A06026, .bfx false 32 48 (.xlane 9)),
    (0x8820608B, .bfi true 32 48 (.quad 34))] = true := by decide +kernel

/-- POPC to ANDI. -/
theorem test_decode_popc_to_andi : decodesTo [
    (0x08A06000, .popc false 32 48),
    (0x89206000, .clz true 32 48),
    (0x09A06000, .brev false 32 48),
    (0x8A20608B, .sel true 32 48 (.quad 34)),
    (0x0A856050, .icmpeq false 5 48 (.vec 20)),
    (0x8B056015, .icmpne true 5 48 (.sca 5)),
    (0x0B856026, .icmplt false 5 48 (.xlane 9)),
    (0x8C05608B, .icmple true 5 48 (.quad 34)),
    (0x0CA06000, .mov false 32 48),
    (0x8D20FFFD, .movi true 32 (-3)),
    (0x0DA0FFFD, .movih false 32 (-3)),
    (0x8E2061FD, .iaddi true 32 48 (-3)),
    (0x0EA06009, .shli false 32 48 9),
    (0x8F206009, .shri true 32 48 9),
    (0x0FA06009, .srai false 32 48 9),
    (0x902061FD, .andi true 32 48 (-3))] = true := by decide +kernel

/-- ORI to SSEQ. -/
theorem test_decode_ori_to_sseq : decodesTo [
    (0x10A061FD, .ori false 32 48 (-3)),
    (0x912061FD, .xori true 32 48 (-3)),
    (0x140C0E24, .sadd false 12 7 9),
    (0x948C0E24, .ssub true 12 7 9),
    (0x150C0E24, .smul false 12 7 9),
    (0x958C0E24, .sand true 12 7 9),
    (0x160C0E24, .sor false 12 7 9),
    (0x968C0E24, .sxor true 12 7 9),
    (0x170C0E24, .sshl false 12 7 9),
    (0x978C0E24, .sshr true 12 7 9),
    (0x180C0E24, .ssra false 12 7 9),
    (0x988C0E00, .smov true 12 7),
    (0x190CFFFD, .smovi false 12 (-3)),
    (0x998CFFFD, .smovk true 12 (-3)),
    (0x1A0C0FFD, .saddi false 12 7 (-3)),
    (0x9A8C0E24, .sseq true 12 7 9)] = true := by decide +kernel

/-- SSLT to FRCP. -/
theorem test_decode_sslt_to_frcp : decodesTo [
    (0x1B0C0E24, .sslt false 12 7 9),
    (0x9B8C0E24, .ssltu true 12 7 9),
    (0x1C0C6000, .vtos false 12 48),
    (0xA020608B, .fadd true 32 48 (.quad 34)),
    (0x20A06050, .fsub false 32 48 (.vec 20)),
    (0xA1206015, .fmul true 32 48 (.sca 5)),
    (0x21A06026, .ffma false 32 48 (.xlane 9)),
    (0xA220608B, .fmin true 32 48 (.quad 34)),
    (0x22A06040, .fmax false 32 48 (.vec 16)),
    (0xA3206000, .fabs true 32 48),
    (0x23A06000, .fneg false 32 48),
    (0xA405608B, .fcmpeq true 5 48 (.quad 34)),
    (0x24856050, .fcmplt false 5 48 (.vec 20)),
    (0xA5056015, .fcmple true 5 48 (.sca 5)),
    (0x25856026, .fcmpun false 5 48 (.xlane 9)),
    (0xA6206000, .frcp true 32 48)] = true := by decide +kernel

/-- FRSQ to QSCALE. -/
theorem test_decode_frsq_to_qscale : decodesTo [
    (0x26A06000, .frsq false 32 48),
    (0xA7206000, .fsqrt true 32 48),
    (0x27A06000, .fexp2 false 32 48),
    (0xA8206000, .flog2 true 32 48),
    (0x28A06000, .fsinpi false 32 48),
    (0xA9206000, .fcospi true 32 48),
    (0x29A06010, .fcvt false 32 48 4),
    (0xAA206000, .icvtf true 32 48),
    (0x2AA06000, .fcvti false 32 48),
    (0xAB206000, .fclass true 32 48),
    (0x2BA06026, .fscale false 32 48 (.xlane 9)),
    (0xAC206000, .frnd true 32 48),
    (0x2CA06050, .dot4 false 32 48 (.vec 20)),
    (0xAD206015, .dot8 true 32 48 (.sca 5)),
    (0x2DA06026, .dot2f false 32 48 (.xlane 9)),
    (0xAE20608B, .qscale true 32 48 (.quad 34))] = true := by decide +kernel

/-- PACK to REDMIN. -/
theorem test_decode_pack_to_redmin : decodesTo [
    (0x2EA06001, .pack false 32 48 1),
    (0xAF206001, .unpk true 32 48 1),
    (0x3005041C, .mand false 5 2 7),
    (0xB085041C, .mor true 5 2 7),
    (0x3105041C, .mxor false 5 2 7),
    (0xB185041C, .mandn true 5 2 7),
    (0x320C0401, .mtos false 12 2 true),
    (0xB2850E01, .stom true 5 7 true),
    (0x330C0400, .mpopc false 12 2),
    (0xB38C0400, .mfirst true 12 2),
    (0x34206040, .shfl false 32 48 16),
    (0xB4A06024, .shflx true 32 48 9),
    (0x35206002, .qswap false 32 48 2),
    (0xB5A06003, .qbcast true 32 48 3),
    (0x360C6000, .redadd false 12 48),
    (0xB68C6000, .redmin true 12 48)] = true := by decide +kernel

/-- REDMAX to CONT. -/
theorem test_decode_redmax_to_cont : decodesTo [
    (0x370C6000, .redmax false 12 48),
    (0xB7A06000, .scanadd true 32 48),
    (0x3800FFFD, .mset false (-3)),
    (0xB880FFFD, .mseth true (-3)),
    (0x390C0000, .mrd false 12),
    (0xB9800E00, .mwr true 7),
    (0x3A200007, .rdspec false 32 7),
    (0xBA8C0200, .cwrd true 12 32),
    (0x3B0C0200, .cwwr false 12 32),
    (0xBB850E24, .thset true 5 7 9),
    (0x4006FFFD, .ifM false 6 (-3)),
    (0xC080FFFD, .elseM true (-3)),
    (0x41000000, .endif false),
    (0xC180FFFD, .loop true (-3)),
    (0x42060009, .brk false 6 9),
    (0xC2860009, .cont true 6 9)] = true := by decide +kernel

/-- ENDLOOP to RDLINK. -/
theorem test_decode_endloop_to_rdlink : decodesTo [
    (0x4300FFFD, .endloop false (-3)),
    (0xC3FFFFFD, .jmp true (-3)),
    (0x4406FFFD, .brs false 6 (-3)),
    (0xC486FFFD, .brany true 6 (-3)),
    (0x4506FFFD, .brall false 6 (-3)),
    (0xC5806000, .jmpx true 48),
    (0x46000000, .merge false),
    (0xC6800000, .exit true),
    (0x47000000, .nop false),
    (0xC7800000, .yield true),
    (0x487FFFFD, .call false (-3)),
    (0xC8806000, .callx true 48),
    (0x49000000, .ret false),
    (0xC98018A7, .frame true 7 5 3),
    (0x4A000000, .wflush false),
    (0xCA8C0000, .rdlink true 12)] = true := by decide +kernel

/-- WRLINK to ATOM. -/
theorem test_decode_wrlink_to_atom : decodesTo [
    (0x4B000E00, .wrlink false 7),
    (0xCB80FFFD, .trap true (-3)),
    (0x4C000000, .tret false),
    (0xCC800000, .region true),
    (0x4D000000, .regend false),
    (0xCD800009, .bar true 9),
    (0x4E000009, .bararv false 9),
    (0xCE800009, .barwt true 9),
    (0x4F000E00, .tmset false 7),
    (0xD020605C, .ld true 32 48 11 4),
    (0x50A0605C, .st false 32 48 11 4),
    (0xD120605C, .lds true 32 48 11 4),
    (0x51A0605C, .sts false 32 48 11 4),
    (0xD20C0F3D, .ldu true 12 7 4 (-3)),
    (0x528C0F3D, .stu false 12 7 4 (-3)),
    (0xD320605F, .atom true 32 48 11 3 true)] = true := by decide +kernel

/-- ATOMS to TBIAS. -/
theorem test_decode_atoms_to_tbias : decodesTo [
    (0x53A0605F, .atoms false 32 48 11 3 true),
    (0xD420605C, .lda true 32 48 11 4),
    (0x54A0605C, .strel false 32 48 11 4),
    (0xD5000002, .fence true 2),
    (0x55806058, .cflush false 48 11),
    (0xD6006058, .cinv true 48 11),
    (0x56806059, .pref false 48 11 1),
    (0xD70C0000, .srcfg true 12),
    (0x578C0000, .spcfg false 12),
    (0xD8206058, .haar true 32 48 11),
    (0x58A06058, .ihaar false 32 48 11),
    (0xD920600C, .thr true 32 48 3),
    (0x59A00E5E, .tst false 32 7 11 6),
    (0xDA200E58, .tld true 32 7 11),
    (0x5A800E58, .tldq false 7 11),
    (0xDB206058, .tbias true 32 48 11)] = true := by decide +kernel

/-- TRECON to BATCH. -/
theorem test_decode_trecon_to_batch : decodesTo [
    (0x5BA06058, .trecon false 32 48 11),
    (0xDC20605B, .tact true 32 48 11 3),
    (0x60026040, .mma false 2 48 16),
    (0xE0826040, .mmax true 2 48 16),
    (0x61020040, .mmaq false 2 16),
    (0xE1820E00, .mzero true 2 7),
    (0x62200424, .mrda false 32 2 9),
    (0xE2826024, .mwra true 2 48 9),
    (0x63000E00, .mlayout false 7),
    (0xE3A00058, .mldb true 32 11),
    (0x640C0E58, .cpy false 12 7 11),
    (0xE48C6059, .cpyg true 12 48 11 1),
    (0x650C6059, .cpys false 12 48 11 1),
    (0xE58C0E59, .cpyb true 12 7 11 1),
    (0x660C0E59, .cpym false 12 7 11 1),
    (0xE68C0000, .batch true 12)] = true := by decide +kernel

/-- BWAIT to WQUIET. -/
theorem test_decode_bwait_to_wquiet : decodesTo [
    (0x67000E00, .bwait false 7),
    (0xE7800E00, .rnginit true 7),
    (0x68000E00, .rwait false 7),
    (0xE8800E00, .rrel true 7),
    (0x69000E24, .rarrv false 7 9),
    (0xE9806000, .qpush true 0 48),
    (0x6A200001, .qpop false 32 1),
    (0xEA8C0003, .qpeek true 12 3),
    (0x6B0C0003, .qcnt false 12 3),
    (0xEB800E00, .bscn true 7),
    (0x6C000E00, .bcfg false 7),
    (0xEC806024, .apnd true 48 9),
    (0x6D000E00, .tdone false 7),
    (0xED800E00, .launch true 7),
    (0x6E000E00, .wlcfg false 7),
    (0xEE8C1800, .wquiet true 12)] = true := by decide +kernel
/-! Instructions that are not legal words. -/
/-- No check of WellFormed.lean passes an instruction that breaks it, and the decoder takes no such word. -/
def refused (l : List Instr) : Bool := l.all fun i => !wellFormed i && ((encode i).bind (decodeTableWord 32)).isNone
/-- R48, R50 to R52, R180: field values that name nothing. -/
theorem test_fields_refused : refused [
    .fcvt false 1 2 11, .qswap false 1 2 0, .rdspec false 1 12, .ld false 1 2 3 7, .st false 1 2 3 7, .lds false 1 2 3 7, .sts false 1 2 3 7,
    .lda false 1 2 3 7, .strel false 1 2 3 7, .ldu false 1 2 6 0, .stu false 1 2 7 0, .fence false 0, .fence false 4, .pref false 1 2 3,
    .tact false 0 16 1 5, .cpyg false 1 2 63 0, .cpys false 1 2 63 0, .qpush false 1 0, .qpush false 3 0, .qpop false 0 0, .qpop false 0 5,
    .qpeek false 1 5, .qcnt false 1 7, .cwrd false 1 0x003, .cwwr false 1 0x018, .cwrd false 1 0x034, .cwwr false 1 0x072, .cwrd false 1 0x200]
    = true := by decide +kernel
/-- R47: runs that pass g31 or w95. -/
theorem test_runs_refused : refused [
    .thr false 17 0 0, .thr false 0 113 0, .mma false 0 17 0, .mma false 0 0 25, .mmax false 0 20 0, .mmaq false 0 121, .mrda false 113 0 0,
    .mwra false 0 17 0, .apnd false 17 0, .haar false 17 0 0, .ihaar false 0 17 0, .trecon false 31 0 0, .tact false 0 30 0 0, .tbias false 17 0 0,
    .tst false 120 0 0 0, .tld false 17 0 0, .mldb false 25 0, .ld false 31 0 0 5, .st false 29 0 0 6, .lds false 127 0 0 5, .sts false 125 0 0 6,
    .lda false 31 0 0 6, .strel false 31 0 0 5, .atom false 31 0 0 0 true, .atoms false 127 0 0 0 true, .qpush false 0 17, .qpop false 25 1,
    .qpop false 17 3] = true := by decide +kernel
/-- R47: a run that ends at g31 or at w95 is legal. -/
theorem test_runs_at_the_end : ([.mma false 0 16 24, .mma false 0 112 120, .ld false 30 0 0 5, .st false 28 0 0 6, .ld false 126 0 0 5,
    .atom false 30 0 0 0 true, .haar false 16 112 0, .qpop false 24 1, .mldb false 120 0] : List Instr).all wellFormed = true := by decide +kernel
/-- R48, R53: words with a field that must be zero and is not, reserved opcodes, and a scalar field with bit 6 set. -/
theorem test_words_refused : [0x00000000, 0x00800000 ||| 0x7F000000, 0x04006001, 0x14000002, 0x14000000 ||| 0x40 <<< 16, 0x47800000 ||| 1,
    0x46800004, 0x49800000 ||| 1 <<< 16, 0x30000000 ||| 8 <<< 16, 0x56800000 ||| 3, 0x6E800000 ||| 1].all
    (fun w => (decodeTableWord 32 w).isNone) = true := by decide +kernel
/-! Witnesses: states and operands that meet the hypotheses of each statement, clause by clause. -/
/-- The forms of the register instructions: every b,k form, a scalar and s0, the first and last g register. -/
theorem test_witness_IntegerArithmetic : ([.vec 31, .sca 0, .xlane 0, .quad 5].all fun b =>
      ready base 0 0 (useVVB 0 31 b) && ready base 0 0 (useAcc 31 0 b)) = true ∧ ready base 0 0 (useVV 0 31) = true ∧
    (etLo 0 ≤ -(2 ^ 31 : Int) ∧ -(2 ^ 31 : Int) ≤ etHi 0) ∧ -(2 ^ 31 : Int) - 1 < etLo 0 ∧ etHi 0 < 2 ^ 31 ∧ etHi 10 < 16 ∧ (-1 : Int) < etLo 10 ∧
    (etLo 10 ≤ 0 ∧ 15 ≤ etHi 10) := by decide +kernel
theorem test_witness_WholeValueInstructions : ready base 0 0 (useVVB 0 1 (.vec 2)) = true ∧ ready base 0 0 (useAcc 0 1 (.sca 3)) = true ∧
    ready base 0 0 { useVVB 0 1 (.quad 2) with actLanes := true } = true ∧ ready base 0 0 (useV 31) = true ∧ ready base 0 0 (useDVV 4 4) = true ∧
    0 < 32 ∧ 31 < 32 := by decide +kernel
theorem test_witness_ShiftAndBitCount : ready base 0 0 (useVVB 0 1 (.sca 3)) = true ∧ ready base 0 0 (useVV 7 7) = true ∧
    (4 ∈ [4, 8, 16, 32] ∧ 15 < 2 ^ 4 ∧ 0 < 2 ^ 4) ∧ (32 ∈ [4, 8, 16, 32] ∧ 2 ^ 32 - 1 < 2 ^ 32) := by decide +kernel
theorem test_witness_Comparisons : ready base 0 0 (useMVB 1 (.xlane 2)) = true ∧ ready base 0 0 (useMVB 1 (.sca 0)) = true := by decide +kernel
theorem test_witness_ScalarInstructions : ready base 0 0 (useSSS 0 63 63) = true ∧ ready base 0 0 (useSSS 5 0 6) = true ∧
    ready base 0 0 (useSS 63 1) = true ∧ ready base 0 0 (useSw 0) = true ∧ ready base 0 0 (useSV 0 31) = true := by decide +kernel
theorem test_witness_FloatElementInstructions : ready base 0 0 (useVVB 0 1 (.vec 2)) = true ∧ ready base 0 0 (useAcc 0 1 (.quad 2)) = true ∧
    ready base 0 0 (useVV 0 1) = true ∧ isNaNBits f32 0x7F800001 = true ∧ isNaNBits bf16 0x7FC0 = true ∧ isNaNBits f16 0x7C01 = true ∧
    isNaNBits f16 0x7C00 = false := by decide +kernel
theorem test_witness_ConversionAndDotInstructions : ready base 0 0 (useVV 0 1) = true ∧ ready base 0 0 (useDVV 0 1) = true ∧
    ready base 0 0 (useAcc 0 1 (.vec 2)) = true ∧ etCount 0 < etCount (modeET (5 * 2 ^ 5)) ∧ ¬ etCount 5 < etCount (modeET 0) := by decide +kernel
theorem test_witness_MaskAndLaneInstructions : ready base 0 0 {} = true ∧ ready base 0 0 (useSw 3) = true ∧ ready base 0 0 (useSr 0) = true ∧
    ready base 0 0 { vr := [(1, 1), (2, 1)], vw := [(0, 1)] } = true ∧ ready base 0 0 { useVV 0 1 with sr := [63] } = true := by decide +kernel
theorem test_witness_ReductionInstructions : ready base 0 0 (useSV 1 31) = true ∧ ready base 0 0 (useVV 0 1) = true ∧
    (let c := seen base 0 0; modeET c.split.mode ∈ [0, 1] ∧ 0 ∈ (List.range c.view.width).filter (fun l => mbit c.wm l) ∧
      31 ∈ (List.range c.view.width).filter fun l => mbit c.wm l) ∧
    (∀ m ∈ [2, 4, 10], let c := seen (withMode base (m * 2 ^ 5)) 0 0
      modeET c.split.mode = m ∧ c.view.width = 2 ^ 5 ∧ ((List.range c.view.width).filter fun l => mbit c.wm l).length = 32) ∧
    (∀ m ∈ [0, 6, 9], let c := seen (withMode (withWave base fun w => mset w 1 0) (m * 2 ^ 5 + 3)) 0 0
      modeET c.split.mode = m ∧ (List.range c.view.width).filter (fun l => mbit c.wm l) = []) := by decide +kernel
theorem test_witness_ModeThresholdAndTimer : ready base 0 0 {} = true ∧ ready base 0 0 (useSr 5) = true ∧ modeLegal 0 = true ∧ modeLegal (11 * 2 ^ 5) = false ∧
    modeLegal (10 * 2 ^ 5) = true ∧ modeLegal 0x40000000 = false ∧ ready base 0 0 { sr := [1, 2] } = true ∧
    (let s := withSca base 5 (2 ^ 63); ready s 0 0 (useSr 5) = true ∧ (sget (waveAt s 0) 5).getLsbD 63 = true) ∧ sget (waveAt base 0) 5 = 0 ∧
    (let s := withSca base 5 (2 ^ 63 - 1); ready s 0 0 (useSr 5) = true ∧ sget (waveAt s 0) 5 ≠ 0 ∧ (sget (waveAt s 0) 5).getLsbD 63 = false) := by
  decide +kernel
theorem test_witness_SpecialAndControlReads : ready base 0 0 (useSw 1) = true ∧ ready priv 0 0 { useSw 1 with priv := true } = true ∧
    ready base 0 0 (useV 0) = true ∧ ((0 : Fin 16).val ≤ 11 ∧ (11 : Fin 16).val ≤ 11) ∧ (0x040 ≤ (0x040 : Fin 4096).val ∧ (0x05C : Fin 4096).val ≤ 0x05C) ∧
    [0x05D, 0x05E, 0x05F].contains (0x05D : Fin 4096).val = true ∧ (0x105 ≤ (0x13F : Fin 4096).val ∧ (0x13F : Fin 4096).val ≤ 0x13F) ∧
    (0x144 ≤ (0x1FF : Fin 4096).val ∧ (0x1FF : Fin 4096).val ≤ 0x1FF) := by
  decide +kernel
theorem test_witness_ControlWordWrites : ready base 0 0 { useSr 1 with priv := false, closes := true } = true ∧
    ready priv 0 0 { useSr 1 with priv := true, closes := true } = true ∧ privileged priv (waveAt priv 0) = true ∧
    privileged base (waveAt base 0) = false ∧ (3 * 2 ^ 12) / 2 ^ 12 % 4 = 3 ∧
    (let s := withSca (withIsland priv fun i => { i with entry := recPut i.entry 64 8 (4096 + 3), fqTail := 2, pending := [{ slot := 1 }] }) 5 (2 ^ 13 + 1)
     let v := (sget (waveAt s 0) 5).toNat
     ready s 0 0 { useSr 5 with priv := true, closes := true } = true ∧ v / 2 ^ 12 % 4 = 2 ∧ slotIndex (islandAt s 0) (v % 2 ^ 12) = some 1 ∧
     slotIndex (islandAt priv 0) (v % 2 ^ 12) = none) := by decide +kernel
/-- Counters of lane 0 at the limits. -/
def nested (k : Nat) : State := withWave base fun w => { w with ctl := { w.ctl with counters := [(0, k)] } }
/-- Every lane inactive. -/
def skipping (k : Nat) : State := withWave base fun w => { w with ctl := { w.ctl with counters := (List.range 32).map fun l => (l, k) } }
theorem test_witness_StructuredControl : ready base 0 0 skipUse = true ∧ ready (nested 63) 0 0 skipUse = true ∧ ready (nested 62) 0 0 skipUse = true ∧
    mbit (liveLanes (waveAt (nested 63) 0) 0) 0 = true ∧ cntGet (waveAt (nested 63) 0) 0 = 63 ∧ (seen (nested 62) 0 0).act ≠ 0 ∧
    cntGet (waveAt (nested 62) 0) 0 = 62 ∧ (seen (nested 61) 0 0).act ≠ 0 ∧ cntGet (waveAt (nested 61) 0) 0 = 61 ∧
    ready (skipping 2) 0 0 skipUse = true ∧ (seen (skipping 2) 0 0).act = 0 ∧ (61 : Fin 64).val ≤ 61 ∧ (62 : Fin 64).val ≤ 62 ∧
    ready (skipping 1) 0 0 skipUse = true ∧ mbit (liveLanes (waveAt (skipping 1) 0) 0) 31 = true ∧ cntGet (waveAt (skipping 1) 0) 31 = 1 ∧
    ((List.range 128).all fun l => !mbit (liveLanes (waveAt (skipping 2) 0) 0) l || decide (2 ≤ cntGet (waveAt (skipping 2) 0) l)) = true ∧
    ((List.range 128).all fun l => !mbit (liveLanes (waveAt (nested 61) 0) 0) l || decide (cntGet (waveAt (nested 61) 0) l ≤ 61)) = true := by
  decide +kernel
/-- The lanes jump two ways; the split table has three free entries, or none. -/
def forked (full held : Bool) : State := withWave (withVec base 1 fun l => l % 2) fun w =>
  { w with ctl := { w.ctl with splits := w.ctl.splits.mapIdx fun i x =>
      if i = 0 then { x with leftover := { held := held } } else if full then { x with valid := true } else x } }
theorem test_witness_JumpsAndBranches : ready base 0 0 {} = true ∧ ready base 0 0 (useSr 4) = true ∧ sget (waveAt base 0) 4 = 0 ∧
    sget (waveAt (withSca base 4 1) 0) 4 ≠ 0 ∧ ready (withSca base 4 1) 0 0 (useSr 4) = true ∧
    (let s := forked false false; let gs := targetGroups (laneTarget (seen s 0 0) 1) (seen s 0 0).act
     ready s 0 0 { vr := [(1, 1)] } = true ∧ gs.length = 2 ∧ (gs.drop 1).length ≤ freeEntries (waveAt s 0)) ∧
    (let s := forked true false; let gs := targetGroups (laneTarget (seen s 0 0) 1) (seen s 0 0).act
     ready s 0 0 { vr := [(1, 1)] } = true ∧ freeEntries (waveAt s 0) < (gs.drop 1).length ∧ (seen s 0 0).split.leftover.held = false) ∧
    (let s := forked true true; let gs := targetGroups (laneTarget (seen s 0 0) 1) (seen s 0 0).act
     ready s 0 0 { vr := [(1, 1)] } = true ∧ freeEntries (waveAt s 0) < (gs.drop 1).length ∧ (seen s 0 0).split.leftover.held = true) ∧
    ((List.range 32).all fun l => decide (laneTarget (seen base 0 0) 1 l = laneTarget (seen base 0 0) 1 0)) = true := by decide +kernel
/-- A wave of two splits with sixteen lanes each, the second running or parked at a MERGE. -/
def twoSplits (kind : ParkKind) : State := withWave base fun w => { w with ctl := { w.ctl with splits := w.ctl.splits.mapIdx fun i x =>
  if i = 0 then { x with lanes := maskLow 16 } else if i = 1 then { x with valid := true, lanes := maskLow 32 &&& ~~~ maskLow 16, park := { x.park with kind := kind } } else x } }
theorem test_witness_ParkingAndExit : ready base 0 0 {} = true ∧ ready base 0 0 { closes := true } = true ∧
    (let s := twoSplits .no; ready s 0 0 skipUse = true ∧ (liveSplits (waveAt s 0)).any (fun i => i != 0 && !(getSplit (waveAt s 0) i).held &&
      decide ((getSplit (waveAt s 0) i).park.kind = .no)) = true ∧ ready s 0 0 { closes := true } = true ∧ handlerRuns (waveAt s 0) = false ∧
      (getSplit (waveAt s 0) 0).lanes &&& ~~~ actOf (waveAt s 0) 0 = 0) ∧
    ready base 0 0 skipUse = true ∧ liveSplits (waveAt base 0) = [0] ∧ jmpxHolder (getSplit (waveAt base 0) 0) = false ∧
    (ready (nested 1) 0 0 { closes := true } = true ∧ handlerRuns (waveAt (nested 1) 0) = false ∧
      (getSplit (waveAt (nested 1) 0) 0).lanes &&& ~~~ actOf (waveAt (nested 1) 0) 0 ≠ 0) ∧
    (getSplit (waveAt base 0) 0).lanes &&& ~~~ actOf (waveAt base 0) 0 = 0 ∧
    (holdOf (quarterAt base 0) 0 = some { wave := 0 }) ∧ tbGet? base.waves 0 = some (waveAt base 0) ∧
    mergeExpired (waveAt (withWave (twoSplits .merge) fun w => { w with ctl := { w.ctl with mergewait := 0 } }) 0) = true ∧
    (let s := withSplit base fun x => { x with leftover := { held := true, lanes := 1 }, park := { x.park with due := true } }
     mayRespawn (waveAt s 0) 0 = true) := by decide +kernel

/-! The window. -/
/-- A frame at position 1 over a root record, with room for 8 rows; the backing store has `size` bytes. -/
def windowed (live : Bool) (bottom size : Nat) : State := withWave base fun w =>
  { putSplit w 0 { getSplit w 0 with frame := { base := 1, nloc := 3 } } with
    win := { w.win with rows := 16, top := 5, bottom := bottom, bsize := size, ownSize := size, rahi := 1,
                        records := [{ live := live, rows := if bottom = 0 then 0 else 1 }, { start := 1, base := 1, link := 1, caller := some 0 }] } }
theorem test_witness_WindowInstructions :
    (let w := waveAt base 0; let f := (getSplit w 0).frame; let f' : Frame := { f with nloc := 40, nout := 10 }
     ready base 0 0 { closes := true } = true ∧ 0 + 40 + 10 ≤ 96 ∧ frameEnd f' - (recOfLink w (linkPos f)).start ≤ w.win.rows ∧
     w.win.service = .clear ∧ frameEnd f' - w.win.top ≤ wfree w ∧ overflows w (frameEnd f' - w.win.top) = false ∧
     (highestRec w).start = (recOfLink w (linkPos f)).start ∧ (1 : Nat) ≠ f.nin ∧ 96 < 31 + 63 + 31 ∧
     w.win.top + callRows w f < 2 ^ 40 ∧ callRows w f ≤ wfree w ∧ overflows w (callRows w f) = false) ∧
    (let w := waveAt base 0; (getSplit w 0).retry = false ∧ ready base 0 0 { closes := true, vr := [(1, 1)] } = true ∧
     ((List.range 32).all fun l => decide (laneTarget (seen base 0 0) 1 l = 0) && decide (cntGet w l ≠ 63)) = true ∧
     (readLink w (linkPos (getSplit w 0).frame)).kind = 0 ∧ liveSplits w = [0] ∧ (getSplit w 0).lanes &&& ~~~ liveLanes w 0 = 0 ∧ w.commits = 0) ∧
    (let s := withWave base fun w => { w with win := { w.win with top := 2 ^ 40 - 1 } }
     ready s 0 0 { closes := true } = true ∧ 2 ^ 40 ≤ (waveAt s 0).win.top + callRows (waveAt s 0) (getSplit (waveAt s 0) 0).frame) ∧
    (let s := withWave base fun w => doCall w 0 1 64 4 {} w
     ready s 0 0 { closes := true } = true ∧ (readLink (waveAt s 0) (linkPos (getSplit (waveAt s 0) 0).frame)).kind ≠ 0 ∧
     (waveAt s 0).win.service = .clear ∧ (waveAt s 0).win.bottom ≤ linkPos (readLink (waveAt s 0) (linkPos (getSplit (waveAt s 0) 0).frame)).frame) := by
  decide +kernel
theorem test_witness_CallAndLinkRecord : 0 < (waveAt base 0).ctl.splits.length ∧ spWf 0 (waveAt base 0).regs.vec = true ∧ 32 ≤ (waveAt base 0).width ∧
    2 ^ 57 - 1 < 2 ^ 57 ∧ 3 < 4 ∧ 31 < 32 := by decide +kernel
theorem test_witness_WindowEvents :
    (let s := windowed true 0 1000; let w := waveAt s 0
     tbGet? s.waves 0 = some w ∧ (groupAt s w.group).away = false ∧ w.win.service = .clear ∧ (residentRecs w).length = 2 ∧
     ((residentRecs w).headD ({}, 0)).1.live = true ∧ canSpill w = true ∧ wfree w < w.win.low) ∧
    (let w := waveAt (windowed false 0 0) 0; ((residentRecs w).headD ({}, 0)).1.live = false ∧ canSpill w = true ∧ wfree w < w.win.low) ∧
    (let s := withSplit (windowed true 1 1000) fun x => { x with park := { x.park with kind := .refill 0 } }; let w := waveAt s 0
     (lastSpilled w).isSome = true ∧ ((lastSpilled w).getD {}).live = true ∧ wantsRefill w = true ∧ canRefill w = true ∧ w.win.service = .clear) ∧
    (let w := waveAt (windowed true 1 1000) 0
     (lastSpilled w).isSome = true ∧ w.win.rahi ≠ 0 ∧ roomParks w = [] ∧ ((lastSpilled w).getD {}).rows + w.win.rahi ≤ wfree w ∧ canRefill w = true) ∧
    (let s0 := windowed true 0 1000
     let s := putCore s0 0 { coreAt s0 0 with tlb := [{ island := 0, asid := 0, va := 0, size := 12, pa := 0, attrs := 0x7F }] }
     let q := spillAsker s 0 ((waveAt s 0).win.bstore + (waveAt s 0).win.bused) (spillImage (waveAt s 0) 0 1).length
     let p := locate q 1 (segsOf ((waveAt s 0).win.bstore + (waveAt s 0).win.bused) (spillImage (waveAt s 0) 0 1).length) s
     firstBad p.2 = none ∧ p.2.any (segWait p.1 q.core p.1.nextId) = false) := by decide +kernel

/-! Traps. -/
def handling : State := withWave base fun w => { w with evt := { w.evt with trapvec := 0x100 } }
/-- The handler runs. -/
def inHandler : State := withWave handling fun w => { w with evt := { w.evt with cause := 0x8011 } }
theorem test_witness_TrapEntry : (waveAt handling 0).evt.cause.getLsbD 15 = false ∧ (waveAt handling 0).evt.trapvec ≠ 0 ∧ (waveAt handling 0).out = [] ∧
    spWf 0 (waveAt handling 0).ctl.counters = true ∧
    (waveAt handling 0).ctl.splits.length = 4 ∧ (getSplit (waveAt handling 0) 0).valid = true ∧ 0xFFF < 2 ^ 12 ∧ 0xFFFF < 2 ^ 16 ∧
    (groupAt base 0).node = none ∧ (launchAt base 0).fault = false ∧ 0 ∈ groupsOf base 0 ∧ 0 ∈ (groupAt base 0).waves ∧
    (waveAt base 0).evt.trapvec = 0 ∧ (waveAt inHandler 0).evt.cause.getLsbD 15 = true := by decide +kernel
theorem test_witness_TrapAndRegions : ready base 0 0 {} = true ∧ (waveAt base 0).evt.cause.getLsbD 15 = false ∧ ready inHandler 0 0 {} = true ∧
    (waveAt inHandler 0).evt.cause.getLsbD 15 = true ∧ ready base 0 0 { closes := true } = true ∧ spWf 0 (waveAt handling 0).ctl.counters = true ∧
    ((List.range 4).all fun i => !(getSplit (waveAt handling 0) i).held) = true ∧ (getSplit (waveAt handling 0) 0).valid = true := by decide +kernel

/-! Barriers. -/
/-- Two waves; the first has arrived at barrier 3. -/
def paired : State := { base with
  waves := [(0, { waveAt base 0 with tim := { pending := [3] } }), (1, { waveAt base 0 with num := 1 })],
  groups := [(0, { groupAt base 0 with waves := [0, 1] })] }
theorem test_witness_BarrierInstructions :
    (let u (c : Bool) : Usage := { skipExec := true, collective := true, closes := c }
     ready base 0 0 (u true) = true ∧ ready base 0 0 (u false) = true ∧ (waveAt base 0).tim.pending.contains 3 = false ∧
     ready paired 0 0 (u false) = true ∧ (waveAt paired 0).tim.pending.contains 3 = true ∧ (waveAt base 0).tim.owed = none ∧
     (waveAt (arrive (entered (begun base 0 0 (u true)) 0 0 true) 0 3) 0).tim.pending.contains 3 = false ∧
     (waveAt (arrive (entered (begun paired 0 0 (u true)) 0 0 true) 0 4) 0).tim.pending.contains 4 = true) ∧
    (15 < (groupAt base 0).phases.length ∧ liveWaves base 0 ≠ [] ∧
     (∀ k ∈ liveWaves (withWave base fun w => { w with tim := { w.tim with pending := [15] } }) 0,
       15 ∈ (waveAt (withWave base fun w => { w with tim := { w.tim with pending := [15] } }) k).tim.pending) ∧
     ¬ (∀ k ∈ liveWaves paired 0, 3 ∈ (waveAt paired k).tim.pending)) := by decide +kernel

/-! Memory. -/
/-- The first page of memory is mapped to itself with the PTE bits `attrs` (R350); 0x79 is V, W, X, A, D. -/
def mapped (attrs : Nat) : State :=
  putCore base 0 { coreAt base 0 with tlb := [{ island := 0, asid := 0, va := 0, size := 12, pa := 0, attrs := attrs }] }
def scratched (lines : Nat) : State := withGroup base fun g => { g with limit := lines, grant := lines }
def lanesOf (s : State) (space : Space) (access n : Nat) : State × List Acc :=
  resolveLanes space (waveAt s 0) access n (laneAddrs (seen s 0 0) 1 2) (entered s 0 0 false)
/-- The address of the first lane, not a helper, whose access ends so. -/
def firstOf (f : LaneRes → Bool) (s : State) (space : Space) (n : Nat) : Option Nat :=
  ((lanesOf s space 0 n).2.find? fun x => !x.helper && f x.res).map (·.addr)
theorem test_witness_LoadInstructions :
    ([0, 4, 5, 6].all fun z => ready (mapped 0x79) 0 0 (useLoad 4 1 2 (memRun z)) && passes (lanesOf (mapped 0x79) .global 0 (accBytes z)) 0) = true ∧
    (ready (scratched 1) 0 0 (useLoad 31 1 2 (memRun 4)) = true ∧ passes (lanesOf (scratched 1) .scratch 0 4) 0 = true) ∧
    (let s := withSca (withVec (scratched 1) 1 fun l => 4 * l) 2 0; passes (lanesOf s .scratch 0 4) 0 = true) := by decide +kernel
theorem test_witness_StoreInstructions :
    ([0, 4, 5, 6].all fun z => ready (mapped 0x79) 0 0 (useStore 4 1 2 (memRun z)) && passes (lanesOf (mapped 0x79) .global 1 (accBytes z)) 0) = true ∧
    (ready (scratched 1) 0 0 (useStore 31 1 2 1) = true ∧ passes (lanesOf (scratched 1) .scratch 1 4) 0 = true) ∧
    ready (mapped 0x79) 0 0 { useStore 4 1 2 1 with closes := true } = true ∧ releaseClear (mapped 0x79) 0 = true := by decide +kernel
theorem test_witness_ScalarMemoryInstructions : ready (mapped 0x79) 0 0 (useSS 3 4) = true ∧ ready (mapped 0x79) 0 0 { sr := [3, 4] } = true ∧
    ([0, 1].all fun access =>
      let e := resolveGlobal (entered (mapped 0x79) 0 0 false) 0 0 access false 4 4092
      passes (e.1, [{ lane := 0, addr := 4092, res := e.2 }]) 0) = true := by decide +kernel
theorem test_witness_AccessTraps :
    (let s := withVec (mapped 0x79) 1 fun l => l
     ready s 0 0 (useLoad 4 1 2 1) = true ∧ firstOf resMis s .global 4 = some 1 ∧ firstOf resMis s .scratch 4 = some 1) ∧
    (let s := withVec (mapped 0x7D) 1 fun l => 4 * l
     firstOf resMis s .global 4 = none ∧ firstOf resProt s .global 4 = some 0 ∧ firstOf resMis s .scratch 4 = none ∧
     firstOf resProt s .scratch 4 = some 0) ∧
    (let s := withSca (withVec (mapped 0x79) 1 fun l => 4 * l) 2 (2 ^ 40)
     ready s 0 0 (useLoad 4 1 2 1) = true ∧ firstOf resMis s .global 4 = none ∧ firstOf resProt s .global 4 = none ∧
     firstOf resRange s .global 4 = some (2 ^ 40)) ∧
    (let s := putCore { base with dev := { base.dev with mem := [(0, 1)] } } 0 { coreAt base 0 with tlb := [] }
     ready s 0 0 (useLoad 4 1 2 1) = true ∧ firstOf resMis s .global 4 = none ∧ ((lanesOf s .global 0 4).2.any fun x => x.walked) = true) ∧
    (let s := withGroup (withVec (scratched 8) 1 fun l => 4 * l) fun g => { g with bcfg := 2 ^ 11 }
     ready s 0 0 (useLoad 4 1 2 1) = true ∧ firstOf resMis s .scratch 4 = none ∧ firstOf resProt s .scratch 4 = some 0 ∧
     ((lanesOf s .scratch 0 4).2.headD { lane := 0, addr := 0, res := .absent 0 }).res = .engine) := by decide +kernel
theorem test_witness_MemoryReadsBack : spWf 0 (coreAt base 0).spad = true ∧ Memory.wf base.dev.mem = true ∧ (∀ v ∈ [255, 0], v < 256) ∧
    (let l : Line := { line := 3, valid := BitVec.allOnes 128, data := [(0, 1), (127, 255)] }
     let s := putCore base 0 { coreAt base 0 with l1 := [l] }
     findLine (coreAt s 0).l1 (510 / 128) 0 = some l ∧ spWf 0 l.data = true ∧ 510 % 128 + 2 ≤ 128 ∧ 510 / 2 ^ 48 ≠ 9 ∧
     l.valid = BitVec.allOnes 128) := by decide +kernel
theorem test_witness_AtomicInstructions :
    (let s := mapped 0x79; let m := (seen s 0 0).split.mode
     ready s 0 0 (useAtom m 4 1 2 false) = true ∧ ready s 0 0 (useAtom m 4 1 2 true) = true ∧
     passes (resolveLanes .global (waveAt s 0) 2 8 (laneAddrs (seen s 0 0) 1 2) (entered s 0 0 true)) 0 = true ∧ releaseClear s 0 = true) ∧
    passes (resolveLanes .scratch (waveAt (scratched 1) 0) 2 4 (laneAddrs (seen (scratched 1) 0 0) 1 2) (entered (scratched 1) 0 0 true)) 0 = true ∧
    (2 ^ 32 - 1 < 2 ^ 32 ∧ 2 ^ 64 - 1 < 2 ^ 64) ∧ signedOf 32 (2 ^ 31) < signedOf 32 0 ∧ ¬ signedOf 32 5 < signedOf 32 5 := by decide +kernel
/-- Page tables whose root is at 0x1000 and whose third level maps the first GiB to itself. -/
def tables (leaf : Nat) : State :=
  homeWrite (homeWrite (homeWrite (withIsland base fun i => { i with entry := recPut i.entry 8 8 0x1000 })
    0x1000 (leBytes 8 0x2001)) 0x2000 (leBytes 8 0x3001)) 0x3000 (leBytes 8 leaf)
def walked (s : State) : Nat := match (walk s 0 0 0 0 true).2 with
  | .ok _ _ => 0
  | .absent _ => 1
  | .prot _ _ => 2
  | .held _ => 3
theorem test_witness_ResultAndMemoryEvents :
    (let s := withWave base fun w => { w with out := [{ id := 7, rows := [1], keys := [128], vec := [(128, 5)] }] }
     tbGet? s.waves 0 = some (waveAt s 0) ∧ ((waveAt s 0).out[0]?).any (·.ready) = true ∧ spWf 0 (waveAt s 0).regs.vec = true) ∧
    (let s := withWave base fun w => { w with ctl := { w.ctl with wait := .spin } }
     (waveAt s 0).ctl.wait = .spin ∧ (waveAt s 0).tim.spinUntil ≤ (waveAt s 0).tim.wtime) ∧
    (let s := withWave base fun w => { w with ctl := { w.ctl with wait := .pushes } }
     (waveAt s 0).ctl.wait = .pushes ∧ releaseClear s 0 = true) ∧
    (let k : Commit := { line := 1, island := 0, wave := 0, writes := [(130, 9)], start := 0 }
     let s := withIsland (withDev base fun d => { d with commits := [k], cycle := 5 }) fun i => { i with repstall := 4 }
     s.dev.commits[0]? = some k ∧ k.reported = false ∧ (islandAt s k.island).repstall < s.dev.cycle - k.start ∧ tbGet? s.waves k.wave = some (waveAt s 0)) ∧
    islAsid (islandAt (tables 0xF9) 0) = 0 ∧ 0 < 2 ^ 57 ∧ 3 < 4 ∧ walked (tables 0xF9) = 0 ∧ walked (tables 0) = 1 ∧ walked (tables 0xFB) = 2 := by
  decide +kernel
def ways : State := withBlock base fun b => recPut b 0 4 0x20
theorem test_witness_FenceAndConfiguration : ready base 0 0 { closes := false } = true ∧ scopeLevel 0 = 0 ∧ releaseClear base 0 = true ∧
    (let s := withMode base (6 * 2 ^ 13); ready s 0 0 { closes := true } = true ∧ modeSC (seen s 0 0).split.mode = 6 ∧ scopeLevel 6 ≠ 0) ∧
    (let s := withWave base fun w => { w with commits := 1 }; ready s 0 0 { closes := false } = true ∧ releaseClear s 0 = false) ∧
    (let s := withSca base 2 (2 ^ 57)
     ready s 0 0 (useAddr 1 2) = true ∧ ((laneAddrs (seen s 0 0) 1 2).all fun p => decide (2 ^ 57 ≤ p.2)) = true) ∧ Memory.wf base.dev.mem = true ∧
    ready base 0 0 (useAddr 1 2) = true ∧ ready base 0 0 { sr := [5], closes := true } = true ∧
    (lbWayCfg (launchOf base (waveAt base 0)) && ownsCluster base 0 0) = false ∧
    (lbWayCfg (launchOf ways (waveAt ways 0)) && ownsCluster ways 0 0) = true ∧ waysLegal (3 * 2 ^ 8) = false ∧ waysLegal 0 = true ∧
    srcfgHeld ways 0 0 ways.nextId 0 = false ∧
    (let s := putCore ways 0 { coreAt ways 0 with copies := [{ pieces := [{ len := 1, dst := islFbase (islandAt ways 0) }] }] }
     ready s 0 0 { sr := [5], closes := true } = true ∧ srcfgHeld s 0 0 s.nextId 0 = true) ∧
    (let s := putCore { base with dev := { base.dev with mem := [(0, 1)] } } 0 { coreAt base 0 with tlb := [] }
     ready s 0 0 (useAddr 1 2) = true ∧ walkDue (waveAt s 0) (lanesOf s .global 0 1).2 = true ∧ walkDue (waveAt base 0) (lanesOf base .global 0 1).2 = false) ∧
    (let s := withSca ways 5 (3 * 2 ^ 8); ready s 0 0 { sr := [5], closes := true } = true) ∧
    2 ^ 18 / 2 ^ 18 ≠ 0 ∧ 2 ^ 13 / 2 ^ 13 % 8 ≠ 0 ∧ 2 ≤ 2 ^ 17 / 2 ^ 16 % 4 ∧ (groupAt base 0).grant < 1 % 2 ^ 13 ∧ 0 % 2 ^ 13 ≤ (groupAt base 0).grant := by
  decide +kernel
theorem test_witness_InstructionEnd : steady base 0 0 = true ∧ liveSplits (waveAt base 0) = [0] ∧
    (let s := withWave base fun w => { w with out := [{ id := 1 }] }
     steady s 0 0 = true ∧ (waveAt s 0).out ≠ [] ∧ holdOf (quarterAt s (waveAt s 0).quarter) 0 = some { wave := 0 }) := by decide +kernel

/-! Tiles and the matrix array. -/
def tagged (t : Nat) : State := withSca base 5 t
theorem test_witness_TileInstructions :
    (let u := tileUse [(0, 16)] [(16, 16)] [5] [5]
     ready (tagged (mkTag 0 0 5 1 1)) 0 0 u = true ∧ tagValid (mkTag 0 0 5 1 1) = true ∧ tagDom (mkTag 0 0 5 1 1) = 0 ∧
     ready (tagged (mkTag 1 5 7 0 1)) 0 0 u = true ∧ tagValid (mkTag 1 5 7 0 1) = true ∧ tagDom (mkTag 1 5 7 0 1) = 1 ∧
     ready (tagged 0) 0 0 u = true ∧ tagValid 0 = false) ∧
    ready base 0 0 (tileUse [(0, 16)] [(16, 16)] [] []) = true ∧ ready (tagged (mkTag 0 0 6 0 1)) 0 0 (tileUse [(0, 16), (16, 1)] [(0, 16)] [5] []) = true ∧
    (let c := seen base 0 0; 5 ∈ [5, 6, 7] ∧ 15 < tileRegs 5 ∧ 31 < c.view.width ∧ mbit c.view.ctl.exited 31 = false ∧
     ((List.range 16).all fun i => (List.range 16).all fun j =>
       rowOf c.view c.split.frame i != rowOf c.view c.split.frame j || i == j) = true) := by decide +kernel
/-- The group of the wave holds the accumulator slots of its quarter, tagged `t`, and one GiB is mapped. -/
def slotted (t n : Nat) : State :=
  let s := putCore (tagged t) 0 { coreAt base 0 with tlb := [{ island := 0, asid := 0, va := 0, size := 30, pa := 0, attrs := 0x79 }] }
  putQuarter s 0 { quarterAt s 0 with accHolder := some 0, accs := (quarterAt s 0).accs.map fun a => { a with tag := t },
                                      queue := List.replicate n { op := .mzero, wave := 0 } }
def slotFits (s : State) (access : Nat) (touched : State → List (Nat × Nat)) : Bool :=
  let p := slotLocate (waveAt s 0) access 0 (segsOf 0 2304) (entered (begun s 0 0 (tileUse [(0, 16)] [] [4, 5] [5])) 0 0 false)
  let t := walkOver p.1 0
  (gateTrap 4 access p.2).isNone && !walkDue (waveAt s 0) p.2 && !(p.2.any fun x => resAbsent x.res) && (slotWait t (waveAt s 0) access 0 (touched t)).isNone
/-- The image that TST stores of a block of zeros. -/
def storedImage (s : State) : List (Nat × Nat) :=
  let c := seen (begun s 0 0 (tileUse [(0, 16)] [] [4, 5] [5])) 0 0
  let t := mkTag 0 0 5 1 1
  (mapCols c 0 5 c.view.ctl.exited fun _ x => threshCol 5 0 (thGet c.view 1) { elems := x, flags := [] }).zipIdx.map fun p =>
    (2304 * p.2, (imageBytes t (colRows p.1)).length)
theorem test_witness_TileSlotInstructions :
    (let s := slotted (mkTag 0 0 5 1 1) 0
     ready s 0 0 (tileUse [(0, 16)] [] [4, 5] [5]) = true ∧ ready s 0 0 (tileUse [] [(0, 16)] [4] [5]) = true ∧
     ready s 0 0 (tileUse [] [] [4] [5]) = true ∧ holdsSlots s (waveAt s 0) = true ∧ holdsSlots base (waveAt base 0) = false ∧
     slotFits s 0 (fun u => imageRuns u (waveAt u 0) 0) = true ∧ slotFits s 1 (fun _ => storedImage s) = true ∧ tagValid (mkTag 0 0 5 1 1) = true) ∧ tagValid 0 = false ∧
    (let j : TileJob := { wave := 0, isFeed := true, rows := [{}] }
     let s := putCore base 0 { coreAt base 0 with pipe := [{ wave := 0 }, j] }
     (coreAt s 0).pipe = { wave := 0 } :: [j] ∧ j.isFeed = true ∧ j.res = 0 ∧ j.rows = [{}] ∧ (quarterAt s j.quarter).feed.length < 128) := by
  decide +kernel
theorem test_witness_MatrixAndLayoutInstructions :
    (let s := slotted (mkTag 0 0 5 1 1) 3
     ready s 0 0 (matUse [] [] [5] [] false) = true ∧ ready s 0 0 (matUse [(0, 16)] [] [5] [] true) = true ∧
     ready s 0 0 (matUse [(0, 16), (16, 8)] [] [] [] true) = true ∧ ready s 0 0 (matUse [(16, 8)] [] [] [] true) = true ∧
     ready s 0 0 (matUse [] [(0, 16)] [5] [5] true) = true ∧ (holdsSlots s (waveAt s 0) && queueRoom s (waveAt s 0)) = true ∧
     tagValid ((sget (waveAt s 0) 5).toNat % 2 ^ 32) = true ∧ tagValid (accSlot (quarterAt s 0) 0).tag = true ∧ (waveAt s 0).width = 32) ∧
    (let s := slotted 0 0; holdsSlots s (waveAt s 0) = true ∧ tagValid (accSlot (quarterAt s 0) 0).tag = false) ∧
    (let s := slotted (mkTag 0 0 5 1 1) 4; holdsSlots s (waveAt s 0) = true ∧ queueRoom s (waveAt s 0) = false) ∧
    ready base 0 0 (useSr 5) = true ∧ 1 % 2 ^ 19 % 32 ≠ 0 ∧ (groupAt base 0).limit * 128 < 0 + 32 ∧ 0 + 32 ≤ (groupAt (scratched 8) 0).limit * 128 ∧
    engineRange (groupAt (scratched 8) 0) 0 32 = false ∧ layoutLegal (List.replicate 32 0) = false ∧ layoutLegal defaultLayout = true ∧
    accPoison (scratched 8) 0 32 { lane := 0, addr := 0, res := .spad ((groupAt (scratched 8) 0).base * 128) } = false ∧
    ready (scratched 8) 0 0 (matUse [] [(0, 8)] [5] [] true) = true ∧ layEsz defaultLayout ∈ [1, 2, 4] ∧
    ((List.range (1024 / layEsz defaultLayout)).all fun k => let o := mldbOff defaultLayout 0 k
      decide (o % (layEsz defaultLayout : Int) = 0 ∧ 0 ≤ o ∧ o + layEsz defaultLayout ≤ (groupAt (scratched 8) 0).limit * 128)) = true := by
  decide +kernel
theorem test_witness_MatrixEvents :
    ([MatOp.mzero, .mwra, .mma, .mmaq, .mrda, .mmax].all fun op =>
      (quarterAt (putQuarter base 0 { quarterAt base 0 with queue := [{ op := op, wave := 0 }] }) 0).queue.length == 1) = true ∧
    meetReady (putQuarter base 0 { quarterAt base 0 with queue := [{ op := .mmax, wave := 0 }] }) { op := .mmax, wave := 0 } 0 = false ∧
    tagEt (mkTag 0 0 7 0 1) = 7 ∧ 2 ^ 36 - 1 < 2 ^ 36 ∧ ¬ (signedOf 36 (2 ^ 35) - 1 : Int) ≥ -(2 ^ 35) ∧ (2 ^ 35 : Int) ≤ signedOf 36 (2 ^ 35 - 1) + 1 := by
  decide +kernel
/-- Four waves of one role, one on each quarter of core 0, whose group holds every quarter's slots; wave 0 issues, and those of `met` have an MMAX
queued. -/
def fourWaves (met : List Nat) : State :=
  let b := withBlock base fun b => recPut b 56 8 (4 * 2 ^ 24 + 2 * 2 ^ 32 + 15 * 2 ^ 40)
  let s := withGroup b fun g => { g with waves := [0, 1, 2, 3] }
  [0, 1, 2, 3].foldl (fun s q =>
    let cmds : List MatCmd := if met.contains q then [{ op := .mmax, wave := q, tag := mkTag 0 0 5 1 1 }] else []
    putQuarter (putWave s q { waveAt base 0 with quarter := q, num := q }) q
      { slots := some { wave := q } :: List.replicate 7 none, accs := List.replicate 4 { tag := mkTag 0 0 5 1 1 }, accHolder := some 0, queue := cmds }) s
theorem test_witness_MatrixAndLayoutInstructions_meet : ∀ met ∈ [[], [1, 2, 3]],
    let s := fourWaves met
    let um := matUse [(0, 16), (16, 8)] [] [] [] true
    let e := entered (begun s 0 0 um) 0 0 false
    let s1 := pushCmd e 0 (newCmd (seen (begun s 0 0 um) 0 0) e .mmax 0 (mkTag 0 0 5 1 1))
    let wvs := roleWavesOf s1 (waveAt s1 0)
    ready s 0 0 um = true ∧ holdsSlots s (waveAt s 0) = true ∧ queueRoom s (waveAt s 0) = true ∧ tagValid (accSlot (quarterAt s 0) 0).tag = true ∧
    (waveAt s 0).width = 32 ∧ roleCovers (launchOf s (waveAt s 0)).block (waveAt s 0).role = true ∧ wvs.length = 4 ∧
    (wvs.all fun k => (openMmax s1 k).isSome) = !met.isEmpty ∧
    (∀ m ∈ wvs.filterMap (openMmax s1), m.acc = 0 ∧ sameDomain m.tag (mkTag 0 0 5 1 1) = true) := by decide +kernel

/-! Copies and rings. -/
/-- Addresses of the scratchpad (R271). -/
def inSpad (off : Nat) : Nat := 2 ^ 63 + off
def planOf (s : State) (dst src len : Nat) : CopyPlan := cpyPlan .cpy s 0 [0] dst src len
def noTrap (e : Option Eff) : Bool := e.isNone
def traps2 (e : Option Eff) : Bool := match e with
  | some (.trap 0x02 0 _) => true
  | _ => false
theorem test_witness_CopyInstructions :
    (let s := scratched 8; let e := entered s 0 0 false
     ready s 0 0 (useCopy 1 2 3) = true ∧ ready s 0 0 (useRows 1 2 3) = true ∧ ready s 0 0 { useCopy 1 2 3 with closes := true } = true ∧
     noTrap (planTrap e 0 0 (planOf e (inSpad 256) (inSpad 0) 200) false) = true ∧ (planOf e (inSpad 256) (inSpad 0) 200).bytes ≠ 0 ∧
     (planOf e (inSpad 256) (inSpad 0) 0).bytes = 0 ∧ refEn 0 = false ∧ copiesQueued s 0 < 32 ∧
     traps2 (planTrap e 0 0 (planOf e (inSpad 1020) (inSpad 0) 200) false) = true ∧ isScratch (inSpad 256) = true ∧
     isScratch 0 = false ∧ endBad 0 = false ∧ endBad (2 ^ 57) = true ∧
     traps2 (planTrap e 0 0 (cpyPlan .multi e 0 [0, 0] (inSpad 256) (inSpad 0) 200) (decide ((groupAt s 0).atoll < (groupAt s 0).member + 2))) = true) ∧
    (let s := withSca (withSca (withVec (scratched 64) 2 fun l => l) 1 (inSpad 1024)) 3 (inSpad 0)
     let e := entered s 0 0 false
     noTrap (planTrap e 0 0 (rowsPlan false e 1 2 3 0 (seen s 0 0)) false) = true ∧ (rowsPlan true e 1 2 3 0 (seen s 0 0)).bytes = 512 ∧
     noTrap (planTrap e 0 0 (rowsPlan true e 1 2 3 0 (seen s 0 0)) false) = true) ∧
    (let u : Usage := { useCopy 1 2 3 with skipExec := true, collective := true, closes := true }
     let s := scratched 8
     let e := entered (begun s 0 0 u) 0 0 true
     ready s 0 0 u = true ∧ noTrap (planTrap e 0 0 (cpyPlan (.collective 5 1) e 0 [0] (inSpad 256) (inSpad 0) 16) false) = true) := by decide +kernel

def copied (c : CopyCmd) : State := putCore (scratched 8) 0 { coreAt (scratched 8) 0 with copies := [c] }
/-- A reference to slot 1 of the ring at offset 512 (R272). -/
def slotRef : Nat := 512 * 2 ^ 44 + 2 ^ 39 + 2 ^ 32
/-- That ring, of three slots, slot 1 with the word `w`. -/
def ringed (s : State) (w : Nat) : State := withSca (ringPut (ringPut s 0 512 4 2) 0 (slotOff 512 1) 8 w) 5 slotRef
theorem test_witness_BatchAndRingInstructions :
    (ready base 0 0 (useSw 5) = true ∧ ready base 0 0 (useSr 5) = true ∧ batchOver (entered base 0 0 false) 0 1 = true ∧
     (batchFailure (entered base 0 0 false) 0 1).isNone = true) ∧
    (let s := copied { batch := 1, pieces := [{ len := 1 }] }; ready s 0 0 (useSr 5) = true ∧ batchOver (entered s 0 0 false) 0 1 = false) ∧
    (let c : CopyCmd := { id := 9, batch := 1, failed := some (0x0F, 64) }
     let s := copied c
     ready s 0 0 (useSr 5) = true ∧ batchOver (entered s 0 0 false) 0 1 = true ∧ batchFailure (entered s 0 0 false) 0 1 = some c) ∧
    (let s := ringed (scratched 8) 0; let uc : Usage := { useSr 5 with closes := true }
     ready s 0 0 uc = true ∧ ready s 0 0 (useSr 5) = true ∧ ready s 0 0 { sr := [5, 6], closes := true } = true ∧
     refGood s 0 slotRef = true ∧ refHdr slotRef = 512 ∧ refSlot slotRef = 1 ∧ ringFailure (entered s 0 0 false) 0 (512, 1) = none ∧
     slotPhase (slotWord (entered s 0 0 false) 0 512 1) = refPh slotRef ∧ releaseClear s 0 = true ∧ spWf 0 (coreAt s 0).spad = true ∧
     refGood base 0 slotRef = false ∧ spadGood s 0 512 (16 + 8 * 3) = true ∧ spadGood base 0 512 (16 + 8 * 3) = false ∧
     (∀ u ∈ [uc, { sr := [5, 6], closes := true }, useSr 5], ready base 0 0 u = true) ∧
     (∀ e, slotEntry s 0 512 1 = some e → e = (ringNat s 0 (slotOff 512 1) 8, none)) ∧
     2 ^ 19 / 2 ^ 19 % 2 ^ 13 ≠ 0 ∧ slotRef / 2 ^ 38 % 4 ≠ 0 ∧ (512 + 2 * 2 ^ 32) / 2 ^ 38 % 4 = 0) ∧
    (let s := ringed (scratched 8) (2 ^ 36); ready s 0 0 (useSr 5) = true ∧ refGood s 0 slotRef = true ∧ ringFailure (entered s 0 0 false) 0 (512, 1) = none ∧
     slotPhase (slotWord (entered s 0 0 false) 0 512 1) ≠ refPh slotRef) ∧
    (let s := ringed (copied { slot := some (512, 1), dests := [0], failed := some (0x0F, 64) }) (2 ^ 37)
     ready s 0 0 (useSr 5) = true ∧ refGood s 0 slotRef = true ∧ ringFailure (entered s 0 0 false) 0 (512, 1) = some (0x0F, 64, 0)) := by decide +kernel

def onePiece : CopyPiece := { src := inSpad 0, dst := inSpad 256, len := 128, placed := true, data := some (List.replicate 128 7) }
def running (hop : Nat) : CopyCmd :=
  { id := 5, kind := .multi, dests := [0, 0], started := true,
    pieces := if hop = 0 then [onePiece] else [{ onePiece with done := true }, { onePiece with hop := 1 }] }
def pieceGoes (s : State) (c : CopyCmd) (p : CopyPiece) : Bool :=
  let r := pieceBad s 0 c p
  let q := endLocate (copyAsker 0 c) (hopGroup c p.hop) 1 (p.dst + p.pos) (chunkLen c p) r.1
  r.2.isNone && !(q.2.any (segWait q.1 0 c.id)) && (hopData c p).isSome && (p.hop != 0 || (c.owed.isEmpty && !settles s 0 c p))
theorem test_witness_CopyEvents :
    (let c : CopyCmd := { id := 5 }; copyAt (copied c) 0 0 = some c ∧ isCollective c = false ∧ c.started = false ∧
     startsBefore (copied c) ((coreAt (copied c) 0).copies.take 0) = true) ∧
    (copyAt (copied (running 0)) 0 0 = some (running 0) ∧ (running 0).pieces[0]? = some onePiece ∧ pieceTurn (running 0) 0 onePiece = true ∧
     onePiece.done = false ∧ onePiece.fault = none ∧ pieceGoes (copied (running 0)) (running 0) onePiece = true) ∧
    (let p : CopyPiece := { onePiece with hop := 1 }; let s := copied (running 1)
     (running 1).pieces[1]? = some p ∧ pieceTurn (running 1) 1 p = true ∧ pieceGoes s (running 1) p = true ∧ hopGood s (running 1) 1 = true ∧
     hopGood (withGroup s fun g => { g with limit := 1 }) (running 1) 1 = false) := by decide +kernel

/-! Queues, beams and work graphs. -/
/-- BCFG: 4 entries at offset 0, one reserved, a fragment queue of 4 records at offset 1024 (R316). -/
def bcWord : Nat := 4 * 2 ^ 11 + 2 ^ 22 + 32 * 2 ^ 32 + 4 * 2 ^ 46
/-- A descriptor: a triangle in a window of 4 by 4 pixels (R318). -/
def beamDesc : List Nat := [12, 0, 4 + 4 * 2 ^ 8, 0, 0, 2 ^ 26, 0, 0, 4] ++ List.replicate 7 0
def beamBind : List Nat := [0, 1024, 2048, 1]
def beamed (f : Group → Group) : State := withGroup (scratched 64) fun g => f { g with bcfg := bcWord, scene := some beamBind }
def aBeam : Beam := { id := 5, desc := beamDesc, bind := beamBind, cam := some [] }
/-- A graph of one node with batches of two records and a pool of one block, bound as graph 2. -/
def aGraph (l : NodeList) : Graph := { desc := leBytes 8 0 ++ leBytes 4 1 ++ leBytes 4 (1 + 2 * 2 ^ 8) ++ List.replicate 48 0, nodes := [(0, 2, 5)], lists := [l] }
def graphed (l : NodeList) (s : State) : State := putGraph s 0 2 (aGraph l)
theorem test_witness_QueueInstructions :
    (let up : Usage := { vr := [(0, 16)], legal := true, closes := true }
     ready (beamed id) 0 0 up = true ∧ (groupAt (beamed id) 0).scene = some beamBind ∧ (groupAt (beamed id) 0).bcfg ≠ 0 ∧
     ready base 0 0 up = true ∧ (groupAt base 0).scene = none ∧ holdsSlots base (waveAt base 0) = false ∧
     (let s := slotted 0 0; ready s 0 0 up = true ∧ holdsSlots s (waveAt s 0) = true ∧ realLanes (seen s 0 0) ≠ [] ∧
      feedReady s 0 (waveAt s 0) (realLanes (seen s 0 0)).length = true) ∧
     (let s := withWave (slotted 0 0) fun w => { w with ctl := { w.ctl with helpers := maskLow 32 } }
      ready s 0 0 up = true ∧ holdsSlots s (waveAt s 0) = true ∧ realLanes (seen s 0 0) = []) ∧
     (let s := slotted 0 0; let s := putQuarter s 0 { quarterAt s 0 with feed := List.replicate 100 {} }
      ready s 0 0 up = true ∧ holdsSlots s (waveAt s 0) = true ∧ realLanes (seen s 0 0) ≠ [] ∧
      feedReady s 0 (waveAt s 0) (realLanes (seen s 0 0)).length = false)) ∧
    (let uo : Usage := { vw := [(0, 8)], legal := true, closes := true, collective := true, skipExec := true, allLanes := true }
     ready (beamed fun g => { g with q1 := [emptyRecord] }) 0 0 uo = true ∧ ready base 0 0 uo = true ∧ (groupAt base 0).beams = [] ∧
     (let s := beamed fun g => { g with beams := [aBeam] }; ready s 0 0 uo = true ∧ (groupAt s 0).q1 = [] ∧ (groupAt s 0).beams ≠ [])) ∧
    (let uo : Usage := { vw := [(0, 16)], legal := true, closes := true }
     ready base 0 0 uo = true ∧ (groupAt base 0).node = none ∧
     (let s := withGroup (graphed {} base) fun g => { g with node := some { graph := 2 } }
      ready s 0 0 uo = true ∧ graphOf s 0 2 = some (aGraph {}))) ∧
    ready priv 0 0 { vw := [(0, 8)], legal := true, priv := true, closes := true } = true ∧
    ready base 0 0 { useSw 5 with legal := true, priv := false } = true ∧ ready priv 0 0 { useSw 5 with legal := true, priv := true } = true := by
  decide +kernel

/-- Bytes put into the first page of memory, which is mapped, with scalar register 5 naming their address. -/
def recorded (va : Nat) (bytes : List Nat) : State := withSca (homeWrite (mapped 0x79) va bytes) 5 va
def recordAt (s : State) (closes : Bool) (n : Nat) : State × List (Seg × LaneRes) :=
  let e := entered s 0 0 closes
  locate (askerOf e 0) 0 (segsOf (sget (waveAt s 0) 5).toNat n) e
def readable (s : State) (closes : Bool) (n : Nat) : Bool :=
  let f := recordAt s closes n
  passes (f.1, segAccs f.2) 0 && !(f.2.any (segPoison f.1 (askerOf s 0))) &&
    !recordWalks (entered s 0 0 closes) (askerOf s 0) (sget (waveAt s 0) 5).toNat n
def recordBytes (s : State) (closes : Bool) (n : Nat) : List Nat :=
  let f := recordAt s closes n
  f.2.flatMap (segBytes f.1 (askerOf s 0))
def sceneRecord : List Nat := leBytes 8 64 ++ leBytes 8 1024 ++ leBytes 8 2048 ++ leBytes 4 1 ++ leBytes 4 0
def graphRecord (table : Nat) : List Nat :=
  leBytes 8 1024 ++ leBytes 4 (4 + 2 ^ 16) ++ leBytes 4 (1 + 2 * 2 ^ 8) ++ leBytes 8 table ++ List.replicate 40 0
def nodeRow : List Nat := leBytes 8 2048 ++ leBytes 4 (2 + 5 * 2 ^ 4) ++ leBytes 4 0
/-- A block of one 32-lane wave, class 1 (R355 to R357). -/
def blockBytes : List Nat :=
  leBytes 4 (1 * 2 ^ 12) ++ leBytes 4 0 ++ leBytes 8 (1 + 2 ^ 21 + 2 ^ 42) ++ List.replicate 40 0 ++
    leBytes 8 (2 ^ 24 + 2 * 2 ^ 32 + 2 ^ 40) ++ List.replicate 64 0
theorem test_witness_GraphInstructions :
    (let u1 : Usage := { useSr 5 with closes := true }
     ready base 0 0 u1 = true ∧ bcLegal 1 = false ∧ bcLegal bcWord = true ∧ bcFits (groupAt base 0) bcWord = false ∧
     bcFits (groupAt (scratched 64) 0) bcWord = true ∧ beamBusy (groupAt base 0) = false ∧
     beamBusy (groupAt (beamed fun g => { g with beams := [aBeam] }) 0) = true) ∧
    (let s := recorded 128 sceneRecord
     ready s 0 0 (useSr 5) = true ∧ 128 % 32 = 0 ∧ readable s false 32 = true ∧ sceneLegal (recordBytes s false 32) = true ∧
     sceneLegal (recordBytes (recorded 128 []) false 32) = false) ∧
    (let s := recorded 128 (graphRecord 256)
     let s := homeWrite s 256 nodeRow
     let n : Graph := { desc := recordBytes s true 64 }
     let z := onWave (recordAt s true 64).1 0 fun w => noteReads (endReplay w) 0 (accKeys (segAccs (recordAt s true 64).2))
     ready s 0 0 { useSr 5 with closes := true } = true ∧ readable s true 64 = true ∧ recGet n.desc 0 8 ≠ 0 ∧ descLegal n = true ∧ graphBusy s 0 n = false ∧ poolTaken s 0 n = false ∧
     (match (readNodes (seen s 0 0) (fun z ns => (leaveSlots (bindGraph z 0 true n ns) 0, .done)) (gNodes n) (gTable n) [] z).2 with
      | .done => true
      | _ => false) = true) ∧
    (let s := recorded 128 (List.replicate 12 0 ++ leBytes 4 (2 * 2 ^ 8))
     let n : Graph := { desc := recordBytes s true 64 }
     readable s true 64 = true ∧ recGet n.desc 0 8 = 0 ∧ unbindLegal n = true ∧ graphBusy s 0 n = false) := by decide +kernel
theorem test_witness_GraphInstructions_tasks :
    (let uq : Usage := { sr := [5], sw := [5] }
     ready (withSca (graphed {} base) 5 2) 0 0 uq = true ∧ (2 : Nat) / 2 ^ 3 = 0 ∧ graphOf (graphed {} base) 0 2 = some (aGraph {}) ∧
     graphOf (graphed {} base) 0 3 = none ∧ (8 : Nat) / 2 ^ 3 ≠ 0) ∧
    (let s := recorded 128 blockBytes
     let b := recordBytes s true 128
     ready s 0 0 { useSr 5 with closes := true } = true ∧ readable s true 128 = true ∧ blClass b = 1 ∧ (launchOf s (waveAt s 0)).cls ≤ 1 ∧
     blPriv b = false ∧ releaseClear s 0 = true ∧ (0 + 2 ^ 32 - 0) % 2 ^ 32 < 2 ^ islQueueLog (islandAt s 0) 1) ∧
    (let s := recorded 128 (recPut blockBytes 0 4 0); blClass (recordBytes s true 128) < (launchOf s (waveAt s 0)).cls) ∧
    (let ua : Usage := { vr := [(0, 16)], sr := [5], closes := true }
     ready base 0 0 ua = true ∧ 2 ^ 9 / 2 ^ 9 ≠ 0 ∧ nodeBound base 0 2 0 = false ∧ nodeBound (graphed {} base) 0 2 0 = true ∧
     (let s := withWave base fun w => { w with ctl := { w.ctl with helpers := BitVec.allOnes 128 } }
      (realLanes (seen s 0 0)) = []) ∧ realLanes (seen base 0 0) ≠ []) ∧
    (let s := recorded 128 (leBytes 8 (1 + 2 * 2 ^ (32 + 6)))
     let p := resolveLanes .global (waveAt s 0) 2 64 [(0, 128)] (entered s 0 0 true)
     let x := p.2.headD { lane := 0, addr := 0, res := .absent 0 }
     let r := readAcc 0 0 8 2 (releasePush (walkOver p.1 0) 0 0 5) x
     ready s 0 0 { useSr 5 with closes := true } = true ∧ p.2 = [x] ∧ passes p 0 = true ∧ accPoisonAt 2 (releasePush (walkOver p.1 0) 0 0 5) 0 8 x = false ∧
     r.2 % 2 ^ 32 = 1 ∧ r.2 / 2 ^ 38 % 2 ^ 3 = 2) := by decide +kernel
def works (f : Group → Group) : Bool := (workingGroup (beamed f) 0).isSome
def fullGroup (g : Group) : Group := { g with q1 := List.replicate 4 emptyRecord }
def rayEntry (cands : List BeamCand) : PoolEntry := { beam := 5, poly := [⟨1, 1⟩], cands := cands, outside := true, ray := some (1, 1, 1) }
theorem test_witness_BeamEvents :
    (let r : BeamRoot := { desc := beamDesc }
     let g := groupAt (beamed fun g => { g with roots := [r], scene := some beamBind }) 0
     works (fun g => { g with roots := [r] }) = true ∧ g.scene.getD [] = beamBind ∧ g.roots = [r] ∧ waitOrders g = [] ∧ bcReserve g.bcfg + 1 ≤ poolFree g ∧
     descCause beamDesc beamBind = 0 ∧ descCause (beamDesc.set 0 0) beamBind ≠ 0) ∧
    (let e (w : List Nat) : PoolEntry := { beam := 5, poly := testRegion beamDesc, stack := w }
     let f (w : List Nat) (g : Group) : Group := { g with beams := [aBeam], pool := [e w] }
     let g (w : List Nat) := groupAt (beamed (f w)) 0
     works (f [4]) = true ∧ (e [4]).ended = false ∧ emitStalled (g [4]) = false ∧ (beamOf (g [4]) 5).cam = some [] ∧ (g [4]).pool[0]? = some (e [4]) ∧ (5 : Nat) % 4 = 1 ∧
     (let s := putCore (beamed (f [1])) 0 (coreAt (mapped 0x79) 0)
      (match (sceneRead s 0 (beamOf (groupAt s 0) 5) 0 16).2 with
       | .words ws => ws.length == 16
       | _ => false) = true)) ∧
    (groupAt (beamed fun g => { g with beams := [aBeam], pool := [{ beam := 5, ended := true }] }) 0).pool[0]? = some { beam := 5, ended := true } ∧
    (let f (cs : List BeamCand) (g : Group) : Group := { g with beams := [aBeam], pool := [rayEntry cs] }
     works (f []) = true ∧ (groupAt (beamed (f [])) 0).pool[0]? = some (rayEntry []) ∧
     visibleAt (testRegion beamDesc) [] ⟨1, 1⟩ = none ∧ visibleAt (testRegion beamDesc) [{}] ⟨1, 1⟩ = some {} ∧
     bcFqCap (groupAt (beamed (fullGroup ∘ f [{}])) 0).bcfg ≤ (groupAt (beamed (fullGroup ∘ f [{}])) 0).q1.length ∧
     (groupAt (beamed (f [{}])) 0).q1.length < bcFqCap (groupAt (beamed (f [{}])) 0).bcfg) ∧
    (let b : Beam := { aBeam with desc := beamDesc.set 0 13 }
     let g := groupAt (beamed fun g => { g with beams := [b] }) 0
     works (fun g => { g with beams := [b] }) = true ∧ ((groupPending g)[0]?).isSome = true ∧ g.q1.length < bcFqCap g.bcfg) ∧
    (let g := groupAt (beamed fun g => { g with beams := [aBeam] }) 0
     g.beams.find? (fun z => z.id == 5) = some aBeam ∧ beamIdle g aBeam = true ∧ (pendingOf g aBeam).isEmpty = true) := by decide +kernel

def waitsToAppend (recs : List (List Nat)) : State :=
  withWave (graphed {} base) fun w => { w with ctl := { w.ctl with wait := .append }, apnd := { graph := 2, recs := recs } }
theorem test_witness_GraphEvents :
    (let s := waitsToAppend []
     tbGet? s.waves 0 = some (waveAt s 0) ∧ (waveAt s 0).ctl.wait = .append ∧ (waveAt s 0).apnd.fault = none ∧
     (groupAt s (waveAt s 0).group).away = false ∧ appendNext s 0 = (s, .done)) ∧
    (let l : NodeList := { recs := [(0, [])], timer := some 0 }
     let s := withDev (graphed l base) fun d => { d with cycle := 5 }
     graphOf s 0 2 = some (aGraph l) ∧ 0 < (aGraph l).lists.length ∧ (aGraph l).lists.getD 0 {} = l ∧ l.recs ≠ [] ∧
     0 + nodeTimeout (aGraph l) 0 ≤ s.dev.cycle) ∧
    (let x : Successor := { graph := 2 }
     let s := withIsland (graphed {} base) fun i => { i with succ := [x] }
     (islandAt s 0).succ.find? (fun x => x.graph == 2) = some x ∧ x.fault = none ∧ nodeBound s 0 x.graph x.node = true ∧
     nodeBound s 0 3 0 = false) ∧
    (let p : ParkedTask := { blocks := [(0, [])] }
     let s := withIsland base fun i => { i with parkQ := [p] }
     (islandAt s 0).parkQ = [p] ∧ (islandAt s 0).fqWait = [] ∧ fqUsed (islandAt s 0) + 1 ≤ 2 ^ islFqLog (islandAt s 0)) := by decide +kernel
/-- A graph whose pool lies in the mapped page and has one free block, and a list that the next record completes. -/
def poolGraph : Graph := { aGraph { recs := [(1, [])], timer := some 0 } with
  desc := leBytes 8 1024 ++ leBytes 4 1 ++ leBytes 4 (1 + 2 * 2 ^ 8) ++ List.replicate 48 0 }
def pooled : State := putGraph (mapped 0x79) 0 2 poolGraph
theorem test_witness_GraphEvents_append : ∃ t, appendOne pooled 0 2 0 { core := 0, isl := 0, priv := false } 0 (List.replicate 64 0) = (t, .done) := by
  have h : graphOf pooled 0 2 = some poolGraph := by decide +kernel
  have hf : freeBlocks poolGraph = [0] := by decide +kernel
  have e : (appendOne pooled 0 2 0 { core := 0, isl := 0, priv := false } 0 (List.replicate 64 0)).2 = .done := by
    unfold appendOne
    simp only [h, hf, List.length_singleton, Nat.mod_one]
    decide +kernel
  exact ⟨_, by rw [← e]⟩

/-! The barrel and the distributor. -/
/-- A second ready wave in the pending set of the quarter, of a group whose launch has class `cls`; the launch of the first has `own`. -/
def rivals (own cls hold : Nat) : State :=
  let s := withLaunch base fun l => { l with cls := own }
  let s := putLaunch s 1 { launchAt base 0 with cls := cls }
  let s := putGroup s 1 { groupAt base 0 with launch := 1, waves := [1] }
  let s := putWave s 1 { waveAt base 0 with group := 1, tim := { (waveAt base 0).tim with ready := true } }
  putQuarter s 0 { quarterAt s 0 with slots := some { wave := 0, hold := hold } :: List.replicate 7 none }
/-- The first wave in all eight slots, four waves wide each. -/
def crowded (own cls : Nat) : State := let s := rivals own cls 0; putQuarter s 0 { quarterAt s 0 with slots := List.replicate 8 (some { wave := 0 }) }
def armed (at' : Nat) : State :=
  withWave base fun w => { w with evt := { w.evt with trapvec := 64 }, tim := { w.tim with tmcmp := BitVec.ofNat 64 (2 ^ 63 + at'), wtime := 10 } }
theorem test_witness_BarrelEvents :
    grantee base 0 0 = none ∧ grantee (withDev (rivals 1 1 0) fun d => { d with cycle := 3 }) 0 3 = some 1 ∧
    (let s := rivals 1 1 4
     tbGet? s.waves 0 = some (waveAt s 0) ∧ holdOf (quarterAt s 0) 0 = some { wave := 0, hold := 4 } ∧
     ((pendingReady s 0).any fun e => decide (classOf s e.2 ≤ classOf s (waveAt s 0))) = true) ∧
    (holdOf (quarterAt base 0) 0 = some { wave := 0 } ∧ tbGet? base.waves 0 = some (waveAt base 0)) ∧
    displaceGroup (crowded 1 0) 1 (waveAt (crowded 1 0) 1) = some 0 ∧ displaceGroup (crowded 0 1) 1 (waveAt (crowded 0 1) 1) = none ∧
    (let s := armed 10; let w := waveAt s 0
     tbGet? s.waves 0 = some w ∧ w.tim.tmcmp.getLsbD 63 = true ∧ w.tim.tmcmp.toNat % 2 ^ 63 ≤ w.tim.wtime ∧ timerSplit s 0 w = some 0) ∧
    (let w := waveAt (armed 11) 0; w.tim.wtime < w.tim.tmcmp.toNat % 2 ^ 63) := by decide +kernel

/-- Island 0 with launch queues of 4 entries at 4096 for each class, and `entry` in the first place of the normal one. -/
def queued (tail : Nat) (entry : List Nat) : State :=
  let s := withIsland base fun i =>
    { i with entry := [0, 1, 2].foldl (fun e c => recPut e (40 + 8 * c) 8 (4096 * (c + 1) + 2)) i.entry, tails := [0, tail, 0] }
  homeWrite { s with launches := [], groups := [], waves := [] } 8192 entry
def rtBlock (b : List Nat) : List Nat := recPut (recPut (recPut (recPut b 0 4 0x80) 100 4 3) 104 8 10) 112 8 5
def rtLaunch (run : Bool) : Launch := { island := 0, cls := 0, block := rtBlock blockBytes, running := run }
def oneLaunch (l : Launch) (cycle : Nat) : State := { withDev base (fun d => { d with cycle := cycle }) with launches := [(0, l)] }
theorem test_witness_DistributorEvents :
    (let s := queued 1 blockBytes; let i := islandAt s 0
     s.dev.pwrState = 0 ∧ hasQueue i 1 = true ∧ (1 + 2 ^ 32 - 0) % 2 ^ 32 ≤ (3 % 2 ^ 32 + 2 ^ 32 - 0) % 2 ^ 32 ∧
     (3 % 2 ^ 32 + 2 ^ 32 - 0) % 2 ^ 32 ≤ 2 ^ islQueueLog i 1 ∧ 2 ^ islQueueLog i 1 < (5 % 2 ^ 32 + 2 ^ 32 - 0) % 2 ^ 32 ∧
     i.heads.getD 1 0 ≠ i.tails.getD 1 0 ∧ (queueLaunch s 0 1).isNone = true ∧
     (let pa := islQueueBase i 1 + 128 * (0 % 2 ^ islQueueLog i 1)
      let r := recallLine s (pa / 128)
      isPoisoned r (pa / 128) = false ∧ blockGood (homeBytes r pa 128) 1 (islPrivQ i) (onEveryDie i) = true ∧
      blockGood (homeBytes (recallLine (queued 1 []) (pa / 128)) pa 128) 1 false false = false)) ∧
    ([false, true].all fun run =>
      let s := oneLaunch (rtLaunch run) 0
      tbGet? s.launches 0 == some (rtLaunch run) && blRt (rtLaunch run).block && decide (0 < blRepeat (rtLaunch run).block) &&
        decide (0 + 0 * blPeriod (rtLaunch run).block ≤ s.dev.cycle)) = true ∧
    (let l : Launch := { rtLaunch true with deadline := 5 }
     tbGet? (oneLaunch l 5).launches 0 = some l ∧ l.late = false ∧ l.deadline ≤ (oneLaunch l 5).dev.cycle) ∧
    (let l : Launch := { block := blockBytes, running := true }
     let s := oneLaunch l 0
     tbGet? s.launches 0 = some l ∧ launchWaits l = true ∧ higherWaits s 0 1 = false ∧ priorityWaits s 0 1 = false ∧ deadlineWaits s 0 l = false ∧
     launchFits s l 0 0 = true) ∧
    (let wide : List Nat := recPut (recPut (recPut blockBytes 0 4 (7 * 2 ^ 8 + 2 ^ 12)) 4 4 4096) 8 8 (8 + 2 ^ 21 + 2 ^ 42)
     let s := putLaunch (withGroup base fun g => { g with grant := 1 }) 1 { block := wide, running := true }
     tbGet? s.groups 0 = some (groupAt s 0) ∧ movable s 0 = true ∧ moveFits s 0 3 = true ∧
     (let z := withWave s fun w => { w with out := [{}] }; movable z 0 = false ∧ mayMove z 0 = true ∧ moveFits z 0 3 = true)) ∧
    groupOver base 0 = false ∧ (let s := { base with waves := [] }; (tbGet? s.groups 0).isSome = true ∧ groupOver s 0 = true) := by decide +kernel

/-! Recovery. -/
def oweEvent (e : Imprecise) : State :=
  withWave (withSplit base fun x => { x with region := { x.region with isOpen := true, opened := 1 } }) fun w => { w with evt := { w.evt with imprecise := [e] } }
/-- Cluster 0 belongs to real-time island 1, which is owed it, and is lent to island 0. -/
def lentOut (c : Cluster) (cycle : Nat) : State :=
  let s := withIsland (withDev base fun d => { d with cycle := cycle }) fun i => { i with entry := recPut (recPut i.entry 0 4 2) 4 4 0x11 }
  let s := putIsland s 1 { islandAt base 0 with entry := recPut (recPut (islandAt base 0).entry 0 4 1) 4 4 0x10 }
  let s := putLaunch s 1 { island := 1, cls := 0, running := true }
  putCluster s 0 { c with lent := some 0 }
theorem test_witness_RecoveryEvents :
    (let e : Imprecise := { code := 0x12, opened := 1 }; let s := oweEvent e; let w := waveAt s 0
     tbGet? s.waves 0 = some w ∧ w.evt.imprecise[0]? = some e ∧ qualifies w e = true ∧ w.out = [] ∧ e.split < 4 ∧ w.ctl.splits.length = 4 ∧
     (getSplit w e.split).region.rollbacks + 1 ≠ 4 ∧ spWf 0 w.ctl.counters = true) ∧
    (let e : Imprecise := { code := 0x12, opened := 1 }; let s := withWave (oweEvent e) fun w => { w with out := [{}] }
     qualifies (waveAt s 0) e = true ∧ (waveAt s 0).out ≠ [] ∧ (waveAt s 0).evt.imprecise[0]? = some e) ∧
    (let e : Imprecise := { code := 0x12 }; let s := oweEvent e
     (waveAt s 0).evt.imprecise[0]? = some e ∧ qualifies (waveAt s 0) e = false ∧ e.kind = 0) ∧
    (let s := lentOut {} 0
     (clusterAt s 0).lent = some 0 ∧ ownerOf s 0 = some 1 ∧ (clusterAt s 0).reclaim = none ∧ isOwed s 1 = true) ∧
    (let s := lentOut { reclaim := some {} } 5000
     (clusterAt s 0).reclaim = some {} ∧ (ownerIsland s 0).t1 = 4600 ∧ 0 + (ownerIsland s 0).t1 ≤ s.dev.cycle ∧ copiesLeft s 0 = false) ∧
    (let s := putCore (lentOut { reclaim := some { swap := some 0 } } 5000) 0 { coreAt base 0 with copies := [{ pieces := [{}] }] }
     (clusterAt s 0).reclaim = some { swap := some 0 } ∧ 0 + (ownerIsland s 0).t2 ≤ s.dev.cycle ∧ copiesLeft s 0 = true) ∧
    (let s := lentOut { reclaim := some { swap := some 0 } } 5000
     (clusterAt s 0).reclaim = some { swap := some 0 } ∧ copiesLeft s 0 = false ∧ ∀ g ∈ clusterGroups s 0, rayBusy (groupAt s g) = false) ∧
    (let x : Saved := {}
     let s := putCluster (withGroup base fun g => { g with away := true }) 0 { saved := some x }
     (clusterAt s 0).saved = some x ∧ restoreDue s 0 = true) ∧
    (let s := putCluster (withGroup base fun g => { g with away := true }) 0 { saved := some { bad := true } }
     (clusterAt s 0).saved = some { bad := true } ∧ restoreDue s 0 = true ∧ lostGroups (contextBack 0 { bad := true } s) 0 = [0]) ∧
    (let s := putCluster base 0 { saved := some {} }; (clusterAt s 0).saved = some {} ∧ restoreDue s 0 = false) := by decide +kernel
/-- Lane 31 of g1 and entry 65 of slot 0 are in error. -/
def inError : State :=
  let s := withWave base fun w => { w with regs := { w.regs with bad := [laneKey 1 31] } }
  putQuarter s 0 { quarterAt s 0 with accs := [{ bad := [65] }], queue := [{ op := .mma, wave := 0 }] }
theorem test_witness_RegisterErrors :
    (let s := inError; let w := waveAt s 0
     tbGet? s.waves 0 = some w ∧ ready (putWave s 0 { w with regs := { w.regs with bad := [] } }) 0 0 (useVV 0 1) = true ∧
     mbit (actOf w 0) 31 = true ∧ laneKey (rowOf w (getSplit w 0).frame 1) 31 ∈ w.regs.bad ∧
     65 ∈ (accSlot (quarterAt s 0) 0).bad ∧ 64 ∉ (accSlot (quarterAt s 0) 0).bad ∧ spWf 0 (accSlot (quarterAt s 0) 0).entries = true ∧
     (∀ e ∈ (accSlot (quarterAt s 0) 0).bad, (fun _ => false) e = false)) := by decide +kernel
/-- What an outcome's next state shows of it. -/
def nextHas (o : Host.Outcome State Machine.Fault Refusal) (p : State → Bool) : Bool := match o with
  | .next t => p t
  | _ => false
theorem test_error_read : nextHas (exec (.mov false 0 1) inError) (fun t =>
    ((waveAt t 0).evt.imprecise.map fun e => (e.code, e.kind, e.aux2)) == [(0x12, 13, 1)] && (waveAt t 0).regs.bad == [laneKey 1 31]) = true := by
  decide +kernel
theorem test_error_written : nextHas (exec (.movi false 1 5) inError) (fun t =>
    (waveAt t 0).evt.imprecise.isEmpty && (waveAt t 0).regs.bad.isEmpty) = true := by decide +kernel
theorem test_entry_error : (let r := readSlot inError 0 { op := .mma, wave := 0 } fun e => decide (e % 64 < 16)
    r.2.bad.isEmpty && ((waveAt r.1 0).evt.imprecise.map fun e => (e.kind, e.aux2)) == [(13, 2 ^ 31 + 65)]) = true := by decide +kernel
theorem test_witness_VerdictAndInvalidationEvents :
    slotIndex (islandAt base 0) 0 = none ∧
    (let s := withIsland base fun i => { i with entry := recPut i.entry 64 8 (4096 + 3), fqTail := 2, pending := [{ slot := 1 }] }
     slotIndex (islandAt s 0) 1 = some 1 ∧ tbGet? s.waves 0 = some (waveAt s 0) ∧ fqUsed (islandAt s 0) < (3 + 2 ^ 32 - 0) % 2 ^ 32 ∧
     (2 % 2 ^ 32 + 2 ^ 32 - (islandAt s 0).fqHead) % 2 ^ 32 ≤ fqUsed (islandAt s 0) ∧
     (islandAt ((List.range 2).foldl (fun s k => applyVerdict 0 (((islandAt s 0).fqHead + k) % 2 ^ 32) false s) s) 0).fqWait = [] ∧
     (∀ p ∈ (islandAt s 0).pending, p.slot ≠ 0)) ∧
    (waveAt base 0).evt.refetch = none ∧
    (let s := withWave base fun w => { w with evt := { w.evt with refetch := some 3 } }
     tbGet? s.waves 0 = some (waveAt s 0) ∧ (waveAt s 0).evt.refetch = some 3) ∧
    base.dev.pwrState = 0 ∧ (islandAt base 0).tlbinv % 2 = 0 ∧
    (let s := withIsland base fun i => { i with tlbinv := 5 }
     (islandAt s 0).tlbinv % 2 = 1 ∧ (∀ c ∈ s.dev.commits, c.island ≠ 0)) := by decide +kernel
theorem test_witness_HostEvents :
    (let s := { base with launches := [] }
     let i := islandAt s 0
     let new : Island := { i with entry := tableEntry i.entry i.entry }
     s.dev.pwrState = 0 ∧ launchInFlight s 0 = false ∧ islSealed new = islSealed i ∧ entryClash s 0 new = false ∧ i.q4 = [] ∧ i.q4wait = []) ∧
    (let s := withIsland { base with launches := [] } fun i => { i with entry := recPut (recPut i.entry 4 4 4) 24 8 4096, keyGen := some 1 }
     let i := islandAt s 0
     let new : Island := { i with entry := tableEntry i.entry (recPut i.entry 24 8 8192) }
     s.dev.pwrState = 0 ∧ launchInFlight s 0 = false ∧ islSealed i = true ∧ islSealed new = islSealed i ∧ entryClash s 0 new = false ∧
     islCarve i ≠ islCarve new ∧ inCarve i 100 = true ∧ (∀ e ∈ s.islands, e.1 ≠ 0 → islSealed e.2 = true → islKeySlot e.2 ≠ islKeySlot i) ∧
     sealedLine s 0 = true ∧ lineWait s 0 = none ∧ 0 < accessSize (.read 4) ∧ 0 % 128 + accessSize (.read 4) ≤ 128) ∧
    base.dev.mailbox ≠ 2 ∧ 0 % 256 = 0 ∧ 4 < 5 % 256 ∧ 4 % 256 ∈ [1, 2, 3, 4] ∧ (withDev base fun d => { d with mailbox := 2 }).dev.mailbox = 2 ∧
    spWf 0 base.dev.retention = true ∧
    (let s := withDev base fun d => { d with commits := [{ line := 0, island := 0, wave := 0 }] }; ∃ l ∈ spanLines 100 2, lineWait s l ≠ none) ∧
    launchInFlight base 0 = true ∧ (let s := withIsland base fun i => { i with q4 := [{}] }; (islandAt s 0).q4 = [{}]) ∧
    6 % 4 ≠ 3 ∧ 0x7FFFF < 0x80000 ∧ 4 % 8 ≠ 0 ∧ 2 ^ 38 - 4 + accessSize (.read 4) ≤ 2 ^ 38 ∧
    (∀ l ∈ spanLines 100 (accessSize (.write [1, 2])), lineWait base l = none) ∧ (∀ l ∈ spanLines 100 2, sealedLine base l = false) ∧
    (∀ l ∈ spanLines (2 ^ 51 + 100) 2, lineWait base l = none) := by decide +kernel
def powered (st req : Nat) : State := { State.reset with dev := { pwrState := st, pwrReq := req } }
theorem test_witness_PowerAndDebugEvents :
    (powered 0 1).dev.pwrState = 0 ∧ (powered 0 1).dev.pwrReq ≠ 0 ∧ deviceIdle (powered 0 1) = true ∧ (powered 1 0).dev.pwrReq = 0 ∧
    (powered 1 2).dev.pwrState = 1 ∧ (powered 2 0).dev.pwrState = 2 ∧ (powered 3 0).dev.pwrState = 3 := by decide +kernel

/-! Steps. -/
/-- The next step of this machine runs `word`. -/
def about (word : Nat) : State := placeWord State.reset word
def fetches (word : Nat) : Bool :=
  match fetchWord { about word with turn := (about word).turn + 1 } (askerOf (about word) 0) (getSplit (waveAt (about word) 0) 0).pc with
  | (_, .word w) => w == word
  | _ => false
theorem test_witness_StepRunsDecodedInstruction : ∀ word ∈ [0b0_10001101_00000000000000000000000, 0],
    let s := about word
    s.dev.frozen = false ∧ quietDue s = none ∧ s.agenda = [] ∧ s.dev.mailCmd = none ∧ s.dev.pwrState = 0 ∧ dozeDue s = false ∧ deviceDue s = none ∧
    (s.quarters[s.turn]?).isSome = true ∧
    quarterDue s 0 = none ∧ stuckWave s 0 = none ∧ grantee s 0 (s.dev.cycle % 8) = none ∧ issuer s (quarterAt s 0) (s.dev.cycle % 8) = some 0 ∧
    chooseSplit (waveAt s 0) = some 0 ∧ fetches word = true := by decide +kernel
def reads (word : Nat) (i : Instr) : Bool := match decodeBytes (wordBytes word) with
  | .ok p => p == (i, [])
  | .error _ => false
theorem test_witness_StepRunsDecodedInstruction_words :
    reads 0b0_10001101_00000000000000000000000 (.exit false) = true ∧ isLegalWord 0 = false := by decide +kernel
theorem test_witness_StepOrder :
    (let s : State := { State.reset with dev := { frozen := true }, agenda := [.dozeEntry] }
     s.dev.frozen = true ∧ ∀ x ∈ s.agenda, actsFrozen x = false) ∧
    actsFrozen .powerRemoval = true ∧ encode .dozeEntry = none ∧ encode (.exit false) ≠ none ∧ (powered 1 1).dev.pwrReq = 1 ∧
    2 ≤ (powered 3 0).dev.pwrState ∧ actsFrozen (.registerWrite (2 ^ 26) 0) = true ∧ 2 ^ 26 ≤ 2 ^ 26 ∧
    (withDev State.reset fun d => { d with mailCmd := some (3, 0) }).dev.mailCmd = some (3, 0) ∧
    quietDue State.reset = none ∧
    (let s := State.reset; dozeDue s = false ∧ deviceDue s = none ∧ s.quarters.length ≤ s.turn) ∧
    tbGet? base.waves 0 = some (waveAt base 0) := by decide +kernel
theorem test_witness_IssueChecks : base.cur = some (0, 0) ∧
    ({ legal := false } : Usage).legal = false ∧ privileged base (waveAt base 0) = false ∧ privileged priv (waveAt priv 0) = true ∧
    (∀ r ∈ winRegs [(31, 1)], r < 0) ∧ ¬ (∀ r ∈ winRegs [(32, 1)], r < 0) ∧ actOf (waveAt base 0) 0 ≠ 0 ∧
    (let s := withWave base fun w => { w with ctl := { w.ctl with counters := (List.range 32).map fun l => (l, 1) } }
     actOf (waveAt s 0) 0 = 0 ∧ tbGet? s.waves 0 = some (waveAt s 0)) ∧
    (let s := withWave base fun w => { w with regs := { w.regs with strict := true }, out := [{ rows := [1], scalars := [3] }] }
     (waveAt s 0).regs.strict = true ∧ ∃ r ∈ (waveAt s 0).out, 3 ∈ r.scalars) ∧ isLegalWord 0 = false ∧
    isLegalWord 0b0_10001101_00000000000000000000000 = true := by decide +kernel
theorem test_witness_RegistersReadBack : ∀ w ∈ [waveAt base 0],
    spWf 0 w.regs.vec = true ∧ w.width ≤ 128 ∧ spWf 0 w.regs.sca = true ∧ spWf 0 w.regs.msk = true ∧ spWf 0 w.regs.th = true := by decide +kernel
theorem test_witness_EventAndFaultRecords :
    (let i := islandAt base 0; i.q4.length < 256 ∧ i.q4wait = [] ∧ i.fqWait = [] ∧ fqUsed i < 2 ^ islFqLog i ∧ i.fqTail < 2 ^ 32 ∧
     Memory.wf base.dev.mem = true ∧ (∀ v ∈ [255], v < 256)) ∧
    (let i := islandAt (withIsland base fun i => { i with q4 := List.replicate 256 {}, fqTail := 1 }) 0
     256 ≤ i.q4.length ∧ i.q4.length ≤ 256 ∧ 2 ^ islFqLog i ≤ fqUsed i) ∧
    (12 : Nat) ∈ [1, 9, 11, 12] ∧ (10 : Nat) ∉ [1, 9, 11, 12] := by decide +kernel
theorem test_witness_DecodeOfEncode : encode (.iaddi true 127 64 (-256)) ≠ none ∧ wellFormed (.iaddi true 127 64 (-256)) = true ∧
    0b1_00011100_1111111_1000000_100000000 < 2 ^ 32 ∧
    reads 0b1_00011100_1111111_1000000_100000000 (.iaddi true 127 64 (-256)) = true := by decide +kernel
/-- A running machine, and one that stores: the memory has its form before and after, and the step goes on. -/
theorem test_witness_StepKeepsMemoryForm : Memory.wf (about 0).dev.mem = true ∧
    (match step (about 0) with
     | .next t => Memory.wf t.dev.mem
     | _ => false) = true := by decide +kernel
theorem test_witness_StepKeepsForms : formed State.reset ∧ (match step State.reset with
    | .next _ => true
    | _ => false) = true :=
  ⟨⟨tbGet_all (p := fun w => waveFormed w = true) (by decide +kernel) (by decide +kernel),
    tbGet_all (p := fun c : Core => spWf 0 c.spad = true) (by decide +kernel) (by decide +kernel),
    tbGet_all (p := fun c : Cluster => ∀ x, c.saved = some x → ∀ e ∈ x.cores, spWf 0 e.2.spad = true) (by decide +kernel) (by decide +kernel),
    tbGet_all (p := fun i : Island => i.q4.length ≤ 256) (by decide +kernel) (by decide +kernel),
    tbGet_all (p := fun g : Group => g.phases.length = 16) (by decide +kernel) (by decide +kernel)⟩, by decide +kernel⟩
theorem test_witness_StepAlwaysGoesOn : (about 0).dev.frozen = false ∧ (about 0).agenda = [] ∧
    (match step (about 0b0_10001101_00000000000000000000000) with
     | .next _ => true
     | _ => false) = true := by decide +kernel

/-! Single steps. The values are the spec's own, from the worked example named in each comment, or follow by hand from the rule. -/
/-- Words that the spec writes out beside their source, in the text of its instruction files. -/
theorem test_words_written_out : decodesTo
    [(0x49802284, .frame false 4 20 4), (0x48804400, .callx false 34), (0x4A870000, .rdlink false 7), (0x29860A10, .fcvt false 6 5 4),
     (0x35070602, .qswap false 7 3 2), (0x3A890000, .cwrd false 9 0), (0x5083085C, .st false 3 4 11 4),
     (0x52090342, .ldu false 9 1 5 2), (0x58304040, .haar false 48 32 8), (0x59801442, .tst false 0 10 8 2), (0x60024060, .mma false 2 32 24),
     (0x63980038, .mldb false 24 7), (0x63000A00, .mlayout false 5), (0x64040A30, .cpy false 4 5 6), (0x668D0000, .batch false 13),
     (0x44090005, .brs false 9 5), (0x45800400, .jmpx false 2), (0x4F000A00, .tmset false 5), (0x69806000, .qpush false 0 48),
     (0x6C802014, .apnd false 16 5), (0x4E00000F, .bararv false 15), (0x4B801234, .trap false 0x1234), (0xDC102048, .tact true 16 16 9 0)] = true := by
  decide +kernel
/-- The worked example after R139: lanes 0 to 15 active, ET = 7, SAT = 1. -/
def bytesHeld : State :=
  withMode (withWave (withVec (withVec base 1 fun _ => 0x7F8010F0) 2 fun _ => 0x01807020) fun w =>
    { w with ctl := { w.ctl with counters := (List.range 16).map fun k => (16 + k, 1) } }) 0x10E0
theorem test_iadd_clamps : waveOf (.iadd false 3 1 (.vec 2)) bytesHeld (lane0 3) = some 0x7F807F10 ∧
    waveOf (.iadd false 3 1 (.vec 2)) bytesHeld (·.regs.flags) = some flSA ∧
    waveOf (.iadd false 3 1 (.vec 2)) bytesHeld (fun w => (vget w {} 3 16).toNat) = some 0 := by decide +kernel
theorem test_imulh_bytes : waveOf (.imulh false 4 1 (.vec 2)) bytesHeld (lane0 4) = some 0x004007FE := by decide +kernel
theorem test_icmple_all_elements : waveOf (.icmple false 1 1 (.vec 3)) (withVec bytesHeld 3 fun _ => 0x7F807F10) (fun w => (mget w 1).toNat) = some 0xFFFF := by
  decide +kernel
theorem test_saddi_borrows : waveOf (.saddi false 6 5 (-128)) (withSca base 5 0x000123456789ABCD) (fun w => (sget w 6).toNat) = some 0x000123456789AB4D := by
  decide +kernel
theorem test_s0_discards : waveOf (.saddi false 0 5 1) (withSca base 5 7) (fun w => (sget w 0).toNat) = some 0 := by decide +kernel
/-- The worked example after R153. -/
theorem test_dot4_bytes : waveOf (.dot4 false 3 1 (.vec 2)) (withMode (withVec (withVec (withVec base 1 fun _ => 0x7F8102FE) 2 fun _ => 0x030405FF) 3
    fun _ => 100) 0xE0) (lane0 3) = some 0xFFFFFFF1 := by decide +kernel
theorem test_qscale_rounds_once : waveOf (.qscale false 5 3 (.sca 7)) (withMode (withSca (withVec base 3 fun _ => 0xFFFFFFF1) 7 0x3DCCCCCD) 0xE0)
    (fun w => (lane0 5 w, w.regs.flags)) = some (0xBFC00000, flNX) := by decide +kernel
def halves : State := withMode (withVec (withVec base 4 fun _ => 0x7E013C00) 8 fun _ => 0xFC00BC00) 0xA0
theorem test_fmin_takes_the_number : waveOf (.fmin false 7 4 (.vec 8)) halves (fun w => (lane0 7 w, w.regs.flags)) = some (0xFC00BC00, 0) := by decide +kernel
theorem test_fadd_gives_canonical_nan : waveOf (.fadd false 9 4 (.vec 8)) halves (fun w => (lane0 9 w, w.regs.flags)) = some (0x7E000000, 0) := by
  decide +kernel
/-- R129 and R130, by hand. -/
theorem test_bfx_sign : waveOf (.bfx false 3 1 (.vec 2)) (withVec (withVec base 1 fun _ => 0x0AB0) 2 fun _ => 0x0804) (lane0 3) = some 0xFFFFFFAB := by
  decide +kernel
theorem test_clz : waveOf (.clz false 3 1) (withVec base 1 fun _ => 0x8000) (lane0 3) = some 16 := by decide +kernel
theorem test_brev_bytes : waveOf (.brev false 3 1) (withMode (withVec base 1 fun _ => 0x01020380) 0xE0) (lane0 3) = some 0x8040C001 := by decide +kernel
/-- The worked example of the lane instructions: m1 holds the odd lanes, and MODE 3 guards on it. -/
def oddLanes : State := withMode (withWave (withVec base 1 id) fun w => mset w 1 0xAAAAAAAA#128) 3
theorem test_redadd_under_guard : waveOf (.redadd false 8 1) oddLanes (fun w => (sget w 8).toNat) = some 256 := by decide +kernel
theorem test_scanadd_under_guard : waveOf (.scanadd false 4 1) oddLanes (fun w => ((vget w {} 4 2).toNat, (vget w {} 4 5).toNat)) = some (0, 9) := by
  decide +kernel
theorem test_cross_lane_reads_guarded_off : waveOf (.iadd false 5 1 (.xlane 1)) (withMode oddLanes 0x07F00003) (fun w => (vget w {} 5 1).toNat) = some 1 := by
  decide +kernel
/-- R394, R395: TRAP resumes after itself, with its immediate, in the handler. -/
theorem test_trap_entry :
    let s := withMode (withWave base fun w => { w with evt := { w.evt with trapvec := 0x40 } }) 3
    let s := withWave s fun w => mset w 1 1#128
    waveOf (.trap false 0x1234) s (fun w => (w.evt.cause.toNat, w.evt.tpc, (getSplit w 0).pc, (getSplit w 0).mode.toNat)) =
      some (3 * 2 ^ 32 + 0x1234 * 2 ^ 16 + 0x8011, 4, 0x40, 0) := by decide +kernel
/-- R395: with no trap vector the launch ends, and the wave with it. -/
theorem test_trap_without_vector : (after (.trap false 0) base).map (fun t => (t.waves, (launchAt t 0).fault)) = some ([], true) := by decide +kernel
/-- The worked example after R105: the fourth frame finds too little room and parks. -/
theorem test_frame_parks :
    let s := withSplit (withWave base fun w => { w with win := { w.win with records := [{}, { start := 13, base := 9, link := 13 },
      { start := 38, base := 34, link := 38 }, { start := 63, base := 59, link := 63 }], bottom := 13, top := 64, bsize := 0x8000, bused := 1668 } }) fun x =>
      { x with frame := { base := 59, nin := 4 } }
    waveOf (.frame false 4 20 4) s (fun w => ((getSplit w 0).park.kind, (getSplit w 0).pc)) = some (.room 24, 0) := by decide +kernel
/-- The worked example after R195: a word that holds 100, and eight lanes that add 1. -/
theorem test_atom_lanes_in_order :
    let s := withMode (withSca (withVec (homeWrite (mapped 0x79) 256 (leBytes 4 100)) 3 fun _ => 1) 10 256) 0xA000
    let s := withWave s fun w => { w with ctl := { w.ctl with counters := (List.range 24).map fun k => (8 + k, 1) } }
    (after (.atom false 3 2 10 0 false) s).map (fun t => (homeNat t 256 4, (waveAt t 0).out.map fun r => r.vec.map fun e => e.2.toNat)) =
      some (108, [[100, 101, 102, 103, 104, 105, 106, 107]]) := by decide +kernel
theorem test_store_then_byte :
    (after (.st false 3 4 11 4) (withSca (withVec (withVec (mapped 0x79) 3 fun l => 100 + l) 4 fun l => 4 * l) 11 256)).map
      (fun t => (List.range 4).map fun k => (viewByte t 0 0 (260 + k)).toNat) = some [101, 0, 0, 0] := by decide +kernel
/-- The worked example after R241's files: the tile store writes the header 0x14A9, 24, 176, 0. -/
theorem test_tst_header :
    let s := withVec (scratched 64) 0 fun p => [0xB8003C00, 0xB8003D00, 0xB8004000, 0xB8004000].getD (p % 4) 0
    let s := withMode (withSca (withSca s 8 0xA0) 10 (2 ^ 63 + 0x1000)) 0x100000A0
    let s := withWave s fun w => (List.range 5).foldl (fun w k => thSet w 2 (k + 1) 0x3400) w
    (after (.tst false 0 10 8 2) s).map (fun t => (List.range 4).map fun k => spadNat t 0 (0x1000 + 4 * k) 4) = some [0x14A9, 24, 176, 0] := by decide +kernel
/-- The worked example after R329: five records, in three quads. -/
theorem test_qpop_packs_quads :
    let r (w0 prim : Nat) : List Nat := [w0, prim, 0, 1, 1, 0, 0, 0]
    let s := beamed fun g => { g with beams := [aBeam], q1 := [r 0x30004 7, r 0x38005 7, r 0x1000A 9, r 0x30004 8, r 0x38004 7] }
    (after (.qpop false 8 1) s).map (fun t => (waveAt t 0).out.map fun z => (List.range 13).map fun l => (spGet 0 z.vec (8 * 128 + l)).toNat) =
      some [[0x30004, 0x30005, 0x38004, 0x38005, 0x1000A, 0x1000B, 0x1800A, 0x1800B, 0x30004, 0x30005, 0x38004, 0x38005, 0xFFFFFFFF]] := by decide +kernel
/-- R284: a header with its slot count, capacity and cleared slots. -/
theorem test_rnginit :
    (after (.rnginit false 10) (withSca (scratched 64) 10 0x0004000100000000)).map (fun t => (ringNat t 0 0 4, ringNat t 0 4 4, slotWord t 0 0 1)) =
      some (1, 1024, 0) := by decide +kernel
/-- The worked example after R295: one slot that waits for 1024 bytes and an arrival. -/
theorem test_rarrv_declares :
    let s := ringPut (scratched 64) 0 0 4 1
    (after (.rarrv false 9 11) (withSca (withSca s 9 0x0000008000000000) 11 0x10000400)).map (fun t => slotWord t 0 0 0) = some (1024 + 2 ^ 28) := by
  decide +kernel
/-- R382: the last arrival completes the barrier. -/
theorem test_bar_alone : (after (.bar false 2) base).map (fun t => ((groupAt t 0).phases.getD 2 false, (getSplit (waveAt t 0) 0).pc)) = some (true, 4) := by
  decide +kernel
/-- R377: the last lanes of the last split leave. -/
theorem test_exit_ends_wave : (after (.exit false) base).map (·.waves) = some [] := by decide +kernel
/-- R42, R351: a machine that fetches EXIT runs it. -/
theorem test_step_runs_exit : (match step (about 0x46800000) with
    | .next t => t.waves.isEmpty
    | _ => false) = true := by decide +kernel

end Sys2Proof.Tests
end

section
/-!
The frame of the instructions that write registers only (R1, R90, R125), and the state that an instruction leaves when it is over (R95).
-/
namespace Sys2Proof.Machine

/-! The split goes on at a pc. -/
section
variable (s : State) (wv sp pc : Nat) (z : Wave)

theorem waveAt_goesTo : waveAt (goesTo s wv sp pc) wv = putSplit (waveAt s wv) sp { unparked (getSplit (waveAt s wv) sp) with pc := pc } := by
  simp [goesTo]
theorem waveAt_goesTo_ne {k : Nat} (h : k ≠ wv) : waveAt (goesTo s wv sp pc) k = waveAt s k := waveAt_putWave_ne _ _ _ _ h

/-- R1, R90, R125: `t` is `s` but for wave `wv`, read from memory, a cache or a scratchpad; the wave is `z`, but that split `sp` goes on at `pc`. -/
def WritesWaveOnly (s t : State) (wv sp pc : Nat) (z : Wave) (core isl a n : Nat) : Prop :=
  t.dev = s.dev ∧ homeByte t a = homeByte s a ∧ viewByte t core isl a = viewByte s core isl a ∧ spadNat t core a n = spadNat s core a n ∧
  t.quarters = s.quarters ∧ t.islands = s.islands ∧ t.groups = s.groups ∧ t.launches = s.launches ∧
  (∀ k, k ≠ wv → waveAt t k = waveAt s k) ∧
  (waveAt t wv).regs = z.regs ∧ (waveAt t wv).win = z.win ∧ (waveAt t wv).evt = z.evt ∧ (waveAt t wv).tim = z.tim ∧
  (waveAt t wv).out = z.out ∧ (waveAt t wv).batch = z.batch ∧ (waveAt t wv).layout = z.layout ∧
  (waveAt t wv).ctl.counters = z.ctl.counters ∧ (waveAt t wv).ctl.exited = z.ctl.exited ∧ (waveAt t wv).ctl.helpers = z.ctl.helpers ∧
  (∀ i, i ≠ sp → getSplit (waveAt t wv) i = getSplit z i) ∧
  (sp < z.ctl.splits.length → getSplit (waveAt t wv) sp = { unparked (getSplit z sp) with pc := pc })

/-- Writing a wave and going on touches nothing else; a free choice that is spent is no part of the machine. -/
theorem writesWaveOnly_goesTo (free core isl a n : Nat) :
    WritesWaveOnly s (goesTo (putWave { s with free := free } wv z) wv sp pc) wv sp pc z core isl a n := by
  have hwv : waveAt (goesTo (putWave { s with free := free } wv z) wv sp pc) wv = putSplit z sp { unparked (getSplit z sp) with pc := pc } := by
    rw [waveAt_goesTo, waveAt_putWave]
  have hne (k : Nat) (hk : k ≠ wv) : waveAt (goesTo (putWave { s with free := free } wv z) wv sp pc) k = waveAt s k := by
    rw [waveAt_goesTo_ne _ _ _ _ hk, waveAt_putWave_ne _ _ _ _ hk]; rfl
  unfold WritesWaveOnly
  rw [hwv]
  exact ⟨rfl, rfl, rfl, rfl, rfl, rfl, rfl, rfl, hne, rfl, rfl, rfl, rfl, rfl, rfl, rfl, rfl, rfl, rfl,
    fun i hi => getSplit_putSplit_ne _ _ _ _ hi, getSplit_putSplit_self _ _ _⟩
end

/-- An instruction that is over jumps to PC + 4. -/
theorem ends_eq_jumps (s : State) (wv sp : Nat) (u : Usage) (f : Wave → Wave) :
    ends s wv sp u f = jumps s wv sp u f (pcNext (getSplit (f (openIssue (waveAt s wv) sp u.closes)) sp).pc) := by
  simp only [ends, jumps, stepped, waveAt_putWave]

/-! The wave as its instruction issues (R399). -/
@[simp] theorem openIssue_evt (w : Wave) (sp : Nat) (cl : Bool) : (openIssue w sp cl).evt = w.evt := by cases cl <;> rfl
@[simp] theorem openIssue_tim (w : Wave) (sp : Nat) (cl : Bool) : (openIssue w sp cl).tim = w.tim := by cases cl <;> rfl
@[simp] theorem openIssue_counters (w : Wave) (sp : Nat) (cl : Bool) : (openIssue w sp cl).ctl.counters = w.ctl.counters := by cases cl <;> rfl
theorem getSplit_openIssue_ne (w : Wave) (cl : Bool) {i sp : Nat} (h : i ≠ sp) : getSplit (openIssue w sp cl) i = getSplit w i := by
  cases cl with
  | false => rfl
  | true => exact getSplit_putSplit_ne w sp i _ h

/-! What the end of an instruction leaves of the machine around its wave (R27, R95). -/
/-- `t` is `s` but for wave `wv`, the slots of the quarters and the model's own counters. -/
structure SameOutside (wv : Nat) (s t : State) : Prop where
  waves : ∀ k, k ≠ wv → waveAt t k = waveAt s k
  dev : t.dev = s.dev
  cores : t.cores = s.cores
  clusters : t.clusters = s.clusters
  islands : t.islands = s.islands
  groups : t.groups = s.groups
  launches : t.launches = s.launches

theorem SameOutside.trans {wv : Nat} {s t u : State} (h : SameOutside wv s t) (g : SameOutside wv t u) : SameOutside wv s u where
  waves k hk := (g.waves k hk).trans (h.waves k hk)
  dev := g.dev.trans h.dev
  cores := g.cores.trans h.cores
  clusters := g.clusters.trans h.clusters
  islands := g.islands.trans h.islands
  groups := g.groups.trans h.groups
  launches := g.launches.trans h.launches
theorem sameOutside_refl (wv : Nat) (s : State) : SameOutside wv s s := ⟨fun _ _ => rfl, rfl, rfl, rfl, rfl, rfl, rfl⟩
theorem sameOutside_putWave (wv : Nat) (s : State) (w : Wave) : SameOutside wv s (putWave s wv w) :=
  ⟨fun _ hk => waveAt_putWave_ne _ _ _ _ hk, rfl, rfl, rfl, rfl, rfl, rfl⟩

/-- R27: the slots of the wave fall vacant, and its age counts from now. -/
def vacated (s : State) (wv : Nat) : State :=
  putWave (putQuarter s (waveAt s wv).quarter (vacate wv (quarterAt s (waveAt s wv).quarter))) wv
    { waveAt s wv with tim := { (waveAt s wv).tim with age := max s.dev.cycle ((waveAt s wv).tim.passEnd - 1) } }

/-- R27, R85: a wave leaves its slots unless it holds none or is pinned to them. -/
theorem leaveSlots_cases (s : State) (wv : Nat) :
    (leaveSlots s wv = s ∧ ∀ h, holdOf (quarterAt s (waveAt s wv).quarter) wv = some h → h.pin = true) ∨ leaveSlots s wv = vacated s wv := by
  unfold leaveSlots
  dsimp only
  split
  · next hn => exact .inl ⟨rfl, fun h hh => by simp [hn] at hh⟩
  · next h hs =>
    split
    · next hp => exact .inl ⟨rfl, fun h' hh => by rw [hs] at hh; cases hh; exact hp⟩
    · exact .inr rfl

theorem holdOf_vacate (q : Quarter) (wv : Nat) : holdOf (vacate wv q) wv = none := by
  simp only [holdOf, vacate, List.findSome?_eq_none_iff, List.mem_map]
  rintro _ ⟨h, _, rfl⟩
  rcases h with _ | x
  · rfl
  · by_cases hx : x.wave = wv <;> simp [hx]

theorem sameOutside_leaveSlots (s : State) (wv : Nat) : SameOutside wv s (leaveSlots s wv) := by
  rcases leaveSlots_cases s wv with ⟨h, -⟩ | h
  · rw [h]; exact sameOutside_refl wv s
  · rw [h]; exact ⟨fun _ hk => waveAt_putWave_ne _ _ _ _ hk, rfl, rfl, rfl, rfl, rfl, rfl⟩
/-- Of the wave that leaves, only its age changes. -/
theorem waveAt_leaveSlots (s : State) (wv : Nat) :
    ∃ age, waveAt (leaveSlots s wv) wv = { waveAt s wv with tim := { (waveAt s wv).tim with age := age } } := by
  rcases leaveSlots_cases s wv with ⟨h, -⟩ | h
  · exact ⟨(waveAt s wv).tim.age, by rw [h]⟩
  · exact ⟨_, by rw [h, vacated, waveAt_putWave]⟩
theorem holdOf_leaveSlots {s : State} {wv : Nat} {h : SlotHold} (hh : holdOf (quarterAt s (waveAt s wv).quarter) wv = some h)
    (hp : h.pin = false) : holdOf (quarterAt (leaveSlots s wv) (waveAt s wv).quarter) wv = none := by
  rcases leaveSlots_cases s wv with ⟨-, hpin⟩ | hl
  · simp [hpin h hh] at hp
  · have hq : quarterAt (vacated s wv) (waveAt s wv).quarter = vacate wv (quarterAt s (waveAt s wv).quarter) := tbGet_tbPut_self
    rw [hl, hq, holdOf_vacate]

/-! An instruction that is over, and the switch marker after it (R25, R28, R95). -/
/-- The wave waits for its outstanding results. -/
def marked (w : Wave) : Wave := { w with ctl := { w.ctl with wait := .marker } }

theorem marker_on {s : State} {wv : Nat} {w : Wave} (hw : w.ctl.wait = .no) (ho : w.out ≠ []) :
    marker (putWave s wv w) wv true = putWave s wv (marked w) := by
  simp [marker, tbGet?_tbPut_self, hw, ho, putWave, tbPut_tbPut, marked]
theorem settleSlots_marked (s : State) (wv : Nat) (w : Wave) :
    settleSlots (putWave s wv (marked w)) wv = leaveSlots (putWave s wv (marked w)) wv := by
  simp [settleSlots, tbGet?_tbPut_self, marked]

section
variable {t : State} {wv sp : Nat} {y coll : Bool} (hs : steady t wv sp = true) (hc : coll = true → liveSplits (waveAt t wv) = [sp])
include hs hc

/-- A lone split that completes, collectively or not, goes on; then come the marker and the slots. -/
theorem finish_done_eq : finish t wv sp y coll .done = settleSlots (marker (stepped t wv sp) wv y) wv := by
  obtain ⟨hres, -⟩ := steady_iff.1 hs
  simp only [finish, onWave_eq hres, stepped, goesTo]
  cases coll with
  | false => rfl
  | true => simp [stepCollective, hc rfl, List.filter, mapSplits, stepPast_eq]

/-- With S set and results outstanding, the wave waits for them, and leaves its slots. -/
theorem finish_done_marked (hy : y = true) (ho : (waveAt t wv).out ≠ []) :
    finish t wv sp y coll .done = leaveSlots (putWave t wv (marked (waveAt (stepped t wv sp) wv))) wv := by
  obtain ⟨-, -, -, -, hwait⟩ := steady_iff.1 hs
  have hst : stepped t wv sp = putWave t wv (waveAt (stepped t wv sp) wv) := by rw [stepped, waveAt_goesTo]; rfl
  have hw := waveAt_goesTo t wv sp (pcNext (getSplit (waveAt t wv) sp).pc)
  rw [finish_done_eq hs hc, hst, hy, marker_on, settleSlots_marked, waveAt_putWave]
  · rw [stepped, hw]; exact hwait
  · rw [stepped, hw]; exact ho
end

/-- R95: the wave after its instruction: its split at PC + 4, at the marker when S is set and results are outstanding. -/
def overWave (w : Wave) (sp : Nat) (y : Bool) (age : Nat) : Wave :=
  let w1 := putSplit w sp (stepPast (getSplit w sp))
  { w1 with ctl := { w1.ctl with wait := if y = true ∧ w.out ≠ [] then .marker else .no }, tim := { w1.tim with age := age } }

theorem getSplit_overWave {w : Wave} {sp : Nat} (y : Bool) (age : Nat) (h : sp < w.ctl.splits.length) :
    getSplit (overWave w sp y age) sp = stepPast (getSplit w sp) := getSplit_putSplit_self w sp _ h
theorem getSplit_overWave_ne (w : Wave) {i sp : Nat} (y : Bool) (age : Nat) (h : i ≠ sp) : getSplit (overWave w sp y age) i = getSplit w i :=
  getSplit_putSplit_ne w sp i _ h

theorem finish_done_over {t : State} {wv sp : Nat} {y coll : Bool} (h4 : sp < 4) (hs : steady t wv sp = true)
    (hc : coll = true → liveSplits (waveAt t wv) = [sp]) :
    SameOutside wv t (finish t wv sp y coll .done) ∧ ∃ age, waveAt (finish t wv sp y coll .done) wv = overWave (waveAt t wv) sp y age := by
  obtain ⟨-, -, -, -, hwait⟩ := steady_iff.1 hs
  have hst : waveAt (stepped t wv sp) wv = putSplit (waveAt t wv) sp (stepPast (getSplit (waveAt t wv) sp)) := waveAt_goesTo ..
  by_cases hy : y = true ∧ (waveAt t wv).out ≠ []
  · obtain ⟨age, ha⟩ := waveAt_leaveSlots (putWave t wv (marked (waveAt (stepped t wv sp) wv))) wv
    rw [finish_done_marked hs hc hy.1 hy.2]
    refine ⟨(sameOutside_putWave ..).trans (sameOutside_leaveSlots ..), age, ?_⟩
    rw [ha, waveAt_putWave, hst, overWave, if_pos hy]
    rfl
  · rw [finish_done h4 hs hc (by simpa [Classical.or_iff_not_imp_left] using hy)]
    refine ⟨sameOutside_putWave .., (waveAt t wv).tim.age, ?_⟩
    rw [hst, overWave, if_neg hy, ← hwait]
    rfl

/-- Settles O52: a write of the wave leaves the rest of the machine, and the end of an instruction leaves all but its split, the marker and the slots. -/
theorem registerFormFrame : Obligations.RegisterFormFrame := by
  unfold Obligations.RegisterFormFrame
  refine ⟨?_, ?_⟩
  · intro s wv sp pc u f core isl a n
    have hgo (pc : Nat) : WritesWaveOnly s (jumps s wv sp u f pc) wv sp pc (f (openIssue (waveAt s wv) sp u.closes)) core isl a n :=
      writesWaveOnly_goesTo ..
    have hend := hgo (pcNext (getSplit (f (openIssue (waveAt s wv) sp u.closes)) sp).pc)
    rw [← ends_eq_jumps] at hend
    exact ⟨hend, hgo pc, openIssue_regs .., openIssue_win .., openIssue_evt .., openIssue_tim .., openIssue_out .., openIssue_counters ..,
      fun i hi => getSplit_openIssue_ne _ _ hi, fun h => openIssue_split h _⟩
  · intro t wv sp y coll h4 hs hc
    obtain ⟨-, hlen, -⟩ := steady_iff.1 hs
    obtain ⟨hout, age, hw⟩ := finish_done_over (y := y) h4 hs hc
    dsimp only
    rw [hw, getSplit_overWave y age (by omega)]
    refine ⟨rfl, rfl, rfl, fun i hi => getSplit_overWave_ne _ y age hi, rfl, rfl, rfl, rfl, rfl, hout.waves, hout.dev, hout.cores,
      hout.clusters, hout.islands, hout.groups, hout.launches, rfl, finish_done h4 hs hc, ?_⟩
    intro hy ho h hh hp
    rw [finish_done_marked hs hc hy ho]
    have hq : (waveAt (putWave t wv (marked (waveAt (stepped t wv sp) wv))) wv).quarter = (waveAt t wv).quarter := by
      rw [waveAt_putWave, stepped, waveAt_goesTo]; rfl
    rw [← hq] at hh ⊢
    exact holdOf_leaveSlots hh hp

end Sys2Proof.Machine
end

section
/-!
No program stops the machine (R1, R2, R53, R395): every move of an agent answers a next state, every word runs through the issue of a split, and
what a step runs by itself is a move.
-/
namespace Sys2Proof.Machine

/-- The outcome is a next state. -/
def GoesOn (r : Result') : Prop := ∃ t, r = .next t

theorem goesOn_event (s : State) : GoesOn (event s) := ⟨s, rfl⟩
theorem goesOn_issue {s : State} (h : s.cur.isSome = true) (y : Bool) (u : Usage) (body : Ctx → State → State × Eff) :
    GoesOn (issue s y u body) := by
  obtain ⟨⟨wv, sp⟩, hc⟩ := Option.isSome_iff_exists.1 h
  exact ⟨issueAt s wv sp y u body, by simp only [issue, hc]⟩
theorem goesOn_onNext {r : Result'} (f : State → State) (h : GoesOn r) : GoesOn (onNext f r) := by
  obtain ⟨t, rfl⟩ := h
  exact ⟨f t, rfl⟩

theorem goesOn_execIllegalInstruction {s : State} (h : s.cur.isSome = true) (word : Nat) : GoesOn (execIllegalInstruction word s) := by
  unfold execIllegalInstruction
  split
  · exact goesOn_event s
  · exact goesOn_issue h ..

/-! The rows of the opcode table. -/
/-- R53: an instruction that has a word runs through the issue of the current split. -/
theorem exec_eq_issue {i : Instr} (h : encode i ≠ none) (s : State) : ∃ y u body, exec i s = issue s y u body := by
  cases i
  all_goals first
    | exact absurd rfl h
    | exact ⟨_, _, _, rfl⟩

/-- A move of an agent of the device: neither an instruction with a word nor the row of a word that is none, which a split issues. -/
def IsMove (i : Instr) : Prop := encode i = none ∧ ∀ w, i ≠ .illegalInstruction w

/-- A move answers a next state, also where its condition does not hold. -/
theorem goesOn_exec_move {i : Instr} (h : IsMove i) (s : State) : GoesOn (exec i s) := by
  obtain ⟨hword, hill⟩ := h
  cases i
  case illegalInstruction w => exact absurd rfl (hill w)
  -- The rows that look up a record or test a condition: every branch is an event.
  case variableResultReturn | slotGrant | classDisplace | spinQuantumExpiry | mergeWaitExpiry | leftoverRespawn | timerFire | impreciseEvent |
      windowSpill | windowRefill | windowRefillAhead | pushesComplete | replicatedCommit | replicatedStall | copyCommandStart | copyPiece |
      beamAccept | beamTraversalStep | rayEmit | fragmentEmit | beamRetire | tldqRowPush | tileInstructionComplete | mmaqPass | appendRecord |
      batchTimerExpiry | successorAppend | taskControlBlockWrite | launchEntryRead | groupResidency | atollGroupMove | realTimeRelease |
      deadlineMiss | groupEnd | clusterReclaim | reclaimSwap | reclaimForcedReset | contextSave | contextRestore | tlbinvComplete |
      hostCxlMemAccess | hostSnoop | dozeEntry | watchEntry =>
    dsimp only [exec, execVariableResultReturn, execSlotGrant, execClassDisplace, execSpinQuantumExpiry, execMergeWaitExpiry, execLeftoverRespawn,
      execTimerFire, execImpreciseEvent, execWindowSpill, execWindowRefill, execWindowRefillAhead, execPushesComplete, execReplicatedCommit,
      execReplicatedStall, execCopyCommandStart, execCopyPiece, execBeamAccept, execBeamTraversalStep, execRayEmit, execFragmentEmit,
      execBeamRetire, execTldqRowPush, execTileInstructionComplete, execMmaqPass, execAppendRecord, execBatchTimerExpiry, execSuccessorAppend,
      execTaskControlBlockWrite, execLaunchEntryRead, execGroupResidency, execAtollGroupMove, execRealTimeRelease, execDeadlineMiss, execGroupEnd,
      execClusterReclaim, execReclaimSwap, execReclaimForcedReset, execContextSave, execContextRestore, execTlbinvComplete,
      execHostCxlMemAccess, execHostSnoop, execDozeEntry, execWatchEntry]
    repeat' split
    all_goals exact goesOn_event _
  -- The other rows are an event outright, or have a word.
  all_goals first
    | exact goesOn_event _
    | cases hword

/-- With a split that issues, every row answers a next state: each stop that a rule describes is one. -/
theorem goesOn_exec {s : State} (h : s.cur.isSome = true) (i : Instr) : GoesOn (exec i s) := by
  by_cases hword : encode i = none
  · by_cases hill : ∃ w, i = .illegalInstruction w
    · obtain ⟨w, rfl⟩ := hill
      exact goesOn_execIllegalInstruction h w
    · exact goesOn_exec_move ⟨hword, not_exists.1 hill⟩ s
  · obtain ⟨y, u, body, he⟩ := exec_eq_issue hword s
    rw [he]
    exact goesOn_issue h ..

/-! What falls due is a move (R386). -/
theorem waveDue_isMove {s : State} {wv : Nat} {w : Wave} {i : Instr} (h : waveDue s wv w = some i) : IsMove i := by
  unfold waveDue at h
  repeat' split at h
  all_goals cases h
  all_goals exact ⟨rfl, nofun⟩
theorem quarterDue_isMove {s : State} {k : Nat} {i : Instr} (h : quarterDue s k = some i) : IsMove i := by
  unfold quarterDue at h
  dsimp only at h
  split at h
  · next hw =>
    obtain ⟨e, -, he⟩ := List.exists_of_findSome?_eq_some hw
    cases h
    exact waveDue_isMove he
  · split at h
    all_goals cases h
    exact ⟨rfl, nofun⟩
theorem copyDue_isMove {s : State} {core : Nat} {cs : List CopyCmd} {i : Instr} (h : copyDue s core cs = some i) : IsMove i := by
  obtain ⟨idx, -, he⟩ := List.exists_of_findSome?_eq_some h
  dsimp only at he
  repeat' split at he
  · cases he
    exact ⟨rfl, nofun⟩
  · cases he
  · obtain ⟨p, -, rfl⟩ := Option.map_eq_some_iff.1 he
    exact ⟨rfl, nofun⟩
theorem launchDue_isMove {s : State} {id : Nat} {l : Launch} {i : Instr} (h : launchDue s id l = some i) : IsMove i := by
  unfold launchDue at h
  repeat' split at h
  all_goals cases h
  all_goals exact ⟨rfl, nofun⟩
theorem timerDue_isMove {s : State} {isl : Nat} {x : Island} {i : Instr} (h : timerDue s isl x = some i) : IsMove i := by
  obtain ⟨e, -, he⟩ := List.exists_of_findSome?_eq_some h
  obtain ⟨n, -, hn⟩ := List.exists_of_findSome?_eq_some he
  repeat' split at hn
  all_goals cases hn
  exact ⟨rfl, nofun⟩
theorem islandDue_isMove {s : State} {isl : Nat} {x : Island} {i : Instr} (h : islandDue s isl x = some i) : IsMove i := by
  unfold islandDue at h
  split at h
  · cases h
    exact ⟨rfl, nofun⟩
  · exact timerDue_isMove h
theorem clusterDue_isMove {s : State} {cl : Nat} {i : Instr} (h : clusterDue s cl = some i) : IsMove i := by
  unfold clusterDue at h
  repeat' split at h
  all_goals cases h
  all_goals exact ⟨rfl, nofun⟩
theorem moveDue_isMove {s : State} {g : Nat} {gr : Group} {i : Instr} (h : moveDue s g gr = some i) : IsMove i := by
  obtain ⟨core, -, hc⟩ := Option.bind_eq_some_iff.1 h
  split at hc
  all_goals cases hc
  exact ⟨rfl, nofun⟩
/-- What one of two sources gives first, when both give moves. -/
theorem orElse_isMove {o : Option Instr} {f : Unit → Option Instr} {i : Instr} (h : o.orElse f = some i) (ho : o = some i → IsMove i)
    (hf : f () = some i → IsMove i) : IsMove i := by
  cases o with
  | none => exact hf h
  | some j => exact ho h
/-- What the first record of a table gives, when every record gives moves. -/
theorem findSome_isMove {α : Type} {l : List α} {f : α → Option Instr} {i : Instr} (h : l.findSome? f = some i)
    (hf : ∀ e, f e = some i → IsMove i) : IsMove i := by
  obtain ⟨e, -, he⟩ := List.exists_of_findSome?_eq_some h
  exact hf e he
theorem deviceDue_isMove {s : State} {i : Instr} (h : deviceDue s = some i) : IsMove i := by
  unfold deviceDue at h
  refine orElse_isMove h (findSome_isMove · fun _ => copyDue_isMove) fun h => ?_
  split at h
  · cases h
  refine orElse_isMove h (fun h => ?stall) fun h =>
    orElse_isMove h (findSome_isMove · fun _ => launchDue_isMove) fun h =>
      orElse_isMove h (findSome_isMove · fun _ => islandDue_isMove) fun h =>
        orElse_isMove h (findSome_isMove · fun _ => clusterDue_isMove) (findSome_isMove · fun _ => moveDue_isMove)
  case stall =>
    obtain ⟨n, -, rfl⟩ := Option.map_eq_some_iff.1 h
    exact ⟨rfl, nofun⟩
/-- R414: what acts on a frozen device is a move. -/
theorem isMove_of_actsFrozen {i : Instr} (h : actsFrozen i = true) : IsMove i := by
  cases i
  case debugFreeze | debugUnfreeze | freezePin | powerRemoval | pwrctlReqRun | pwrctlReqDoze | pwrctlReqWatch | registerWrite =>
    exact ⟨rfl, nofun⟩
  all_goals cases h

/-! The step (R24, R53, R351, R386). -/
theorem beginIssue_issues (s : State) (wv sp n : Nat) : (beginIssue s wv sp n).cur.isSome = true := rfl
/-- R53: a word runs as its instruction or takes the trap of an illegal word. The definition is opened as a function, away from its argument: with
the word in place the kernel would try to decode it. -/
theorem runWord_eq (word : Nat) (s : State) : (∃ i, runWord word s = exec i s) ∨ runWord word s = execIllegalInstruction word s := by
  generalize hrun : runWord = run
  delta runWord at hrun
  subst hrun
  dsimp only
  generalize decodeBytes (wordBytes word) = decoded
  cases decoded with
  | ok p => exact .inl ⟨p.1, rfl⟩
  | error _ => exact .inr rfl
theorem goesOn_runWord {s : State} (h : s.cur.isSome = true) (word : Nat) : GoesOn (runWord word s) := by
  rcases runWord_eq word s with ⟨i, he⟩ | he
  · rw [he]
    exact goesOn_exec h i
  · rw [he]
    exact goesOn_execIllegalInstruction h word
theorem goesOn_issueSplit (s : State) (wv sp : Nat) : GoesOn (issueSplit s wv sp) := by
  unfold issueSplit
  dsimp only
  split
  · exact goesOn_onNext _ (goesOn_runWord (beginIssue_issues ..) _)
  · exact goesOn_onNext _ (goesOn_runWord (beginIssue_issues ..) _)
  · exact ⟨_, rfl⟩
  · exact ⟨_, rfl⟩
  · exact ⟨_, rfl⟩
theorem goesOn_visit (s : State) (k : Nat) : GoesOn (visit s k) := by
  unfold visit
  dsimp only
  split
  · next hdue => exact goesOn_exec_move (quarterDue_isMove hdue) s
  · repeat' split
    · exact ⟨_, rfl⟩
    · exact goesOn_exec_move (i := .slotGrant k _) ⟨rfl, nofun⟩ s
    · exact ⟨_, rfl⟩
    · exact ⟨_, rfl⟩
    · exact goesOn_issueSplit ..
theorem goesOn_frozenStep (s : State) : GoesOn (frozenStep s) := by
  unfold frozenStep
  split
  · exact ⟨s, rfl⟩
  · next k hk =>
    obtain ⟨hlt, hact, -⟩ := List.findIdx?_eq_some_iff_getElem.1 hk
    rw [List.getD_eq_getElem?_getD, List.getElem?_eq_getElem hlt]
    exact goesOn_exec_move (isMove_of_actsFrozen hact) _
theorem goesOn_execMail (s : State) : GoesOn (execMail s) := by
  unfold execMail
  split
  · exact goesOn_event s
  · repeat' split
    all_goals exact goesOn_event _
theorem goesOn_idleStep (s : State) : GoesOn (idleStep s) := by
  unfold idleStep
  repeat' split
  · exact goesOn_exec_move (i := .dozeWake) ⟨rfl, nofun⟩ s
  · exact goesOn_exec_move (i := .watchEntry) ⟨rfl, nofun⟩ s
  · exact ⟨_, rfl⟩
  · exact ⟨_, rfl⟩

/-- The listed entry of a running device, a move or an illegal word of an issuing split. -/
theorem goesOn_exec_listed {i : Instr} {s : State} (h : encode i = none) (hill : (∃ w, i = .illegalInstruction w) → s.cur.isSome = true) :
    GoesOn (exec i s) := by
  by_cases hi : ∃ w, i = .illegalInstruction w
  · exact goesOn_exec (hill hi) i
  · exact goesOn_exec_move ⟨h, not_exists.1 hi⟩ s

/-- R386: the entry of the agenda, or else the mailbox, the power controller, the hub die or a quarter acts, or the clock ends. -/
theorem goesOn_stepOnce {s : State} (h : s.dev.frozen = false → ∀ i rest, s.agenda = i :: rest →
    encode i = none ∧ ((∃ w, i = .illegalInstruction w) → s.cur.isSome = true)) : GoesOn (stepOnce s) := by
  unfold stepOnce
  split
  · exact goesOn_frozenStep s
  next hrun =>
  split
  · exact ⟨_, rfl⟩
  split
  · next i rest ha =>
    obtain ⟨hword, hill⟩ := h (by simpa using hrun) i rest ha
    have hev : isEvent i = true := by simp [isEvent, hword]
    rw [if_pos hev]
    exact goesOn_exec_listed hword hill
  · repeat' split
    · exact goesOn_execMail s
    · exact goesOn_idleStep s
    · exact goesOn_exec_move (i := .dozeEntry) ⟨rfl, nofun⟩ s
    · next hdue => exact goesOn_exec_move (deviceDue_isMove hdue) s
    · exact goesOn_visit ..
    · exact ⟨_, rfl⟩

/-- Settles O60: every row that a step can run answers a next state. -/
theorem stepAlwaysGoesOn : Obligations.StepAlwaysGoesOn := fun _ h => goesOn_stepOnce h

end Sys2Proof.Machine
end

section
/-!
The encoder and the decoder are inverse (R42 to R53). One way the round trip of every constructor is in Laws/PerInstr.lean; the other way goes
over the rows of the opcode map, by the field shapes: what a shape reads of a word and requires to be zero is the whole word.
-/
namespace Sys2Proof.Laws

/-! The bytes of a word (R42). -/
/-- The reading of bytes for any decoder of words: with `decode` itself in place the kernel would try to decode the word. -/
def readBytes (dec : Nat → Except DecodeError Instr) : List Nat → Except DecodeError (Instr × List Nat)
  | b0 :: b1 :: b2 :: b3 :: rest =>
    match dec (b0 % 256 + b1 % 256 * 2 ^ 8 + b2 % 256 * 2 ^ 16 + b3 % 256 * 2 ^ 24) with
    | .ok i => .ok (i, rest)
    | .error e => .error e
  | _ => .error .notAWord

theorem decodeBytes_eq_readBytes : decodeBytes = readBytes decode := rfl
theorem readBytes_ok_iff (dec : Nat → Except DecodeError Instr) {w : Nat} {i : Instr} (h : w < 2 ^ 32) :
    readBytes dec (wordBytes w) = .ok (i, []) ↔ dec w = .ok i := by
  have hw : w % 256 % 256 + w / 2 ^ 8 % 256 % 256 * 2 ^ 8 + w / 2 ^ 16 % 256 % 256 * 2 ^ 16 + w / 2 ^ 24 % 256 % 256 * 2 ^ 24 = w := by omega
  simp only [wordBytes, readBytes, hw]
  cases dec w with
  | ok j => simp
  | error e => simp
theorem decodeBytes_ok_iff {w : Nat} {i : Instr} (h : w < 2 ^ 32) : decodeBytes (wordBytes w) = .ok (i, []) ↔ decode w = .ok i := by
  rw [decodeBytes_eq_readBytes]
  exact readBytes_ok_iff decode h

/-- The round trip of every constructor, in their order. -/
theorem roundTrip : ∀ i, RoundTrip.Statement i :=
  Instr.rec (motive := RoundTrip.Statement)
    RoundTrip.iadd RoundTrip.isub RoundTrip.imul RoundTrip.imulh RoundTrip.imad RoundTrip.imin RoundTrip.imax RoundTrip.iabs RoundTrip.and
    RoundTrip.or RoundTrip.xor RoundTrip.shl RoundTrip.shr RoundTrip.sra RoundTrip.bfx RoundTrip.bfi RoundTrip.popc RoundTrip.clz RoundTrip.brev
    RoundTrip.sel RoundTrip.icmpeq RoundTrip.icmpne RoundTrip.icmplt RoundTrip.icmple RoundTrip.mov RoundTrip.movi RoundTrip.movih
    RoundTrip.iaddi RoundTrip.shli RoundTrip.shri RoundTrip.srai RoundTrip.andi RoundTrip.ori RoundTrip.xori RoundTrip.sadd RoundTrip.ssub
    RoundTrip.smul RoundTrip.sand RoundTrip.sor RoundTrip.sxor RoundTrip.sshl RoundTrip.sshr RoundTrip.ssra RoundTrip.smov RoundTrip.smovi
    RoundTrip.smovk RoundTrip.saddi RoundTrip.sseq RoundTrip.sslt RoundTrip.ssltu RoundTrip.vtos RoundTrip.fadd RoundTrip.fsub RoundTrip.fmul
    RoundTrip.ffma RoundTrip.fmin RoundTrip.fmax RoundTrip.fabs RoundTrip.fneg RoundTrip.fcmpeq RoundTrip.fcmplt RoundTrip.fcmple
    RoundTrip.fcmpun RoundTrip.frcp RoundTrip.frsq RoundTrip.fsqrt RoundTrip.fexp2 RoundTrip.flog2 RoundTrip.fsinpi RoundTrip.fcospi
    RoundTrip.fcvt RoundTrip.icvtf RoundTrip.fcvti RoundTrip.fclass RoundTrip.fscale RoundTrip.frnd RoundTrip.dot4 RoundTrip.dot8 RoundTrip.dot2f
    RoundTrip.qscale RoundTrip.pack RoundTrip.unpk RoundTrip.mand RoundTrip.mor RoundTrip.mxor RoundTrip.mandn RoundTrip.mtos RoundTrip.stom
    RoundTrip.mpopc RoundTrip.mfirst RoundTrip.shfl RoundTrip.shflx RoundTrip.qswap RoundTrip.qbcast RoundTrip.redadd RoundTrip.redmin
    RoundTrip.redmax RoundTrip.scanadd RoundTrip.mset RoundTrip.mseth RoundTrip.mrd RoundTrip.mwr RoundTrip.rdspec RoundTrip.cwrd RoundTrip.cwwr
    RoundTrip.thset RoundTrip.ifM RoundTrip.elseM RoundTrip.endif RoundTrip.loop RoundTrip.brk RoundTrip.cont RoundTrip.endloop RoundTrip.jmp
    RoundTrip.brs RoundTrip.brany RoundTrip.brall RoundTrip.jmpx RoundTrip.merge RoundTrip.exit RoundTrip.nop RoundTrip.yield RoundTrip.call
    RoundTrip.callx RoundTrip.ret RoundTrip.frame RoundTrip.wflush RoundTrip.rdlink RoundTrip.wrlink RoundTrip.trap RoundTrip.tret
    RoundTrip.region RoundTrip.regend RoundTrip.bar RoundTrip.bararv RoundTrip.barwt RoundTrip.tmset RoundTrip.ld RoundTrip.st RoundTrip.lds
    RoundTrip.sts RoundTrip.ldu RoundTrip.stu RoundTrip.atom RoundTrip.atoms RoundTrip.lda RoundTrip.strel RoundTrip.fence RoundTrip.cflush
    RoundTrip.cinv RoundTrip.pref RoundTrip.srcfg RoundTrip.spcfg RoundTrip.haar RoundTrip.ihaar RoundTrip.thr RoundTrip.tst RoundTrip.tld
    RoundTrip.tldq RoundTrip.tbias RoundTrip.trecon RoundTrip.tact RoundTrip.mma RoundTrip.mmax RoundTrip.mmaq RoundTrip.mzero RoundTrip.mrda
    RoundTrip.mwra RoundTrip.mlayout RoundTrip.mldb RoundTrip.cpy RoundTrip.cpyg RoundTrip.cpys RoundTrip.cpyb RoundTrip.cpym RoundTrip.batch
    RoundTrip.bwait RoundTrip.rnginit RoundTrip.rwait RoundTrip.rrel RoundTrip.rarrv RoundTrip.qpush RoundTrip.qpop RoundTrip.qpeek
    RoundTrip.qcnt RoundTrip.bscn RoundTrip.bcfg RoundTrip.apnd RoundTrip.tdone RoundTrip.launch RoundTrip.wlcfg RoundTrip.wquiet
    RoundTrip.variableResultReturn RoundTrip.slotGrant RoundTrip.holdCountDisplace RoundTrip.classDisplace RoundTrip.spinQuantumExpiry
    RoundTrip.mergeWaitExpiry RoundTrip.leftoverRespawn RoundTrip.timerFire RoundTrip.tableWalk RoundTrip.replicatedCommit
    RoundTrip.replicatedStall RoundTrip.poisonedWrite RoundTrip.impreciseEvent RoundTrip.windowSpill RoundTrip.windowRefill
    RoundTrip.windowRefillAhead RoundTrip.copyCommandStart RoundTrip.copyPiece RoundTrip.collectiveCopyStart RoundTrip.cpymHop
    RoundTrip.beamAccept RoundTrip.beamTraversalStep RoundTrip.rayEmit RoundTrip.fragmentEmit RoundTrip.beamRetire RoundTrip.tldqRowPush
    RoundTrip.tileInstructionComplete RoundTrip.matrixCommandExecute RoundTrip.mmaqPass RoundTrip.appendRecord RoundTrip.batchTimerExpiry
    RoundTrip.successorAppend RoundTrip.taskControlBlockWrite RoundTrip.launchDoorbellWrite RoundTrip.launchEntryRead RoundTrip.groupResidency
    RoundTrip.atollGroupMove RoundTrip.realTimeRelease RoundTrip.deadlineMiss RoundTrip.groupEnd RoundTrip.clusterReclaim RoundTrip.reclaimSwap
    RoundTrip.reclaimForcedReset RoundTrip.contextSave RoundTrip.contextRestore RoundTrip.faultresResolved RoundTrip.faultresUnresolvable
    RoundTrip.tlbinvPage RoundTrip.tlbinvNonglobal RoundTrip.tlbinvAll RoundTrip.tlbinvComplete RoundTrip.faultQueueHeadWrite
    RoundTrip.islandTableWrite RoundTrip.esctWrite RoundTrip.evqWindowRead RoundTrip.registerWrite RoundTrip.seal RoundTrip.unseal
    RoundTrip.quote RoundTrip.cert RoundTrip.hostCxlMemAccess RoundTrip.hostSnoop RoundTrip.flitRetry RoundTrip.linkDownPoison
    RoundTrip.pwrctlReqRun RoundTrip.pwrctlReqDoze RoundTrip.pwrctlReqWatch RoundTrip.dozeEntry RoundTrip.dozeWake RoundTrip.watchEntry
    RoundTrip.watchWake RoundTrip.powerOnBoot RoundTrip.debugFreeze RoundTrip.debugUnfreeze RoundTrip.freezePin RoundTrip.illegalInstruction
    RoundTrip.pushesComplete RoundTrip.peerDeviceAccess RoundTrip.powerRemoval

/-- Settles O56: the word of a well-formed instruction decodes to it, by the round trip of its constructor. -/
theorem decodeOfEncode : Obligations.DecodeOfEncode := by
  intro i w he hi
  obtain ⟨hw, hd⟩ := roundTrip i w he hi
  exact ⟨hw, (decodeBytes_ok_iff hw).2 hd⟩

/-! What the field readers give, as numbers of the word. -/
@[simp] theorem val_vecAt (w lo : Nat) : (vecAt w lo).val = w / 2 ^ lo % 128 := rfl
@[simp] theorem val_scaAt (w lo : Nat) : (scaAt w lo).val = w / 2 ^ lo % 64 := rfl
@[simp] theorem val_eightAt (w lo : Nat) : (eightAt w lo).val = w / 2 ^ lo % 8 := rfl
@[simp] theorem val_fourAt (w lo : Nat) : (fourAt w lo).val = w / 2 ^ lo % 4 := rfl
@[simp] theorem toNat_bitAt (w lo : Nat) : (bitAt w lo).toNat = w / 2 ^ lo % 2 := by
  rcases Nat.mod_two_eq_zero_or_one (w / 2 ^ lo) with h | h <;> simp [bitAt, field, h]
@[simp] theorem zero_iff {w lo n : Nat} : zero w lo n = true ↔ w / 2 ^ lo % 2 ^ n = 0 := by simp [zero, field]
/-- R45, R46: the nine bits of a b,k operand are read whole. -/
theorem bopBits_bopAt {w : Nat} (h : bopOk w = true) : bopBits (bopAt w) = w % 512 := by
  have hk : w % 4 = 1 → w / 256 % 2 = 0 := by simpa [bopOk, field, zero, Classical.or_iff_not_imp_left] using h
  simp only [bopAt, field, Nat.pow_zero, Nat.div_one, Nat.reducePow]
  split
  · simp only [bopBits, val_vecAt]; omega
  split
  · simp only [bopBits, val_scaAt]; omega
  split
  · simp only [bopBits, val_vecAt]; omega
  · simp only [bopBits, val_vecAt]; omega

/-- R48, R49: a row of the opcode map reads only words that are the encoding of what it makes of them. -/
def RowEncodes (p : Nat × (Nat → Except DecodeError Instr)) : Prop :=
  ∀ w i, w < 2 ^ 32 → opcodeOf w = p.1 → p.2 w = .ok i → encode i = some w

theorem fieldsThen_ok {ok : Bool} {i j : Instr} {w : Nat} (h : fieldsThen ok i w = .ok j) : ok = true ∧ i = j := by
  cases ok with
  | false => cases h
  | true => exact ⟨rfl, Except.ok.inj h⟩

/-- R42: the word `w` with opcode `op`. -/
def withOpcode (op w : Nat) : Nat := wordBase op (markerOf w) + w % 2 ^ 23
theorem withOpcode_opcodeOf {w : Nat} (h : w < 2 ^ 32) : withOpcode (opcodeOf w) w = w := by
  simp only [withOpcode, wordBase, markerOf, toNat_bitAt, opcodeOf, field]
  omega

/-- A row whose legal words are put together again from the fields that it reads. -/
theorem rowEncodes_of {op : Nat} {f : Nat → Except DecodeError Instr} {ok : Nat → Bool} {g : Nat → Instr} {e : Nat → Nat}
    (hfields : ∀ {w}, ok w = true → e w = withOpcode op w) (hf : ∀ w, f w = fieldsThen (ok w) (g w) w := by exact fun _ => rfl)
    (he : ∀ w, encode (g w) = some (e w) := by exact fun _ => rfl) : RowEncodes (op, f) := by
  intro w i hw ho h
  obtain ⟨hok, rfl⟩ := fieldsThen_ok ((hf w).symm.trans h)
  have hop : opcodeOf w = op := ho
  rw [he, hfields hok, ← hop, withOpcode_opcodeOf hw]

/-! R50: the fields of each shape put together again: what the shape does not read is zero. -/
section
variable {op w : Nat}
theorem low23_eq (w : Nat) : w % 8388608 = w / 65536 % 128 * 65536 + w / 512 % 128 * 512 + w % 512 := by omega
theorem sixBits_of_bit22 (h : w / 4194304 % 2 = 0) : w / 65536 % 64 = w / 65536 % 128 := by omega
theorem encVVB_fields (h : (bopOk w) = true) :
    encVVB op (markerOf w) (vecAt w 16) (vecAt w 9) (bopAt w) = withOpcode op w := by
  simp only [withOpcode, encVVB, bopBits_bopAt h, val_vecAt]
  omega
theorem encVV_fields (h : (zero w 0 9) = true) :
    encVV op (markerOf w) (vecAt w 16) (vecAt w 9) = withOpcode op w := by
  simp only [withOpcode, encVV, val_vecAt, zero_iff] at h ⊢
  omega
theorem encMVB_fields (h : (zero w 19 4 && bopOk w) = true) :
    encMVB op (markerOf w) (eightAt w 16) (vecAt w 9) (bopAt w) = withOpcode op w := by
  obtain ⟨hz, hb⟩ := Bool.and_eq_true_iff.1 h
  simp only [withOpcode, encMVB, bopBits_bopAt hb, val_vecAt, val_eightAt, zero_iff] at hz ⊢
  omega
theorem encSSS_fields (h : (zero w 0 2 && zero w 22 1 && zero w 15 1 && zero w 8 1) = true) :
    encSSS op (markerOf w) (scaAt w 16) (scaAt w 9) (scaAt w 2) = withOpcode op w := by
  simp only [withOpcode, encSSS, val_scaAt, zero_iff, Bool.and_eq_true] at h ⊢
  omega
theorem encSS_fields (h : (zero w 0 9 && zero w 22 1 && zero w 15 1) = true) :
    encSS op (markerOf w) (scaAt w 16) (scaAt w 9) = withOpcode op w := by
  simp only [withOpcode, encSS, val_scaAt, zero_iff, Bool.and_eq_true] at h ⊢
  omega
theorem encSV_fields (h : (zero w 0 9 && zero w 22 1) = true) :
    encSV op (markerOf w) (scaAt w 16) (vecAt w 9) = withOpcode op w := by
  simp only [withOpcode, encSV, val_vecAt, val_scaAt, zero_iff, Bool.and_eq_true] at h ⊢
  omega
theorem encFCVT_fields (h : (zero w 0 2) = true) :
    encFCVT op (markerOf w) (vecAt w 16) (vecAt w 9) (Fin.ofNat 128 (w / 2 ^ 2)) = withOpcode op w := by
  simp only [withOpcode, encFCVT, val_vecAt, Fin.val_ofNat, zero_iff] at h ⊢
  omega
theorem encMMM_fields (h : (zero w 0 2 && zero w 19 4 && zero w 12 4 && zero w 5 4) = true) :
    encMMM op (markerOf w) (eightAt w 16) (eightAt w 9) (eightAt w 2) = withOpcode op w := by
  simp only [withOpcode, encMMM, val_eightAt, zero_iff, Bool.and_eq_true] at h ⊢
  omega
theorem encMTOS_fields (h : (zero w 1 8 && zero w 22 1 && zero w 12 4) = true) :
    encMTOS op (markerOf w) (scaAt w 16) (eightAt w 9) (bitAt w 0) = withOpcode op w := by
  simp only [withOpcode, encMTOS, val_scaAt, val_eightAt, toNat_bitAt, zero_iff, Bool.and_eq_true] at h ⊢
  omega
theorem encSTOM_fields (h : (zero w 1 8 && zero w 19 4 && zero w 15 1) = true) :
    encSTOM op (markerOf w) (eightAt w 16) (scaAt w 9) (bitAt w 0) = withOpcode op w := by
  simp only [withOpcode, encSTOM, val_scaAt, val_eightAt, toNat_bitAt, zero_iff, Bool.and_eq_true] at h ⊢
  omega
theorem encSM_fields (h : (zero w 0 9 && zero w 22 1 && zero w 12 4) = true) :
    encSM op (markerOf w) (scaAt w 16) (eightAt w 9) = withOpcode op w := by
  simp only [withOpcode, encSM, val_scaAt, val_eightAt, zero_iff, Bool.and_eq_true] at h ⊢
  omega
theorem encVVV_fields (h : (zero w 0 2) = true) :
    encVVV op (markerOf w) (vecAt w 16) (vecAt w 9) (vecAt w 2) = withOpcode op w := by
  simp only [withOpcode, encVVV, val_vecAt, zero_iff] at h ⊢
  omega
theorem encVVS_fields (h : (zero w 0 2 && zero w 8 1) = true) :
    encVVS op (markerOf w) (vecAt w 16) (vecAt w 9) (scaAt w 2) = withOpcode op w := by
  simp only [withOpcode, encVVS, val_vecAt, val_scaAt, zero_iff, Bool.and_eq_true] at h ⊢
  omega
theorem encQSWAP_fields (h : (zero w 2 7) = true) :
    encQSWAP op (markerOf w) (vecAt w 16) (vecAt w 9) (Fin.ofNat 4 (w / 2 ^ 0)) = withOpcode op w := by
  simp only [withOpcode, encQSWAP, val_vecAt, Fin.val_ofNat, zero_iff] at h ⊢
  omega
theorem encSD_fields (h : (zero w 0 16 && zero w 22 1) = true) :
    encSD op (markerOf w) (scaAt w 16) = withOpcode op w := by
  simp only [withOpcode, encSD, val_scaAt, zero_iff, Bool.and_eq_true] at h ⊢
  omega
theorem encSA_fields (h : (zero w 0 9 && zero w 16 7 && zero w 15 1) = true) :
    encSA op (markerOf w) (scaAt w 9) = withOpcode op w := by
  simp only [withOpcode, encSA, val_scaAt, zero_iff, Bool.and_eq_true] at h ⊢
  omega
theorem encSDA_fields (h : (zero w 0 9 && zero w 22 1 && field w 9 7 == field w 16 7) = true) :
    encSDA op (markerOf w) (scaAt w 16) = withOpcode op w := by
  simp only [withOpcode, encSDA, val_scaAt, zero_iff, Bool.and_eq_true, beq_iff_eq, field, Nat.reducePow, Nat.pow_zero, Nat.div_one] at h ⊢
  obtain ⟨⟨hlow, hbit⟩, hsame⟩ := h
  rw [low23_eq, sixBits_of_bit22 hbit, hsame, hlow, Nat.add_assoc, Nat.add_zero]
theorem encTHSET_fields (h : (zero w 0 2 && zero w 19 4 && zero w 15 1 && zero w 8 1) = true) :
    encTHSET op (markerOf w) (eightAt w 16) (scaAt w 9) (scaAt w 2) = withOpcode op w := by
  simp only [withOpcode, encTHSET, val_scaAt, val_eightAt, zero_iff, Bool.and_eq_true] at h ⊢
  omega
theorem encVA_fields (h : (zero w 0 9 && zero w 16 7) = true) :
    encVA op (markerOf w) (vecAt w 9) = withOpcode op w := by
  simp only [withOpcode, encVA, val_vecAt, zero_iff, Bool.and_eq_true] at h ⊢
  omega
theorem encNONE_fields (h : (zero w 0 23) = true) :
    encNONE op (markerOf w) = withOpcode op w := by
  simp only [withOpcode, encNONE, zero_iff] at h ⊢
  omega
theorem encTHR_fields (h : (zero w 0 2 && zero w 5 4) = true) :
    encTHR op (markerOf w) (vecAt w 16) (vecAt w 9) (eightAt w 2) = withOpcode op w := by
  simp only [withOpcode, encTHR, val_vecAt, val_eightAt, zero_iff, Bool.and_eq_true] at h ⊢
  omega
theorem encAVV_fields (h : (zero w 0 2 && zero w 18 5) = true) :
    encAVV op (markerOf w) (fourAt w 16) (vecAt w 9) (vecAt w 2) = withOpcode op w := by
  simp only [withOpcode, encAVV, val_vecAt, val_fourAt, zero_iff, Bool.and_eq_true] at h ⊢
  omega
theorem encAV_fields (h : (zero w 0 2 && zero w 9 7 && zero w 18 5) = true) :
    encAV op (markerOf w) (fourAt w 16) (vecAt w 2) = withOpcode op w := by
  simp only [withOpcode, encAV, val_vecAt, val_fourAt, zero_iff, Bool.and_eq_true] at h ⊢
  omega
theorem encAS_fields (h : (zero w 0 9 && zero w 18 5 && zero w 15 1) = true) :
    encAS op (markerOf w) (fourAt w 16) (scaAt w 9) = withOpcode op w := by
  simp only [withOpcode, encAS, val_scaAt, val_fourAt, zero_iff, Bool.and_eq_true] at h ⊢
  omega
theorem encVAS_fields (h : (zero w 0 2 && zero w 11 5 && zero w 8 1) = true) :
    encVAS op (markerOf w) (vecAt w 16) (fourAt w 9) (scaAt w 2) = withOpcode op w := by
  simp only [withOpcode, encVAS, val_vecAt, val_scaAt, val_fourAt, zero_iff, Bool.and_eq_true] at h ⊢
  omega
theorem encAVS_fields (h : (zero w 0 2 && zero w 18 5 && zero w 8 1) = true) :
    encAVS op (markerOf w) (fourAt w 16) (vecAt w 9) (scaAt w 2) = withOpcode op w := by
  simp only [withOpcode, encAVS, val_vecAt, val_scaAt, val_fourAt, zero_iff, Bool.and_eq_true] at h ⊢
  omega
theorem encSAB_fields (h : (zero w 0 2 && zero w 16 7 && zero w 15 1 && zero w 8 1) = true) :
    encSAB op (markerOf w) (scaAt w 9) (scaAt w 2) = withOpcode op w := by
  simp only [withOpcode, encSAB, val_scaAt, zero_iff, Bool.and_eq_true] at h ⊢
  omega
theorem encVAB_fields (h : (zero w 0 2 && zero w 16 7 && zero w 8 1) = true) :
    encVAB op (markerOf w) (vecAt w 9) (scaAt w 2) = withOpcode op w := by
  simp only [withOpcode, encVAB, val_vecAt, val_scaAt, zero_iff, Bool.and_eq_true] at h ⊢
  omega
theorem encVVI_fields (_ : true = true) :
    encVVI op (markerOf w) (vecAt w 16) (vecAt w 9) (BitVec.ofNat 9 (w / 2 ^ 0)) = withOpcode op w := by
  simp only [withOpcode, encVVI, val_vecAt, BitVec.toNat_ofNat]
  omega
theorem encVVN_fields (h : (zero w 5 4) = true) :
    encVVN op (markerOf w) (vecAt w 16) (vecAt w 9) (Fin.ofNat 32 (w / 2 ^ 0)) = withOpcode op w := by
  simp only [withOpcode, encVVN, val_vecAt, Fin.val_ofNat, zero_iff] at h ⊢
  omega
theorem encSSI_fields (h : (zero w 22 1 && zero w 15 1) = true) :
    encSSI op (markerOf w) (scaAt w 16) (scaAt w 9) (BitVec.ofNat 9 (w / 2 ^ 0)) = withOpcode op w := by
  simp only [withOpcode, encSSI, val_scaAt, BitVec.toNat_ofNat, zero_iff, Bool.and_eq_true] at h ⊢
  omega
theorem encVVE_fields (h : (zero w 3 6) = true) :
    encVVE op (markerOf w) (vecAt w 16) (vecAt w 9) (Fin.ofNat 8 (w / 2 ^ 0)) = withOpcode op w := by
  simp only [withOpcode, encVVE, val_vecAt, Fin.val_ofNat, zero_iff] at h ⊢
  omega
theorem encQBC_fields (h : (zero w 2 7) = true) :
    encQBC op (markerOf w) (vecAt w 16) (vecAt w 9) (Fin.ofNat 4 (w / 2 ^ 0)) = withOpcode op w := by
  simp only [withOpcode, encQBC, val_vecAt, Fin.val_ofNat, zero_iff] at h ⊢
  omega
theorem encLDU_fields (h : (zero w 22 1 && zero w 15 1) = true) :
    encLDU op (markerOf w) (scaAt w 16) (scaAt w 9) (Fin.ofNat 8 (w / 2 ^ 6)) (BitVec.ofNat 6 (w / 2 ^ 0)) = withOpcode op w := by
  simp only [withOpcode, encLDU, val_scaAt, Fin.val_ofNat, BitVec.toNat_ofNat, zero_iff, Bool.and_eq_true] at h ⊢
  omega
theorem encVI_fields (_ : true = true) :
    encVI op (markerOf w) (vecAt w 16) (BitVec.ofNat 16 (w / 2 ^ 0)) = withOpcode op w := by
  simp only [withOpcode, encVI, val_vecAt, BitVec.toNat_ofNat]
  omega
theorem encSI_fields (h : (zero w 22 1) = true) :
    encSI op (markerOf w) (scaAt w 16) (BitVec.ofNat 16 (w / 2 ^ 0)) = withOpcode op w := by
  simp only [withOpcode, encSI, val_scaAt, BitVec.toNat_ofNat, zero_iff] at h ⊢
  omega
theorem encI_fields (h : (zero w 16 7) = true) :
    encI op (markerOf w) (BitVec.ofNat 16 (w / 2 ^ 0)) = withOpcode op w := by
  simp only [withOpcode, encI, BitVec.toNat_ofNat, zero_iff] at h ⊢
  omega
theorem encRDSPEC_fields (h : (zero w 4 12) = true) :
    encRDSPEC op (markerOf w) (vecAt w 16) (Fin.ofNat 16 (w / 2 ^ 0)) = withOpcode op w := by
  simp only [withOpcode, encRDSPEC, val_vecAt, Fin.val_ofNat, zero_iff] at h ⊢
  omega
theorem encFRAME_fields (h : (zero w 16 7) = true) :
    encFRAME op (markerOf w) (Fin.ofNat 32 (w / 2 ^ 0)) (Fin.ofNat 64 (w / 2 ^ 5)) (Fin.ofNat 32 (w / 2 ^ 11)) = withOpcode op w := by
  simp only [withOpcode, encFRAME, Fin.val_ofNat, zero_iff] at h ⊢
  omega
theorem encBAR_fields (h : (zero w 4 12 && zero w 16 7) = true) :
    encBAR op (markerOf w) (Fin.ofNat 16 (w / 2 ^ 0)) = withOpcode op w := by
  simp only [withOpcode, encBAR, Fin.val_ofNat, zero_iff, Bool.and_eq_true] at h ⊢
  omega
theorem encMO_fields (h : (zero w 19 4) = true) :
    encMO op (markerOf w) (eightAt w 16) (BitVec.ofNat 16 (w / 2 ^ 0)) = withOpcode op w := by
  simp only [withOpcode, encMO, val_eightAt, BitVec.toNat_ofNat, zero_iff] at h ⊢
  omega
theorem encO_fields (h : (zero w 16 7) = true) :
    encO op (markerOf w) (BitVec.ofNat 16 (w / 2 ^ 0)) = withOpcode op w := by
  simp only [withOpcode, encO, BitVec.toNat_ofNat, zero_iff] at h ⊢
  omega
theorem encENDIF_fields (h : (zero w 0 23) = true) :
    encENDIF op (markerOf w) = withOpcode op w := by
  simp only [withOpcode, encENDIF, zero_iff] at h ⊢
  omega
theorem encMN_fields (h : (zero w 6 10 && zero w 19 4) = true) :
    encMN op (markerOf w) (eightAt w 16) (Fin.ofNat 64 (w / 2 ^ 0)) = withOpcode op w := by
  simp only [withOpcode, encMN, val_eightAt, Fin.val_ofNat, zero_iff, Bool.and_eq_true] at h ⊢
  omega
theorem encSO_fields (h : (zero w 22 1) = true) :
    encSO op (markerOf w) (scaAt w 16) (BitVec.ofNat 16 (w / 2 ^ 0)) = withOpcode op w := by
  simp only [withOpcode, encSO, val_scaAt, BitVec.toNat_ofNat, zero_iff] at h ⊢
  omega
theorem encJ_fields (_ : true = true) :
    encJ op (markerOf w) (BitVec.ofNat 23 (w / 2 ^ 0)) = withOpcode op w := by
  simp only [withOpcode, encJ, BitVec.toNat_ofNat]
  omega
theorem encMEM_fields (_ : true = true) :
    encMEM op (markerOf w) (vecAt w 16) (vecAt w 9) (scaAt w 3) (Fin.ofNat 8 (w / 2 ^ 0)) = withOpcode op w := by
  simp only [withOpcode, encMEM, val_vecAt, val_scaAt, Fin.val_ofNat]
  omega
theorem encATOM_fields (_ : true = true) :
    encATOM op (markerOf w) (vecAt w 16) (vecAt w 9) (scaAt w 3) (Fin.ofNat 4 (w / 2 ^ 1)) (bitAt w 0) = withOpcode op w := by
  simp only [withOpcode, encATOM, val_vecAt, val_scaAt, toNat_bitAt, Fin.val_ofNat]
  omega
theorem encFENCE_fields (h : (zero w 3 20) = true) :
    encFENCE op (markerOf w) (Fin.ofNat 8 (w / 2 ^ 0)) = withOpcode op w := by
  simp only [withOpcode, encFENCE, Fin.val_ofNat, zero_iff] at h ⊢
  omega
theorem encCF_fields (h : (zero w 0 3 && zero w 16 7) = true) :
    encCF op (markerOf w) (vecAt w 9) (scaAt w 3) = withOpcode op w := by
  simp only [withOpcode, encCF, val_vecAt, val_scaAt, zero_iff, Bool.and_eq_true] at h ⊢
  omega
theorem encPREF_fields (h : (zero w 16 7) = true) :
    encPREF op (markerOf w) (vecAt w 9) (scaAt w 3) (Fin.ofNat 8 (w / 2 ^ 0)) = withOpcode op w := by
  simp only [withOpcode, encPREF, val_vecAt, val_scaAt, Fin.val_ofNat, zero_iff] at h ⊢
  omega
theorem encMLDB_fields (h : (zero w 0 3 && zero w 9 7) = true) :
    encMLDB op (markerOf w) (vecAt w 16) (scaAt w 3) = withOpcode op w := by
  simp only [withOpcode, encMLDB, val_vecAt, val_scaAt, zero_iff, Bool.and_eq_true] at h ⊢
  omega
theorem encTILE_fields (h : (zero w 0 3) = true) :
    encTILE op (markerOf w) (vecAt w 16) (vecAt w 9) (scaAt w 3) = withOpcode op w := by
  simp only [withOpcode, encTILE, val_vecAt, val_scaAt, zero_iff] at h ⊢
  omega
theorem encTACT_fields (_ : true = true) :
    encTACT op (markerOf w) (vecAt w 16) (vecAt w 9) (scaAt w 3) (Fin.ofNat 8 (w / 2 ^ 0)) = withOpcode op w := by
  simp only [withOpcode, encTACT, val_vecAt, val_scaAt, Fin.val_ofNat]
  omega
theorem encTST_fields (h : (zero w 15 1) = true) :
    encTST op (markerOf w) (vecAt w 16) (scaAt w 9) (scaAt w 3) (Fin.ofNat 8 (w / 2 ^ 0)) = withOpcode op w := by
  simp only [withOpcode, encTST, val_vecAt, val_scaAt, Fin.val_ofNat, zero_iff] at h ⊢
  omega
theorem encTLD_fields (h : (zero w 0 3 && zero w 15 1) = true) :
    encTLD op (markerOf w) (vecAt w 16) (scaAt w 9) (scaAt w 3) = withOpcode op w := by
  simp only [withOpcode, encTLD, val_vecAt, val_scaAt, zero_iff, Bool.and_eq_true] at h ⊢
  omega
theorem encTLDQ_fields (h : (zero w 0 3 && zero w 16 7 && zero w 15 1) = true) :
    encTLDQ op (markerOf w) (scaAt w 9) (scaAt w 3) = withOpcode op w := by
  simp only [withOpcode, encTLDQ, val_scaAt, zero_iff, Bool.and_eq_true] at h ⊢
  omega
theorem encCPY_fields (h : (zero w 0 3 && zero w 22 1 && zero w 15 1) = true) :
    encCPY op (markerOf w) (scaAt w 16) (scaAt w 9) (scaAt w 3) = withOpcode op w := by
  simp only [withOpcode, encCPY, val_scaAt, zero_iff, Bool.and_eq_true] at h ⊢
  omega
theorem encCPYG_fields (h : (zero w 22 1) = true) :
    encCPYG op (markerOf w) (scaAt w 16) (vecAt w 9) (scaAt w 3) (Fin.ofNat 8 (w / 2 ^ 0)) = withOpcode op w := by
  simp only [withOpcode, encCPYG, val_vecAt, val_scaAt, Fin.val_ofNat, zero_iff] at h ⊢
  omega
theorem encCPYB_fields (h : (zero w 22 1 && zero w 15 1) = true) :
    encCPYB op (markerOf w) (scaAt w 16) (scaAt w 9) (scaAt w 3) (Fin.ofNat 8 (w / 2 ^ 0)) = withOpcode op w := by
  simp only [withOpcode, encCPYB, val_scaAt, Fin.val_ofNat, zero_iff, Bool.and_eq_true] at h ⊢
  omega
theorem encQPUSH_fields (h : (zero w 3 6 && zero w 16 7) = true) :
    encQPUSH op (markerOf w) (Fin.ofNat 8 (w / 2 ^ 0)) (vecAt w 9) = withOpcode op w := by
  simp only [withOpcode, encQPUSH, val_vecAt, Fin.val_ofNat, zero_iff, Bool.and_eq_true] at h ⊢
  omega
theorem encQPOP_fields (h : (zero w 3 13) = true) :
    encQPOP op (markerOf w) (vecAt w 16) (Fin.ofNat 8 (w / 2 ^ 0)) = withOpcode op w := by
  simp only [withOpcode, encQPOP, val_vecAt, Fin.val_ofNat, zero_iff] at h ⊢
  omega
theorem encQS_fields (h : (zero w 3 13 && zero w 22 1) = true) :
    encQS op (markerOf w) (scaAt w 16) (Fin.ofNat 8 (w / 2 ^ 0)) = withOpcode op w := by
  simp only [withOpcode, encQS, val_scaAt, Fin.val_ofNat, zero_iff, Bool.and_eq_true] at h ⊢
  omega
theorem encCW_fields (h : (zero w 0 4 && zero w 22 1) = true) :
    encCW op (markerOf w) (scaAt w 16) (Fin.ofNat 4096 (w / 2 ^ 4)) = withOpcode op w := by
  simp only [withOpcode, encCW, val_scaAt, Fin.val_ofNat, zero_iff, Bool.and_eq_true] at h ⊢
  omega
theorem encF_fields (h : (zero w 0 16 && zero w 22 1) = true) :
    encF op (markerOf w) (scaAt w 16) = withOpcode op w := by
  simp only [withOpcode, encF, val_scaAt, zero_iff, Bool.and_eq_true] at h ⊢
  omega
end

/-! The rows of the opcode map (R49). -/
theorem rowEncodes_opcodes0 : ∀ p ∈ opcodes0, RowEncodes p := by
  simp only [opcodes0, List.forall_mem_cons]
  exact ⟨rowEncodes_of encVVB_fields, rowEncodes_of encVVB_fields, rowEncodes_of encVVB_fields, rowEncodes_of encVVB_fields,
    rowEncodes_of encVVB_fields, rowEncodes_of encVVB_fields, rowEncodes_of encVVB_fields, rowEncodes_of encVV_fields,
    rowEncodes_of encVVB_fields, rowEncodes_of encVVB_fields, rowEncodes_of encVVB_fields, rowEncodes_of encVVB_fields,
    rowEncodes_of encVVB_fields, rowEncodes_of encVVB_fields, rowEncodes_of encVVB_fields, nofun⟩
theorem rowEncodes_opcodes1 : ∀ p ∈ opcodes1, RowEncodes p := by
  simp only [opcodes1, List.forall_mem_cons]
  exact ⟨rowEncodes_of encVVB_fields, rowEncodes_of encVV_fields, rowEncodes_of encVV_fields, rowEncodes_of encVV_fields,
    rowEncodes_of encVVB_fields, rowEncodes_of encMVB_fields, rowEncodes_of encMVB_fields, rowEncodes_of encMVB_fields,
    rowEncodes_of encMVB_fields, rowEncodes_of encVV_fields, rowEncodes_of encVI_fields, rowEncodes_of encVI_fields, rowEncodes_of encVVI_fields,
    rowEncodes_of encVVN_fields, rowEncodes_of encVVN_fields, rowEncodes_of encVVN_fields, nofun⟩
theorem rowEncodes_opcodes2 : ∀ p ∈ opcodes2, RowEncodes p := by
  simp only [opcodes2, List.forall_mem_cons]
  exact ⟨rowEncodes_of encVVI_fields, rowEncodes_of encVVI_fields, rowEncodes_of encVVI_fields, rowEncodes_of encSSS_fields,
    rowEncodes_of encSSS_fields, rowEncodes_of encSSS_fields, rowEncodes_of encSSS_fields, rowEncodes_of encSSS_fields,
    rowEncodes_of encSSS_fields, rowEncodes_of encSSS_fields, rowEncodes_of encSSS_fields, nofun⟩
theorem rowEncodes_opcodes3 : ∀ p ∈ opcodes3, RowEncodes p := by
  simp only [opcodes3, List.forall_mem_cons]
  exact ⟨rowEncodes_of encSSS_fields, rowEncodes_of encSS_fields, rowEncodes_of encSI_fields, rowEncodes_of encSI_fields,
    rowEncodes_of encSSI_fields, rowEncodes_of encSSS_fields, rowEncodes_of encSSS_fields, rowEncodes_of encSSS_fields,
    rowEncodes_of encSV_fields, nofun⟩
theorem rowEncodes_opcodes4 : ∀ p ∈ opcodes4, RowEncodes p := by
  simp only [opcodes4, List.forall_mem_cons]
  exact ⟨rowEncodes_of encVVB_fields, rowEncodes_of encVVB_fields, rowEncodes_of encVVB_fields, rowEncodes_of encVVB_fields,
    rowEncodes_of encVVB_fields, rowEncodes_of encVVB_fields, rowEncodes_of encVV_fields, rowEncodes_of encVV_fields,
    rowEncodes_of encMVB_fields, rowEncodes_of encMVB_fields, rowEncodes_of encMVB_fields, rowEncodes_of encMVB_fields,
    rowEncodes_of encVV_fields, rowEncodes_of encVV_fields, rowEncodes_of encVV_fields, rowEncodes_of encVV_fields, nofun⟩
theorem rowEncodes_opcodes5 : ∀ p ∈ opcodes5, RowEncodes p := by
  simp only [opcodes5, List.forall_mem_cons]
  exact ⟨rowEncodes_of encVV_fields, rowEncodes_of encVV_fields, rowEncodes_of encVV_fields, rowEncodes_of encFCVT_fields,
    rowEncodes_of encVV_fields, rowEncodes_of encVV_fields, rowEncodes_of encVV_fields, rowEncodes_of encVVB_fields, rowEncodes_of encVV_fields,
    rowEncodes_of encVVB_fields, rowEncodes_of encVVB_fields, rowEncodes_of encVVB_fields, rowEncodes_of encVVB_fields,
    rowEncodes_of encVVE_fields, rowEncodes_of encVVE_fields, nofun⟩
theorem rowEncodes_opcodes6 : ∀ p ∈ opcodes6, RowEncodes p := by
  simp only [opcodes6, List.forall_mem_cons]
  exact ⟨rowEncodes_of encMMM_fields, rowEncodes_of encMMM_fields, rowEncodes_of encMMM_fields, rowEncodes_of encMMM_fields,
    rowEncodes_of encMTOS_fields, rowEncodes_of encSTOM_fields, rowEncodes_of encSM_fields, rowEncodes_of encSM_fields,
    rowEncodes_of encVVV_fields, rowEncodes_of encVVS_fields, rowEncodes_of encQSWAP_fields, rowEncodes_of encQBC_fields,
    rowEncodes_of encSV_fields, rowEncodes_of encSV_fields, rowEncodes_of encSV_fields, rowEncodes_of encVV_fields, nofun⟩
theorem rowEncodes_opcodes7 : ∀ p ∈ opcodes7, RowEncodes p := by
  simp only [opcodes7, List.forall_mem_cons]
  exact ⟨rowEncodes_of encI_fields, rowEncodes_of encI_fields, rowEncodes_of encSD_fields, rowEncodes_of encSA_fields,
    rowEncodes_of encRDSPEC_fields, rowEncodes_of encCW_fields, rowEncodes_of encCW_fields, rowEncodes_of encTHSET_fields, nofun⟩
theorem rowEncodes_opcodes8 : ∀ p ∈ opcodes8, RowEncodes p := by
  simp only [opcodes8, List.forall_mem_cons]
  exact ⟨rowEncodes_of encMO_fields, rowEncodes_of encO_fields, rowEncodes_of encENDIF_fields, rowEncodes_of encO_fields,
    rowEncodes_of encMN_fields, rowEncodes_of encMN_fields, rowEncodes_of encO_fields, rowEncodes_of encJ_fields, rowEncodes_of encSO_fields,
    rowEncodes_of encMO_fields, rowEncodes_of encMO_fields, rowEncodes_of encVA_fields, rowEncodes_of encNONE_fields,
    rowEncodes_of encNONE_fields, rowEncodes_of encNONE_fields, rowEncodes_of encNONE_fields, nofun⟩
theorem rowEncodes_opcodes9 : ∀ p ∈ opcodes9, RowEncodes p := by
  simp only [opcodes9, List.forall_mem_cons]
  exact ⟨rowEncodes_of encJ_fields, rowEncodes_of encVA_fields, rowEncodes_of encNONE_fields, rowEncodes_of encFRAME_fields,
    rowEncodes_of encNONE_fields, rowEncodes_of encSD_fields, rowEncodes_of encSA_fields, rowEncodes_of encI_fields,
    rowEncodes_of encNONE_fields, rowEncodes_of encNONE_fields, rowEncodes_of encNONE_fields, rowEncodes_of encBAR_fields,
    rowEncodes_of encBAR_fields, rowEncodes_of encBAR_fields, rowEncodes_of encSA_fields, nofun⟩
theorem rowEncodes_opcodesA : ∀ p ∈ opcodesA, RowEncodes p := by
  simp only [opcodesA, List.forall_mem_cons]
  exact ⟨rowEncodes_of encMEM_fields, rowEncodes_of encMEM_fields, rowEncodes_of encMEM_fields, rowEncodes_of encMEM_fields,
    rowEncodes_of encLDU_fields, rowEncodes_of encLDU_fields, rowEncodes_of encATOM_fields, rowEncodes_of encATOM_fields,
    rowEncodes_of encMEM_fields, rowEncodes_of encMEM_fields, rowEncodes_of encFENCE_fields, rowEncodes_of encCF_fields,
    rowEncodes_of encCF_fields, rowEncodes_of encPREF_fields, rowEncodes_of encF_fields, rowEncodes_of encF_fields, nofun⟩
theorem rowEncodes_opcodesB : ∀ p ∈ opcodesB, RowEncodes p := by
  simp only [opcodesB, List.forall_mem_cons]
  exact ⟨rowEncodes_of encTILE_fields, rowEncodes_of encTILE_fields, rowEncodes_of encTHR_fields, rowEncodes_of encTST_fields,
    rowEncodes_of encTLD_fields, rowEncodes_of encTLDQ_fields, rowEncodes_of encTILE_fields, rowEncodes_of encTILE_fields,
    rowEncodes_of encTACT_fields, nofun⟩
theorem rowEncodes_opcodesC : ∀ p ∈ opcodesC, RowEncodes p := by
  simp only [opcodesC, List.forall_mem_cons]
  exact ⟨rowEncodes_of encAVV_fields, rowEncodes_of encAVV_fields, rowEncodes_of encAV_fields, rowEncodes_of encAS_fields,
    rowEncodes_of encVAS_fields, rowEncodes_of encAVS_fields, rowEncodes_of encSA_fields, rowEncodes_of encMLDB_fields,
    rowEncodes_of encCPY_fields, rowEncodes_of encCPYG_fields, rowEncodes_of encCPYG_fields, rowEncodes_of encCPYB_fields,
    rowEncodes_of encCPYB_fields, rowEncodes_of encSD_fields, rowEncodes_of encSA_fields, rowEncodes_of encSA_fields, nofun⟩
theorem rowEncodes_opcodesD : ∀ p ∈ opcodesD, RowEncodes p := by
  simp only [opcodesD, List.forall_mem_cons]
  exact ⟨rowEncodes_of encSA_fields, rowEncodes_of encSA_fields, rowEncodes_of encSAB_fields, rowEncodes_of encQPUSH_fields,
    rowEncodes_of encQPOP_fields, rowEncodes_of encQS_fields, rowEncodes_of encQS_fields, rowEncodes_of encSA_fields, rowEncodes_of encSA_fields,
    rowEncodes_of encVAB_fields, rowEncodes_of encSA_fields, rowEncodes_of encSA_fields, rowEncodes_of encSA_fields,
    rowEncodes_of encSDA_fields, nofun⟩

theorem rowEncodes_opcodeMap : ∀ p ∈ opcodeMap, RowEncodes p := by
  simp only [opcodeMap, List.forall_mem_append, and_assoc]
  exact ⟨rowEncodes_opcodes0, rowEncodes_opcodes1, rowEncodes_opcodes2, rowEncodes_opcodes3, rowEncodes_opcodes4, rowEncodes_opcodes5,
    rowEncodes_opcodes6, rowEncodes_opcodes7, rowEncodes_opcodes8, rowEncodes_opcodes9, rowEncodes_opcodesA, rowEncodes_opcodesB,
    rowEncodes_opcodesC, rowEncodes_opcodesD⟩

/-- R53 orders 1 to 3: what a word that decodes has passed. -/
theorem decode_ok {w : Nat} {i : Instr} (h : decode w = .ok i) :
    ∃ f, (opcodeOf w, f) ∈ opcodeMap ∧ f w = .ok i ∧ wellFormed i = true := by
  unfold decode at h
  split at h
  · cases h
  next f hl =>
  split at h
  · cases h
  next j hj =>
  split at h
  · cases h
  next hfields =>
  split at h
  · cases h
  next hruns =>
  cases h
  obtain ⟨l₁, l₂, hmap, -⟩ := List.lookup_eq_some_iff.1 hl
  exact ⟨f, by simp [hmap], hj, by simpa [wellFormed] using ⟨by simpa using hfields, by simpa using hruns⟩⟩

/-- Settles O57: the row of the opcode map that reads the word gives its encoding back. -/
theorem encodeOfDecode : Obligations.EncodeOfDecode := by
  intro i w hw h
  obtain ⟨f, hmem, hf, hwf⟩ := decode_ok ((decodeBytes_ok_iff hw).1 h)
  exact ⟨rowEncodes_opcodeMap _ hmem w i hw rfl hf, hwf⟩

/-- Settles O55: the words are evaluated. -/
theorem sampleDecodings : Obligations.SampleDecodings := by
  unfold Obligations.SampleDecodings
  decide +kernel

end Sys2Proof.Laws
end

section
/-!
What the issue of an instruction checks before its effect, check by check in their order (R53, R97, R367).
-/
namespace Sys2Proof.Machine

section
variable {s : State} {wv sp : Nat} {y : Bool} {u : Usage} {body : Ctx → State → State × Eff}

/-- The machine in which split `sp` has taken the trap `code` at its pc. -/
def trapsAt (s : State) (wv sp code : Nat) : State :=
  settleSlots (takeTrap s wv { split := sp, code := code, tpc := (getSplit (waveAt s wv) sp).pc }) wv

theorem issue_cur (hc : s.cur = some (wv, sp)) : issue s y u body = .next (issueAt s wv sp y u body) := by simp only [issue, hc]

/-- R53 order 5: no named window register lies outside the frame. -/
theorem rangeBad_eq_false_iff {f : Frame} : rangeBad f u = false ↔ ∀ r ∈ winRegs (u.vr ++ u.vw), r < f.nin + f.nloc + f.nout := by
  simp only [rangeBad, List.any_eq_false, decide_eq_true_eq, Nat.not_le]
  rfl

/-- R97: outside a replay, STRICT stops an instruction that names a row or a scalar of the outstanding-write set. -/
theorem strictBad_of_outstanding {w : Wave} {f : Frame} (hs : w.regs.strict = true) (hr : w.evt.replaying = false)
    (h : ∃ r ∈ w.out, (∃ k ∈ heldRows w f (usedRuns u (u.vr ++ u.vw)) ++ u.copied, k ∈ r.rows) ∨
      (∃ k ∈ u.sr ++ u.sw, k ≠ 0 ∧ k ∈ r.scalars)) :
    strictBad w f u = true := by
  obtain ⟨r, hout, ⟨k, hk, hrow⟩ | ⟨k, hk, h0, hsca⟩⟩ := h
  · have hrows : (heldRows w f (usedRuns u (u.vr ++ u.vw)) ++ u.copied).any (outRow w) = true :=
      List.any_eq_true.2 ⟨k, hk, List.any_eq_true.2 ⟨r, hout, by simpa using hrow⟩⟩
    simp only [strictBad, hs, hr, hrows, Bool.not_false, Bool.and_true, Bool.true_or]
  · have hscas : (u.sr ++ u.sw).any (outSca w) = true :=
      List.any_eq_true.2 ⟨k, hk, Bool.and_eq_true_iff.2 ⟨by simpa using h0, List.any_eq_true.2 ⟨r, hout, by simpa using hsca⟩⟩⟩
    simp only [strictBad, hs, hr, hscas, Bool.not_false, Bool.and_true, Bool.or_true]

theorem feedDenied_eq_false {w : Wave} (h : u.feed = true → holdsSlots s w = true) : feedDenied s w u = false := by
  cases hf : u.feed <;> simp [feedDenied, hf, h]

theorem priv_passes (hp : u.priv = true → privileged s (waveAt s wv) = true) : (u.priv && !privileged s (waveAt s wv)) = false := by
  cases hu : u.priv with
  | false => rfl
  | true => simp [hp hu]

/-- R53 orders 1 to 3: an illegal field traps first. -/
theorem issueAt_illegal (hl : u.legal = false) : issueAt s wv sp y u body = trapsAt s wv sp 0x01 := by
  simp only [issueAt, hl, Bool.not_false, if_true, finish, trapsAt]

variable (hl : u.legal = true)
include hl

/-- R53 order 4. -/
theorem issueAt_unprivileged (hp : u.priv = true) (hw : privileged s (waveAt s wv) = false) :
    issueAt s wv sp y u body = trapsAt s wv sp 0x02 := by
  simp only [issueAt, hl, hp, hw, Bool.not_true, Bool.not_false, Bool.false_eq_true, if_false, Bool.and_true, if_true, finish, trapsAt]

variable (hp : u.priv = true → privileged s (waveAt s wv) = true)
include hp

/-- R53 order 5. -/
theorem issueAt_outside (hr : rangeBad (getSplit (waveAt s wv) sp).frame u = true) : issueAt s wv sp y u body = trapsAt s wv sp 0x05 := by
  simp only [issueAt, hl, priv_passes hp, hr, Bool.not_true, Bool.false_eq_true, if_false, if_true, finish, trapsAt]

variable (hr : rangeBad (getSplit (waveAt s wv) sp).frame u = false)
include hr

/-- R367: with no active lane, an instruction that skip mode does not execute is passed over. -/
theorem issueAt_skipped (ha : actOf (waveAt s wv) sp = 0) (hx : u.skipExec = false) :
    issueAt s wv sp y u body = finish s wv sp false false .done := by
  simp only [issueAt, hl, priv_passes hp, hr, ha, hx, Bool.not_true, Bool.not_false, Bool.false_eq_true, if_false, if_true,
    decide_true, Bool.and_true]

/-- R97, with the choice of log 13 that it comes before the park of R112. -/
theorem issueAt_hazard (ha : actOf (waveAt s wv) sp ≠ 0 ∨ u.skipExec = true) (hf : feedDenied s (waveAt s wv) u = false)
    (hb : strictBad (waveAt s wv) (getSplit (waveAt s wv) sp).frame u = true) : issueAt s wv sp y u body = trapsAt s wv sp 0x0B := by
  have hact : (decide (actOf (waveAt s wv) sp = 0) && !u.skipExec) = false := by
    rcases ha with ha | ha
    · simp only [ha, decide_false, Bool.false_and]
    · simp only [ha, Bool.not_true, Bool.and_false]
  simp only [issueAt, hl, priv_passes hp, hr, hact, hf, hb, Bool.not_true, Bool.not_false, Bool.false_eq_true, if_false,
    Bool.and_true, if_true, finish, trapsAt]

end

/-- R95, R367: a split of a resident wave that skips its instruction goes on at PC + 4, with no switch marker. -/
theorem finish_skipped {s : State} {wv : Nat} {w : Wave} (hw : tbGet? s.waves wv = some w) (sp : Nat) :
    finish s wv sp false false .done = settleSlots (putWave s wv (putSplit w sp (stepPast (getSplit w sp)))) wv := by
  simp only [finish, onWave, hw, Bool.false_eq_true, if_false, marker_off (.inl rfl)]

/-- R49, R53: a word that is no instruction takes the trap of an illegal field. -/
theorem exec_illegalInstruction {s : State} {wv sp word : Nat} (hc : s.cur = some (wv, sp)) (h : isLegalWord word = false) :
    exec (.illegalInstruction word) s = .next (trapsAt s wv sp 0x01) := by
  have he : exec (.illegalInstruction word) s = issue s false { legal := false } (fun _ s => (s, .done)) := by
    simp only [exec, execIllegalInstruction, h, Bool.false_eq_true, if_false]
  rw [he, issue_cur hc, issueAt_illegal rfl]

/-- Settles O51: each check, once those before it are passed. -/
theorem issueChecks : Obligations.IssueChecks := by
  intro s wv sp y u body word w x trapped inside hc
  have hinside (b : Bool) : inside = b ↔ rangeBad x.frame u = !b := by
    cases b <;> simp [inside, ← rangeBad_eq_false_iff]
  rw [issue_cur hc]
  refine ⟨?illegal, ?privilege, ?outside, ?skip, ?hazard, exec_illegalInstruction hc, ?legalWord⟩
  case illegal => exact fun hl => congrArg _ (issueAt_illegal hl)
  case privilege => exact fun hl hp hw => congrArg _ (issueAt_unprivileged hl hp hw)
  case outside => exact fun hl hp hr => congrArg _ (issueAt_outside hl hp ((hinside false).1 hr))
  case skip =>
    intro hl hp hr ha hx hw
    rw [issueAt_skipped hl hp ((hinside true).1 hr) ha hx, finish_skipped hw]
    rfl
  case hazard =>
    intro hl hp hr ha hs hf hre hout
    rw [issueAt_hazard hl hp ((hinside true).1 hr) ha (feedDenied_eq_false hf) (strictBad_of_outstanding hs hre hout)]
    rfl
  case legalWord =>
    intro h
    simp only [exec, execIllegalInstruction, h, if_true, event]

end Sys2Proof.Machine
end

section
/-!
CWWR (R52, R91 to R93, R104, R388, R406, R407): the machine that it leaves, word by word.
-/
namespace Sys2Proof.Machine

/-! The words (R91). -/
/-- The words of the wave that keep a bit of what is written. -/
def cwWaveWords : List Nat := [0x002, 0x012, 0x013, 0x015, 0x016, 0x017, 0x020, 0x022, 0x030, 0x031, 0x032]
/-- The words of the island that keep a bit of what is written. -/
def cwIslandWords : List Nat := [0x033, 0x100, 0x101]

theorem winWrite_of_not_mem {n : Nat} (h : n ∉ cwWaveWords) (w : Window) (v : Nat) : winWrite w n v = w := by
  unfold winWrite
  split
  case h_6 => rfl
  all_goals exact absurd (by decide) h
/-- R91: the wave keeps nothing of what is written to another word. -/
theorem cwWriteWave_of_not_mem {n : Nat} (h : n ∉ cwWaveWords) (w : Wave) (v : Nat) : cwWriteWave w n v = w := by
  unfold cwWriteWave
  split
  case h_7 => rw [winWrite_of_not_mem h]
  all_goals exact absurd (by decide) h
theorem cwWriteIsland_of_not_mem {n : Nat} (h : n ∉ cwIslandWords) (s : State) (p : Bool) (isl v : Nat) : cwWriteIsland s p isl n v = s := by
  unfold cwWriteIsland
  dsimp only
  split
  case h_4 => rfl
  all_goals exact absurd (by decide) h
/-- The splits, the wait and the outstanding results stay. -/
theorem cwWriteWave_keeps (w : Wave) (n v : Nat) :
    (cwWriteWave w n v).ctl.splits = w.ctl.splits ∧ (cwWriteWave w n v).ctl.wait = w.ctl.wait ∧ (cwWriteWave w n v).out = w.out := by
  unfold cwWriteWave
  split
  all_goals exact ⟨rfl, rfl, rfl⟩
theorem cwWriteIsland_waves (s : State) (p : Bool) (isl n v : Nat) : (cwWriteIsland s p isl n v).waves = s.waves := by
  unfold cwWriteIsland
  dsimp only
  repeat' split
  all_goals rfl

/-! R406: what the verdict field of FAULTRES does. -/
theorem writeFaultres_verdict {v : Nat} (isl : Nat) (s : State) (h : bitsOf v 12 2 = 1 ∨ bitsOf v 12 2 = 2) :
    writeFaultres isl v s = verdictAt isl (bitsOf v 0 12) (decide (bitsOf v 12 2 = 1)) s := by
  rcases h with h | h <;> simp [writeFaultres, h]
theorem writeFaultres_none {v : Nat} (isl : Nat) (s : State) (h : bitsOf v 12 2 = 0 ∨ bitsOf v 12 2 = 3) : writeFaultres isl v s = s := by
  rcases h with h | h <;> simp [writeFaultres, h]
/-- The definition is opened as a function, away from its arguments: with the slot in place the kernel would try to find it in the queue. -/
theorem verdictAt_eq (isl slot : Nat) (ok : Bool) (s : State) :
    verdictAt isl slot ok s = (slotIndex (islandAt s isl) slot).elim s fun k => applyVerdict isl k ok s := by
  generalize hrun : verdictAt = run
  delta verdictAt at hrun
  subst hrun
  dsimp only
  cases slotIndex (islandAt s isl) slot with
  | none => rfl
  | some k => rfl

/-! The instruction. -/
/-- The value that CWWR writes. -/
def cwValue (s : State) (wv : Nat) (a : SReg) : Nat := (sget (waveAt s wv) a.val).toNat

/-- The machine once `v` is written to control word `n`, before a verdict acts. -/
def cwWritten (s : State) (wv sp n v : Nat) : State :=
  cwWriteIsland (putWave { s with free := s.free + 2 } wv (cwWriteWave (openIssue (waveAt s wv) sp true) n v))
    (privileged s (waveAt s wv)) (islandOf s (waveAt s wv)) n v

theorem waveAt_cwWritten (s : State) (wv sp n v : Nat) :
    waveAt (cwWritten s wv sp n v) wv = cwWriteWave (openIssue (waveAt s wv) sp true) n v := by
  rw [waveAt, cwWritten, cwWriteIsland_waves]
  exact waveAt_putWave ..

section
variable {s : State} {wv sp : Nat} {y : Bool} {a : SReg} {n : Fin 4096} (h : ready s wv sp (useCwwr a n.val) = true)
include h

theorem steady_cwWritten (k v : Nat) : steady (cwWritten s wv sp k v) wv sp = true := by
  have hs := entered_steady h
  rw [begun_plain rfl, steady_iff, entered_wave] at hs
  obtain ⟨-, hlen, hvalid, hheld, hwait⟩ := hs
  obtain ⟨hsplits, hw, -⟩ := cwWriteWave_keeps (openIssue (waveAt s wv) sp true) k v
  rw [steady_iff, waveAt_cwWritten]
  simp only [getSplit, hsplits, hw]
  refine ⟨?_, hlen, hvalid, hheld, hwait⟩
  rw [cwWritten, cwWriteIsland_waves]
  simp [tbGet?_tbPut_self]

/-- From a ready state: the write, the verdict, and what follows an instruction. -/
theorem exec_cwwr : exec (.cwwr y a n) s = .next (finish
    (if n.val = 0x102 then writeFaultres (islandOf s (waveAt s wv)) (cwValue s wv a) (cwWritten s wv sp n.val (cwValue s wv a))
      else cwWritten s wv sp n.val (cwValue s wv a)) wv sp y false .done) := by
  obtain ⟨hbad, -, -, -, -, -, -, -, hout, -⟩ := ready_iff.1 h
  have he : exec (.cwwr y a n) s = execCwwr y a n s := rfl
  rw [he, execCwwr, issue_ready h, begun_plain rfl]
  refine congrArg _ (runBody_quiet hbad hout ?_)
  have hw : waveAt (entered s wv sp true) wv = openIssue (waveAt s wv) sp true := entered_wave ..
  have hput (z : Wave) : putWave (entered s wv sp true) wv z = putWave { s with free := s.free + 2 } wv z := putWave_putWave ..
  have hwv : (seen s wv sp).wv = wv := rfl
  have hu : (useCwwr a n.val).closes = true := rfl
  simp only [hu, hwv, hw, hput]
  rfl

/-- A word other than FAULTRES: the split goes on after the write. -/
theorem exec_cwwr_stepped (hn : n.val ≠ 0x102) :
    exec (.cwwr y a n) s = .next (stepped (cwWritten s wv sp n.val (cwValue s wv a)) wv sp) := by
  obtain ⟨-, -, -, h4, -, -, -, -, hout, -⟩ := ready_iff.1 h
  have hkeeps : (waveAt (cwWritten s wv sp n.val (cwValue s wv a)) wv).out = [] := by
    obtain ⟨-, -, hsame⟩ := cwWriteWave_keeps (openIssue (waveAt s wv) sp true) n.val (cwValue s wv a)
    rw [waveAt_cwWritten, hsame, openIssue_out, hout]
  rw [exec_cwwr h, if_neg hn, finish_done (coll := false) h4 (steady_cwWritten h _ _) nofun (.inr hkeeps)]

/-- Word `k` of the wave. -/
theorem exec_cwwr_wave {k : Nat} {z : Wave → Wave} (hk : k ∉ cwIslandWords) (hf : k ≠ 0x102)
    (hz : cwWriteWave (openIssue (waveAt s wv) sp true) k (cwValue s wv a) = z (openIssue (waveAt s wv) sp true))
    (hn : decide (n.val = k) = true) : exec (.cwwr y a n) s = .next (ends s wv sp (useCwwr a n.val) z) := by
  obtain rfl := of_decide_eq_true hn
  rw [exec_cwwr_stepped h hf, cwWritten, cwWriteIsland_of_not_mem hk, hz]
  rfl

/-- Word `k` of the island. -/
theorem exec_cwwr_island {k : Nat} {z : Island} (hk : k ∉ cwWaveWords) (hf : k ≠ 0x102)
    (hz : ∀ t, islandAt t (islandOf s (waveAt s wv)) = islandAt s (islandOf s (waveAt s wv)) →
      cwWriteIsland t (privileged s (waveAt s wv)) (islandOf s (waveAt s wv)) k (cwValue s wv a) = putIsland t (islandOf s (waveAt s wv)) z)
    (hn : n.val = k) :
    exec (.cwwr y a n) s = .next (ends (putIsland s (islandOf s (waveAt s wv)) z) wv sp (useCwwr a n.val) id) := by
  subst hn
  have ht := hz (putWave { s with free := s.free + 2 } wv (openIssue (waveAt s wv) sp true)) rfl
  rw [exec_cwwr_stepped h hf, cwWritten, cwWriteWave_of_not_mem hk, ht]
  rfl

/-- A word that keeps nothing of what is written. -/
theorem exec_cwwr_ignored (hn : n.val ∉ 0x102 :: (cwIslandWords ++ cwWaveWords)) :
    exec (.cwwr y a n) s = .next (ends s wv sp (useCwwr a n.val) id) := by
  simp only [List.mem_cons, List.mem_append, not_or] at hn
  obtain ⟨hf, hi, hw⟩ := hn
  exact exec_cwwr_wave h hi hf (cwWriteWave_of_not_mem hw ..) (decide_eq_true rfl)

/-- R407: REPSTALL of an unprivileged wave. -/
theorem exec_cwwr_unprivileged (hn : n.val = 0x033) (hp : privileged s (waveAt s wv) = false) :
    exec (.cwwr y a n) s = .next (ends s wv sp (useCwwr a n.val) id) := by
  have hi (t : State) (isl v : Nat) : cwWriteIsland t false isl 0x033 v = t := rfl
  rw [exec_cwwr_stepped h (by simp [hn]), cwWritten, hn, cwWriteWave_of_not_mem (by decide), hp, hi]
  rfl

/-- R406: FAULTRES acts on the machine as the instruction enters. -/
theorem exec_cwwr_faultres (hn : n.val = 0x102) : exec (.cwwr y a n) s =
    .next (finish (writeFaultres (islandOf s (waveAt s wv)) (cwValue s wv a) (entered s wv sp true)) wv sp y false .done) := by
  rw [exec_cwwr h, if_pos hn, cwWritten, hn, cwWriteIsland_of_not_mem (by decide), cwWriteWave_of_not_mem (by decide)]
  rfl
theorem finish_entered : finish (entered s wv sp true) wv sp y false .done = ends s wv sp (useCwwr a n.val) id := by
  have hs := entered_steady h
  obtain ⟨-, -, -, h4, -, -, -, -, hout, -⟩ := ready_iff.1 h
  rw [begun_plain rfl] at hs
  refine finish_done h4 hs nofun (.inr ?_)
  rw [entered_wave, openIssue_out, hout]
theorem exec_cwwr_verdict (hn : n.val = 0x102) (hv : bitsOf (cwValue s wv a) 12 2 = 1 ∨ bitsOf (cwValue s wv a) 12 2 = 2) :
    exec (.cwwr y a n) s = .next (finish
      ((slotIndex (islandAt s (islandOf s (waveAt s wv))) (bitsOf (cwValue s wv a) 0 12)).elim (entered s wv sp true) fun k =>
        applyVerdict (islandOf s (waveAt s wv)) k (decide (bitsOf (cwValue s wv a) 12 2 = 1)) (entered s wv sp true)) wv sp y false .done) := by
  have hisl (k : Nat) : islandAt (entered s wv sp true) k = islandAt s k := rfl
  rw [exec_cwwr_faultres h hn, writeFaultres_verdict _ _ hv, verdictAt_eq, hisl]
theorem exec_cwwr_noVerdict (hn : n.val = 0x102) (hv : bitsOf (cwValue s wv a) 12 2 = 0 ∨ bitsOf (cwValue s wv a) 12 2 = 3) :
    exec (.cwwr y a n) s = .next (ends s wv sp (useCwwr a n.val) id) := by
  rw [exec_cwwr_faultres h hn, writeFaultres_none _ _ hv, finish_entered h]
end

/-! What each word of the wave keeps (R91, R93, R104, R388). -/
section
variable (w : Wave) (v : Nat)

theorem cwWriteWave_tmcmp (x : Scalar) : cwWriteWave w 0x002 x.toNat = { w with tim := { w.tim with tmcmp := x } } := by
  simp only [cwWriteWave, BitVec.ofNat_toNat, BitVec.setWidth_eq]
theorem cwWriteWave_bstore : cwWriteWave w 0x012 v =
    if w.win.bused = 0 then { w with win := { w.win with bstore := v % 2 ^ 57 - v % 2 ^ 7 } } else w := by
  have hv : v % 2 ^ 57 - v % 2 ^ 7 = v % 2 ^ 57 / 128 * 128 := by omega
  rw [hv]
  change { w with win := if w.win.bused = 0 then _ else _ } = _
  split <;> rfl
theorem cwWriteWave_bsize : cwWriteWave w 0x013 v =
    if w.win.bused ≤ v then { w with win := { w.win with bsize := if 2 ^ 40 < v then 2 ^ 40 else v - v % 4 } } else w := by
  have hv : v - v % 4 = v / 4 * 4 := by omega
  rw [hv]
  change { w with win := if w.win.bused ≤ v then _ else _ } = _
  split <;> rfl
theorem cwWriteWave_low : cwWriteWave w 0x017 v = { w with win := { w.win with low := v % 2 ^ 10, rahi := v / 2 ^ 16 % 2 ^ 10 } } := by
  have hv : v % 2 ^ 10 = bitsOf v 0 10 := by simp [bitsOf]
  rw [hv]
  rfl
theorem cwWriteWave_trapvec : cwWriteWave w 0x020 v = { w with evt := { w.evt with trapvec := v % 2 ^ 57 - v % 4 } } := by
  have hv : v % 2 ^ 57 - v % 4 = v % 2 ^ 57 / 4 * 4 := by omega
  rw [hv]
  rfl
theorem cwWriteWave_tpc : cwWriteWave w 0x022 v = { w with evt := { w.evt with tpc := v % 2 ^ 57 - v % 4 } } := by
  have hv : v % 2 ^ 57 - v % 4 = v % 2 ^ 57 / 4 * 4 := by omega
  rw [hv]
  rfl
theorem cwWriteWave_hazard : cwWriteWave w 0x031 v = { w with regs := { w.regs with
    flags := (w.regs.flags &&& ~~~ BitVec.ofNat 6 (v / 2 ^ 16)) ||| w.tim.fresh, strict := decide (v % 2 = 1) } } := by
  have hflags : BitVec.ofNat 6 (v / 2 ^ 16) = BitVec.ofNat 6 (bitsOf v 16 6) := BitVec.eq_of_toNat_eq (by simp [bitsOf])
  have hstrict : decide (v % 2 = 1) = bitOf v 0 := Bool.eq_iff_iff.2 (by simp [bitOf, bitsOf])
  rw [hflags, hstrict]
  rfl
end

/-- Settles O12: word by word. -/
theorem controlWordWrites : Obligations.ControlWordWrites := by
  intro y a n s wv sp u v here isl waves island h
  refine ⟨?reserved, ?faultres, ?tmcmp, ?bstore, ?bsize, ?spills, ?refills, ?low, ?trapvec, ?tpc, ?mergewait, ?hazard, ?spinq, ?repstall,
    ?unprivileged, ?t1, ?t2, ?noVerdict, ?readOnly⟩
  case reserved =>
    intro hn
    refine exec_cwwr_ignored h ?_
    simp only [cwIslandWords, cwWaveWords, List.cons_append, List.nil_append, List.mem_cons, List.not_mem_nil, or_false]
    omega
  case faultres =>
    intro hn hv
    have hslot : bitsOf (cwValue s wv a) 0 12 = v % 2 ^ 12 := by simp [bitsOf, cwValue, v]
    have he := exec_cwwr_verdict (y := y) h hn hv
    rw [hslot] at he
    refine ⟨fun hs => ?_, fun k hs => ?_⟩
    · rw [he, hs]
      exact congrArg _ (finish_entered h)
    · rw [he, hs]
      rfl
  case tmcmp => exact exec_cwwr_wave h (by decide) (by decide) (cwWriteWave_tmcmp ..)
  case bstore => exact exec_cwwr_wave h (by decide) (by decide) (cwWriteWave_bstore ..)
  case bsize => exact exec_cwwr_wave h (by decide) (by decide) (cwWriteWave_bsize ..)
  case low => exact exec_cwwr_wave h (by decide) (by decide) (cwWriteWave_low ..)
  case trapvec => exact exec_cwwr_wave h (by decide) (by decide) (cwWriteWave_trapvec ..)
  case tpc => exact exec_cwwr_wave h (by decide) (by decide) (cwWriteWave_tpc ..)
  case hazard => exact exec_cwwr_wave h (by decide) (by decide) (cwWriteWave_hazard ..)
  case spills | refills | mergewait | spinq => exact exec_cwwr_wave h (by decide) (by decide) rfl
  case repstall =>
    intro hn
    obtain ⟨hn, hp⟩ := Bool.and_eq_true_iff.1 hn
    refine exec_cwwr_island h (by decide) (by decide) (fun t ht => ?_) (of_decide_eq_true hn)
    simp only [cwWriteIsland, hp, ht, if_true]
    rfl
  case unprivileged =>
    intro hn
    obtain ⟨hn, hp⟩ := Bool.and_eq_true_iff.1 hn
    exact exec_cwwr_unprivileged h (of_decide_eq_true hn) (by simpa using hp)
  case t1 | t2 =>
    intro hn
    refine exec_cwwr_island h (by decide) (by decide) (fun t ht => ?_) (of_decide_eq_true hn)
    simp only [cwWriteIsland, ht]
    rfl
  case noVerdict =>
    intro hn
    obtain ⟨hn, hv⟩ := Bool.and_eq_true_iff.1 hn
    have hv : v / 2 ^ 12 % 4 = 0 ∨ v / 2 ^ 12 % 4 = 3 := by simpa using hv
    exact exec_cwwr_noVerdict h (of_decide_eq_true hn) hv
  case readOnly =>
    intro hn
    simp only [Bool.or_eq_true, Bool.and_eq_true, decide_eq_true_eq, List.contains_iff_mem, List.mem_cons, List.not_mem_nil, or_false] at hn
    refine exec_cwwr_ignored h ?_
    simp only [cwIslandWords, cwWaveWords, List.cons_append, List.nil_append, List.mem_cons, List.not_mem_nil, or_false]
    omega

end Sys2Proof.Machine
end

section
/-!
Integer elements (R10, R70, R71): the value that a pattern stands for, what wrapping and clamping deliver, and packed results; and the element-wise
integer instructions (R126).
-/
namespace Sys2Proof.Machine

/-! The low bits of an integer, and the number that they stand for (R10). -/
theorem two_pow_pos (n : Nat) : (0 : Int) < (2 ^ n : Nat) := Int.natCast_pos.2 (Nat.two_pow_pos n)
theorem wrapTo_cast (n : Nat) (x : Int) : (wrapTo n x : Int) = x % (2 ^ n : Nat) :=
  Int.toNat_of_nonneg (Int.emod_nonneg x (Int.ne_of_gt (two_pow_pos n)))
theorem wrapTo_lt (n : Nat) (x : Int) : wrapTo n x < 2 ^ n := by
  have hlt : x % (2 ^ n : Nat) < (2 ^ n : Nat) := Int.emod_lt_of_pos x (two_pow_pos n)
  rw [← wrapTo_cast] at hlt
  exact Int.ofNat_lt.1 hlt
theorem wrapTo_mod (n : Nat) (x : Int) : wrapTo n x % 2 ^ n = wrapTo n x := Nat.mod_eq_of_lt (wrapTo_lt n x)
@[simp] theorem wrapTo_zero (n : Nat) : wrapTo n 0 = 0 := by simp [wrapTo]
/-- The residue differs from the number by a multiple of the modulus. -/
theorem wrapTo_sub_emod (n : Nat) (x : Int) : ((wrapTo n x : Int) - x) % (2 ^ n : Nat) = 0 := by
  rw [wrapTo_cast, Int.sub_emod, Int.emod_emod, Int.sub_self, Int.zero_emod]

theorem signedOf_bounds {n : Nat} (hn : 0 < n) (x : Nat) : -(2 ^ (n - 1) : Nat) ≤ signedOf n x ∧ signedOf n x < (2 ^ (n - 1) : Nat) := by
  have hlt : x % 2 ^ n < 2 ^ n := Nat.mod_lt _ (Nat.two_pow_pos n)
  have htwo : 2 ^ n = 2 * 2 ^ (n - 1) := by rw [← Nat.pow_succ']; congr 1; omega
  unfold signedOf
  split <;> omega
/-- R10: the code of a number in the range stands for it. -/
theorem signedOf_wrapTo {n : Nat} {x : Int} (hn : 0 < n) (hlo : -(2 ^ (n - 1) : Nat) ≤ x) (hhi : x < (2 ^ (n - 1) : Nat)) :
    signedOf n (wrapTo n x) = x := by
  have htwo : 2 ^ n = 2 * 2 ^ (n - 1) := by rw [← Nat.pow_succ']; congr 1; omega
  have hcode : (wrapTo n x : Int) = if x < 0 then x + (2 ^ n : Nat) else x := by
    rw [wrapTo_cast]
    split
    · rw [← Int.add_emod_right, Int.emod_eq_of_lt] <;> omega
    · exact Int.emod_eq_of_lt (by omega) (by omega)
  rw [signedOf, wrapTo_mod]
  split at hcode <;> split <;> omega

/-! The range of an integer type (R70). -/
theorem etWidth_pos (et : Nat) : 0 < etWidth et := (etWidth_div et).1
theorem etWidth_mul_count (et : Nat) : etWidth et * etCount et = 32 := by rw [Nat.mul_comm]; exact (etWidth_div et).2
theorem etLo_le_etHi (et : Nat) : etLo et ≤ etHi et := by
  have h1 := Nat.two_pow_pos (etWidth et)
  have h2 := Nat.two_pow_pos (etWidth et - 1)
  unfold etLo etHi
  split <;> omega
theorem etLo_nonpos (et : Nat) : etLo et ≤ 0 := by
  have h := Nat.two_pow_pos (etWidth et - 1)
  unfold etLo
  split <;> omega
theorem etHi_nonneg (et : Nat) : 0 ≤ etHi et := by
  have h1 := Nat.two_pow_pos (etWidth et)
  have h2 := Nat.two_pow_pos (etWidth et - 1)
  unfold etHi
  split <;> omega

/-- The number that a pattern of an integer type stands for. -/
def typedVal (et m : Nat) : Int := if etSigned et then signedOf (etWidth et) m else m

theorem elemVal_eq_typedVal (et x e : Nat) : elemVal et x e = typedVal et (elemAt (etWidth et) x e) := rfl
theorem elemAt_lt (w x e : Nat) : elemAt w x e < 2 ^ w := Nat.mod_lt _ (Nat.two_pow_pos w)
theorem typedVal_bounds {et m : Nat} (h : m < 2 ^ etWidth et) : etLo et ≤ typedVal et m ∧ typedVal et m ≤ etHi et := by
  have hs := signedOf_bounds (etWidth_pos et) m
  unfold etLo etHi typedVal
  split <;> omega
theorem elemVal_bounds (et x e : Nat) : etLo et ≤ elemVal et x e ∧ elemVal et x e ≤ etHi et := typedVal_bounds (elemAt_lt ..)
theorem typedVal_wrapTo {et : Nat} {v : Int} (hlo : etLo et ≤ v) (hhi : v ≤ etHi et) : typedVal et (wrapTo (etWidth et) v) = v := by
  unfold etLo at hlo
  unfold etHi at hhi
  unfold typedVal
  split
  · next hs =>
    rw [if_pos hs] at hlo hhi
    exact signedOf_wrapTo (etWidth_pos et) hlo (by omega)
  · next hs =>
    rw [if_neg hs] at hlo hhi
    rw [wrapTo_cast, Int.emod_eq_of_lt hlo (by omega)]

/-! Clamping (R71). -/
section
variable {lo hi t : Int}

theorem clampTo_inside (hlo : lo ≤ t) (hhi : t ≤ hi) : clampTo lo hi t = (t, false) := by
  rw [clampTo, if_neg (by omega), if_neg (by omega)]
theorem clampTo_below (h : t < lo) : clampTo lo hi t = (lo, true) := by rw [clampTo, if_pos h]
theorem clampTo_above (hle : lo ≤ hi) (h : hi < t) : clampTo lo hi t = (hi, true) := by
  rw [clampTo, if_neg (by omega), if_pos h]
theorem clampTo_fst (lo hi t : Int) : (clampTo lo hi t).1 = if t < lo then lo else if hi < t then hi else t := by
  unfold clampTo
  repeat' split
  all_goals rfl
theorem clampTo_changed (lo hi t : Int) : (clampTo lo hi t).2 = decide ((clampTo lo hi t).1 ≠ t) := by
  unfold clampTo
  repeat' split
  all_goals simp <;> omega
theorem clampTo_bounds (hle : lo ≤ hi) (t : Int) : lo ≤ (clampTo lo hi t).1 ∧ (clampTo lo hi t).1 ≤ hi := by
  unfold clampTo
  repeat' split
  all_goals dsimp only; omega
end

/-- R71: a wrapped element. -/
theorem intElem_wraps (et : Nat) (t : Int) : intElem et false t = (wrapTo (etWidth et) t, 0) := rfl
/-- R71: a clamped element. -/
theorem intElem_clamps (et : Nat) (t : Int) : intElem et true t =
    (wrapTo (etWidth et) (clampTo (etLo et) (etHi et) t).1, flagIf (clampTo (etLo et) (etHi et) t).2 flSA) := rfl
theorem intElem_lt (et : Nat) (sat : Bool) (t : Int) : (intElem et sat t).1 < 2 ^ etWidth et := by
  cases sat <;> exact wrapTo_lt ..
theorem typedVal_intElem_sat (et : Nat) (t : Int) : typedVal et (intElem et true t).1 = (clampTo (etLo et) (etHi et) t).1 := by
  obtain ⟨hlo, hhi⟩ := clampTo_bounds (etLo_le_etHi et) t
  exact typedVal_wrapTo hlo hhi
/-- R71: SA says that clamping changed the element. -/
theorem intElem_flags (et : Nat) (sat : Bool) (t : Int) :
    (intElem et sat t).2 = flagIf (sat && decide (t < etLo et ∨ etHi et < t)) flSA := by
  cases sat with
  | false => rfl
  | true =>
    rw [intElem_clamps, Bool.true_and]
    refine congrArg (flagIf · flSA) ?_
    unfold clampTo
    repeat' split
    all_goals simp [*]

/-! The instructions (R126). -/
/-- An arithmetic body writes `f` of each element, delivered under MODE.SAT where the instruction clamps. -/
theorem writesElements_arith {i : Instr} {y : Bool} {u : Usage} {d a : VReg} {b : BOp} {clamps : Bool} {f : Nat → Int → Int → Int → Int}
    {r : Ctx → Nat → Nat → Nat × Flags} (hc : u.collective = false) (h : ∀ s, exec i s = issue s y u (arithBody d a b clamps f))
    (hr : ∀ c l e, intElem (intType c.split.mode) (clamps && modeSAT c.split.mode)
      (f (intType c.split.mode) (elemVal (intType c.split.mode) (vec c a l).toNat e) (elemVal (intType c.split.mode) (bval c b l).toNat e)
        (elemVal (intType c.split.mode) (vec c d l).toNat e)) = r c l e) :
    WritesElements i u d (fun c => c.wm) (fun mode => etWidth (intType mode)) r :=
  writesElements_of (fun _ => etWidth_div _) hc h fun c l e => by rw [← hr]; exact ⟨rfl, rfl⟩

theorem natAbs_eq_ite (x : Int) : (x.natAbs : Int) = if x < 0 then -x else x := by split <;> omega

/-- Settles O1: each instruction writes what its exact result delivers, and what is delivered is the residue or the clamped value. -/
theorem integerArithmetic : Obligations.IntegerArithmetic := by
  refine ⟨?instructions, ?delivery⟩
  case instructions =>
    intro y d a b i wm w x v z delivered low
    have hb := useVVB_collective d a b
    refine ⟨?iadd, ?isub, ?imul, ?imulh, ?imad, ?imin, ?imax, ?iabs, ?iaddi⟩
    case iadd | isub | imul | imulh => exact writesElements_arith hb (fun _ => rfl) fun _ _ _ => rfl
    case imad => exact writesElements_arith (useAcc_collective d a b) (fun _ => rfl) fun _ _ _ => rfl
    case imin => exact writesElements_arith hb (fun _ => rfl) fun _ _ _ => congrArg _ (Int.min_def ..)
    case imax => exact writesElements_arith hb (fun _ => rfl) fun _ _ _ => congrArg _ (Int.max_def ..)
    case iabs => exact writesElements_arith rfl (fun _ => rfl) fun _ _ _ => congrArg _ (natAbs_eq_ite _)
    case iaddi => exact writesElements_arith rfl (fun _ => rfl) fun _ _ _ => rfl
  case delivery =>
    intro et t _ w n m shown
    have hshown : shown = (clampTo (etLo et) (etHi et) t).1 := typedVal_intElem_sat et t
    obtain ⟨hlo, hhi⟩ := clampTo_bounds (etLo_le_etHi et) t
    refine ⟨intElem_lt .., wrapTo_sub_emod .., rfl, intElem_lt .., hshown ▸ hlo, hshown ▸ hhi, ?inside, ?below, ?above⟩
    case inside =>
      intro h1 h2
      rw [hshown, intElem_clamps, clampTo_inside h1 h2]
      exact ⟨rfl, rfl⟩
    case below =>
      intro h
      rw [hshown, intElem_clamps, clampTo_below h]
      exact ⟨rfl, rfl⟩
    case above =>
      intro h
      rw [hshown, intElem_clamps, clampTo_above (etLo_le_etHi et) h]
      exact ⟨rfl, rfl⟩

end Sys2Proof.Machine
end

section
/-!
The matrix array (R72, R77, R78, R253 to R258, R262): the command at the head of a quarter's queue, a pass of an MMAQ, and a step over integer
elements.
-/
namespace Sys2Proof.Machine

/-! The slot and the queue (R253). -/
@[simp] theorem quarterAt_onWave (s : State) (wv k : Nat) (f : Wave → Wave) : quarterAt (onWave s wv f) k = quarterAt s k := by
  unfold onWave
  split <;> simp
theorem waveAt_onWave {s : State} {wv : Nat} {w : Wave} (h : tbGet? s.waves wv = some w) (f : Wave → Wave) :
    waveAt (onWave s wv f) wv = f w := by
  simp only [onWave, h, waveAt_putWave]
@[simp] theorem waveAt_popCmd (s : State) (q wv : Nat) : waveAt (popCmd s q) wv = waveAt s wv := waveAt_putQuarter ..
@[simp] theorem quarterAt_popCmd (s : State) (q : Nat) :
    quarterAt (popCmd s q) q = { quarterAt s q with queue := (quarterAt s q).queue.drop 1 } := quarterAt_putQuarter ..
/-- R412: a slot with no entry in error is read as it stands. -/
theorem readSlot_clean {s : State} {q : Nat} {m : MatCmd} (h : (accSlot (quarterAt s q) m.acc).bad = []) (hit : Nat → Bool) :
    readSlot s q m hit = (s, accSlot (quarterAt s q) m.acc) := by
  simp only [readSlot, h, List.filter_nil, List.isEmpty_nil, if_true]

section
variable {s : State} {q : Nat} {m : MatCmd} {rest : List MatCmd} (hq : (quarterAt s q).queue = m :: rest)
include hq

/-- R253: a command that leaves `a` in its slot, and goes. -/
theorem popCmd_putAcc (n : Nat) (a : AccSlot) : popCmd (putAcc s q n a) q =
    putQuarter s q { quarterAt s q with accs := (quarterAt s q).accs.set n a, queue := rest } := by
  simp only [popCmd, putAcc, quarterAt_putQuarter, putQuarter_putQuarter, hq, List.drop_one, List.tail_cons]

theorem runCommand_mzero (h : m.op = .mzero) : runCommand q s =
    popCmd (putAcc s q m.acc { clearSlot (accSlot (quarterAt s q) m.acc) with entries := [], bad := [] }) q := by
  simp only [runCommand, hq, h]
theorem runCommand_mwra (h : m.op = .mwra) :
    runCommand q s = popCmd (putAcc s q m.acc (setEntries (mwraCol m) (clearSlot (accSlot (quarterAt s q) m.acc)))) q := by
  simp only [runCommand, hq, h]
theorem runCommand_mma (h : m.op = .mma) (hb : (accSlot (quarterAt s q) m.acc).bad = []) : runCommand q s =
    popCmd (putAcc s q m.acc
      ((List.range (m.width / 32)).foldl (fun a t => denseTile m m.b t (16 * t) a) (accSlot (quarterAt s q) m.acc))) q := by
  simp only [runCommand, hq, h, readSlot_clean hb]
theorem runCommand_mmaq (h : m.op = .mmaq) :
    runCommand q s = putQuarter s q { quarterAt s q with queue := { m with started := true } :: rest } := by
  simp only [runCommand, hq, h]
theorem runCommand_mrda (h : m.op = .mrda) (hb : (accSlot (quarterAt s q) m.acc).bad = []) : runCommand q s =
    popCmd (onWave s m.wave fun w =>
      { w with out := w.out.map fun r => if r.id = m.res then mrdaFill m (accSlot (quarterAt s q) m.acc) r else r }) q := by
  simp only [runCommand, hq, h, readSlot_clean hb]
theorem runCommand_mmax_waits (h : m.op = .mmax) (hm : meetReady s m q = false) : runCommand q s = s := by
  simp only [runCommand, hq, h, hm, Bool.false_eq_true, if_false]

/-- R262, R263: a pass takes the rows of the feed that the MMAQ still owes, up to 16. -/
theorem execMmaqPass_started (h : m.op = .mmaq) (hs : m.started = true) :
    execMmaqPass q s =
      let n := min (min m.owed 16) (quarterAt s q).feed.length
      .next (((quarterAt s q).feed.take n).foldl (consumeRow q m) (putQuarter s q { quarterAt s q with
        feed := (quarterAt s q).feed.drop n, queue := if m.owed = n then rest else { m with owed := m.owed - n } :: rest })) := by
  have hn : (m.owed - min (min m.owed 16) (quarterAt s q).feed.length = 0) =
      (m.owed = min (min m.owed 16) (quarterAt s q).feed.length) := by
    simp only [eq_iff_iff]; omega
  have hop : (m.op == .mmaq && m.started) = true := by rw [h, hs]; rfl
  simp only [execMmaqPass, hq, hop, if_true, hn]
  rfl
end

/-! A step over integer elements (R72, R78). -/
theorem foldl_add_eq_sum {α : Type} (f : α → Int) (l : List α) (z : Int) : l.foldl (fun a x => a + f x) z = z + (l.map f).sum := by
  induction l generalizing z with
  | nil => simp
  | cons x l ih => rw [List.foldl_cons, ih, List.map_cons, List.sum_cons, Int.add_assoc]

/-- R249: the value of an element of B. -/
def bVal (m : MatCmd) (x : Nat) : Int := if bSigned m.mode then signedOf (bWidth m.tag m.mode) x else x
/-- The exact sum of an entry and its products. -/
def stepSum (m : MatCmd) (acc : AccVal) (ps : List (Nat × Nat)) : Int :=
  signedOf 36 acc.v + (ps.map fun p => signedOf 8 p.1 * bVal m p.2).sum

theorem bVal_eq {m : MatCmd} (h : tagEt m.tag = 7) (x : Nat) : bVal m x =
    if modeET m.mode = 8 ∨ modeET m.mode = 10 then (x : Int) else signedOf (if modeET m.mode = 9 ∨ modeET m.mode = 10 then 4 else 8) x := by
  have hw : bWidth m.tag m.mode = if modeET m.mode = 9 ∨ modeET m.mode = 10 then 4 else 8 := by simp [bWidth, h]
  by_cases h8 : modeET m.mode = 8 ∨ modeET m.mode = 10
  · rw [if_pos h8]
    rcases h8 with e | e <;> simp [bVal, bSigned, e]
  · have hs : bSigned m.mode = true := by simpa [bSigned] using h8
    rw [if_neg h8, bVal, hs, hw, if_pos rfl]

/-- R78: the exact sum, clamped to 36 bits. -/
theorem accStep_int {m : MatCmd} (h : tagEt m.tag = 7) (acc : AccVal) (ps : List (Nat × Nat)) :
    accStep m acc ps = { acc with
      v := wrapTo 36 (clampTo (-(2 ^ 35 : Nat)) ((2 ^ 35 : Nat) - 1) (stepSum m acc ps)).1
      ov := acc.ov || (clampTo (-(2 ^ 35 : Nat)) ((2 ^ 35 : Nat) - 1) (stepSum m acc ps)).2 } := by
  have hsum : ps.foldl (fun (a : Int) p => a + signedOf 8 p.1 * bVal m p.2) (signedOf 36 acc.v) = stepSum m acc ps := foldl_add_eq_sum ..
  simp only [bVal] at hsum
  simp only [accStep, h, if_true, hsum, clampTo_changed, clampTo_fst]

/-- Settles O33: the head command leaves its slot and the queue as its rule says, and a step of integers is the clamped exact sum. -/
theorem matrixEvents : Obligations.MatrixEvents := by
  refine ⟨?commands, ?integers⟩
  case commands =>
    intro s q m rest x a gone hq
    have hrun {t : State} (h : runCommand q s = t) : exec (.matrixCommandExecute q) s = .next t := congrArg Host.Outcome.next h
    refine ⟨?mzero, ?mwra, ?mma, ?mmaq, ?mrda, ?mmax, ?pass⟩
    case mzero => exact fun h => hrun ((runCommand_mzero hq h).trans (popCmd_putAcc hq ..))
    case mwra => exact fun h => hrun ((runCommand_mwra hq h).trans (popCmd_putAcc hq ..))
    case mma => exact fun h hb => hrun ((runCommand_mma hq h hb).trans (popCmd_putAcc hq ..))
    case mmaq => exact fun h => hrun (runCommand_mmaq hq h)
    case mrda =>
      intro h hb
      refine ⟨_, hrun (runCommand_mrda hq h hb), ?_, ?_, fun w hw => ?_⟩
      · rw [quarterAt_popCmd, quarterAt_onWave, hq]
        rfl
      · rw [quarterAt_popCmd, quarterAt_onWave]
      · rw [waveAt_popCmd, waveAt_onWave hw]
    case mmax => exact fun h hm => hrun (runCommand_mmax_waits hq h hm)
    case pass => exact fun h hs => execMmaqPass_started hq h hs
  case integers =>
    intro m acc ps h _ bits bv sum r
    have hsum : stepSum m acc ps = sum := by simp only [stepSum, bVal_eq h]; rfl
    have hr : r = { acc with
        v := wrapTo 36 (clampTo (-(2 ^ 35 : Nat)) ((2 ^ 35 : Nat) - 1) sum).1
        ov := acc.ov || (clampTo (-(2 ^ 35 : Nat)) ((2 ^ 35 : Nat) - 1) sum).2 } := hsum ▸ accStep_int h acc ps
    have hcode {v : Int} (h1 : -(2 ^ 35 : Int) ≤ v) (h2 : v < 2 ^ 35) : signedOf 36 (wrapTo 36 v) = v := signedOf_wrapTo (by omega) h1 h2
    rw [hr]
    refine ⟨wrapTo_lt .., rfl, fun h1 h2 => ?inside, fun hlt => ?below, fun hge => ?above⟩
    case inside =>
      rw [clampTo_inside (by omega) (by omega)]
      exact ⟨hcode h1 h2, Bool.or_false _⟩
    case below =>
      rw [clampTo_below (by omega)]
      exact ⟨hcode (v := -2 ^ 35) (by decide) (by decide), Bool.or_true _⟩
    case above =>
      rw [clampTo_above (by omega) (by omega)]
      exact ⟨hcode (v := 2 ^ 35 - 1) (by decide) (by decide), Bool.or_true _⟩

end Sys2Proof.Machine
end

section
/-!
Reductions and running sums (R76, R159, R160): the exact integer results, the tree of a float reduction, and the packed scalar that a reduction
delivers.
-/
namespace Sys2Proof.Machine

/-! The lanes that contribute. -/
/-- The lanes of the write mask below the width. -/
def lanesIn (wm : Mask) (width : Nat) : List Nat := (List.range width).filter fun l => mbit wm l

theorem filter_range_of_lt {p : Nat → Bool} {k n : Nat} (hkn : k ≤ n) (h : ∀ i, p i = true → i < k) :
    (List.range n).filter p = (List.range k).filter p := by
  obtain ⟨j, rfl⟩ := Nat.exists_eq_add_of_le hkn
  have hnone : ((List.range j).map (k + ·)).filter p = [] := by
    simp only [List.filter_eq_nil_iff, List.mem_map]
    rintro _ ⟨i, -, rfl⟩ hp
    have := h _ hp
    omega
  rw [List.range_add, List.filter_append, hnone, List.append_nil]
theorem lanesBelow_eq_lanesIn (wm : Mask) (width : Nat) : lanesBelow wm width = lanesIn wm width := by
  have hbit (i : Nat) (h : (decide (i < width) && mbit wm i) = true) : i < 128 ∧ i < width := by
    rw [Bool.and_eq_true, decide_eq_true_eq] at h
    exact ⟨BitVec.lt_of_getLsbD h.2, h.1⟩
  calc lanesBelow wm width
      = (List.range 128).filter fun i => decide (i < width) && mbit wm i := by rw [lanesBelow, maskList, List.filter_filter]
    _ = (List.range (max 128 width)).filter fun i => decide (i < width) && mbit wm i :=
      (filter_range_of_lt (Nat.le_max_left ..) fun i h => (hbit i h).1).symm
    _ = (List.range width).filter fun i => decide (i < width) && mbit wm i :=
      filter_range_of_lt (Nat.le_max_right ..) fun i h => (hbit i h).2
    _ = lanesIn wm width := List.filter_congr fun i hi => by rw [decide_eq_true (List.mem_range.1 hi), Bool.true_and]
theorem mem_lanesIn {wm : Mask} {width l : Nat} : l ∈ lanesIn wm width ↔ l < width ∧ mbit wm l = true := by
  simp [lanesIn]
theorem pairwise_lanesIn (wm : Mask) (width : Nat) : (lanesIn wm width).Pairwise (· < ·) := List.pairwise_lt_range.filter _

/-! Packed results (R70). -/
section
variable {w n : Nat} {f : Nat → Nat × Flags}

theorem elemAt_packElems {e : Nat} (h : e < n) : elemAt w (packElems w n f).1 e = (f e).1 % 2 ^ w := elemAt_elemsJoin w _ n e h
theorem packElems_lt (h : w * n = 32) : (packElems w n f).1 < 2 ^ 32 := h ▸ elemsJoin_lt w _ n
theorem packElems_flags (b : Nat) : (packElems w n f).2.getLsbD b = true ↔ ∃ e, e < n ∧ (f e).2.getLsbD b = true := by
  simp [packElems, foldl_or_getLsbD]
/-- One flag, raised by the elements that meet `p`. -/
theorem packElems_flagIf {p : Nat → Bool} {g : Flags} (h : ∀ e, (f e).2 = flagIf (p e) g) :
    (packElems w n f).2 = flagIf ((List.range n).any p) g := by
  simp only [packElems, h]
  induction n with
  | zero => rfl
  | succ n ih =>
    rw [List.range_succ, List.foldl_append, List.any_append, ih]
    cases (List.range n).any p <;> cases hp : p n <;> simp [flagIf, hp]
end

/-! The exact integer results (R159). -/
/-- `op` picks the one of its operands that comes first in the order `R`. -/
structure Selects (op : Int → Int → Int) (R : Int → Int → Prop) : Prop where
  choice : ∀ a b, op a b = a ∨ op a b = b
  left : ∀ a b, R (op a b) a
  right : ∀ a b, R (op a b) b
  refl : ∀ a, R a a
  trans : ∀ {a b c}, R a b → R b c → R a c
  antisymm : ∀ {a b}, R a b → R b a → a = b

theorem selects_min : Selects min (· ≤ ·) where
  choice a b := by omega
  left := Int.min_le_left
  right := Int.min_le_right
  refl := Int.le_refl
  trans := Int.le_trans
  antisymm := Int.le_antisymm
theorem selects_max : Selects max (fun a b => b ≤ a) where
  choice a b := by omega
  left := Int.le_max_left
  right := Int.le_max_right
  refl := Int.le_refl
  trans h g := Int.le_trans g h
  antisymm h g := Int.le_antisymm g h

section
variable {op : Int → Int → Int} {R : Int → Int → Prop} (hs : Selects op R) (f : Nat → Int)
include hs

theorem foldl_selects (l : List Nat) (z : Int) :
    R (l.foldl (fun a i => op a (f i)) z) z ∧ (∀ i ∈ l, R (l.foldl (fun a i => op a (f i)) z) (f i)) ∧
    (l.foldl (fun a i => op a (f i)) z = z ∨ ∃ m ∈ l, l.foldl (fun a i => op a (f i)) z = f m) := by
  induction l generalizing z with
  | nil => exact ⟨hs.refl z, fun _ h => absurd h List.not_mem_nil, .inl rfl⟩
  | cons x l ih =>
    obtain ⟨hle, hall, hmem⟩ := ih (op z (f x))
    rw [List.foldl_cons]
    refine ⟨hs.trans hle (hs.left ..), List.forall_mem_cons.2 ⟨hs.trans hle (hs.right ..), hall⟩, ?_⟩
    rcases hmem with hmem | ⟨m, hm, he⟩
    · rcases hs.choice z (f x) with h | h
      · exact .inl (hmem.trans h)
      · exact .inr ⟨x, List.mem_cons_self, hmem.trans h⟩
    · exact .inr ⟨m, List.mem_cons_of_mem _ hm, he⟩
/-- A selection that starts from a bound of all elements picks one of them. -/
theorem foldl_selects_attained {z : Int} (hz : ∀ i, R (f i) z) {l : List Nat} {i : Nat} (hi : i ∈ l) :
    ∃ m ∈ l, l.foldl (fun a i => op a (f i)) z = f m ∧ R (f m) (f i) := by
  obtain ⟨-, hall, hmem⟩ := foldl_selects hs f l z
  rcases hmem with h | ⟨m, hm, h⟩
  · exact ⟨i, hi, hs.antisymm (hall i hi) (h.symm ▸ hz i), hs.refl _⟩
  · exact ⟨m, hm, h, h ▸ hall i hi⟩
end

section
variable {et e : Nat} {lanes : List Nat} {x : Nat → Nat}

theorem redInt_add : redInt .add et lanes x e = (lanes.map fun l => elemVal et (x l) e).sum :=
  (foldl_add_eq_sum ..).trans (Int.zero_add _)
theorem redInt_min {l : Nat} (hl : l ∈ lanes) :
    ∃ m ∈ lanes, redInt .min et lanes x e = elemVal et (x m) e ∧ elemVal et (x m) e ≤ elemVal et (x l) e :=
  foldl_selects_attained selects_min (fun i => elemVal et (x i) e) (fun _ => (elemVal_bounds ..).2) hl
theorem redInt_max {l : Nat} (hl : l ∈ lanes) :
    ∃ m ∈ lanes, redInt .max et lanes x e = elemVal et (x m) e ∧ elemVal et (x l) e ≤ elemVal et (x m) e :=
  foldl_selects_attained selects_max (fun i => elemVal et (x i) e) (fun _ => (elemVal_bounds ..).1) hl
end

/-! The tree (R76). -/
/-- A tree over the nodes of the first level. -/
theorem treeNode_pairs (op : Nat → Nat → Nat) (leaf : Nat → Nat) (l j : Nat) :
    treeNode op (fun i => op (leaf (2 * i)) (leaf (2 * i + 1))) l j = treeNode op leaf (l + 1) j := by
  induction l generalizing j with
  | zero => rfl
  | succ l ih => rw [treeNode, ih, ih]; rfl

section
variable (op : Nat → Nat → FRes)

/-- The results of a two-operand operation. -/
def nodeBits (u v : Nat) : Nat := (op u v).bits

theorem pairLevel_range (leaf : Nat → Nat) (n : Nat) :
    (pairLevel op ((List.range (2 * n)).map leaf)).1 = (List.range n).map (fun j => nodeBits op (leaf (2 * j)) (leaf (2 * j + 1))) ∧
    ∀ k, (pairLevel op ((List.range (2 * n)).map leaf)).2.getLsbD k = true ↔
      ∃ j, j < n ∧ (op (leaf (2 * j)) (leaf (2 * j + 1))).flags.getLsbD k = true := by
  induction n generalizing leaf with
  | zero => simp [pairLevel]
  | succ n ih =>
    have hsplit : (List.range (2 * (n + 1))).map leaf = leaf 0 :: leaf 1 :: (List.range (2 * n)).map (fun i => leaf (i + 2)) := by
      rw [Nat.mul_succ, List.range_succ_eq_map, List.range_succ_eq_map]
      simp [Function.comp_def]
    obtain ⟨hbits, hflags⟩ := ih fun i => leaf (i + 2)
    rw [hsplit]
    simp only [pairLevel, hbits, BitVec.getLsbD_or, Bool.or_eq_true, hflags]
    refine ⟨?_, fun k => ?_⟩
    · rw [List.range_succ_eq_map, List.map_cons, List.map_map]
      rfl
    · rw [Nat.exists_lt_succ_left]
      rfl

/-- The fold over 2^log leaves is the top node of the tree, with the flags of all nodes. -/
theorem treeFold_range (leaf : Nat → Nat) {log fuel : Nat} (h : log ≤ fuel) :
    (treeFold op fuel ((List.range (2 ^ log)).map leaf)).1 = treeNode (nodeBits op) leaf log 0 ∧
    ∀ k, (treeFold op fuel ((List.range (2 ^ log)).map leaf)).2.getLsbD k = true ↔ ∃ l j, l < log ∧ j < 2 ^ (log - 1 - l) ∧
      (op (treeNode (nodeBits op) leaf l (2 * j)) (treeNode (nodeBits op) leaf l (2 * j + 1))).flags.getLsbD k = true := by
  induction log generalizing leaf fuel with
  | zero => cases fuel <;> simp [treeFold, treeNode]
  | succ log ih =>
    obtain ⟨fuel, rfl⟩ : ∃ f, fuel = f + 1 := ⟨fuel - 1, by omega⟩
    have hlen : ¬ ((List.range (2 ^ (log + 1))).map leaf).length ≤ 1 := by
      have := Nat.two_pow_pos log
      rw [List.length_map, List.length_range, Nat.pow_succ]
      omega
    obtain ⟨hbits, hflags⟩ := pairLevel_range op leaf (2 ^ log)
    rw [← Nat.pow_succ'] at hbits hflags
    obtain ⟨htop, hrest⟩ := ih (fun j => nodeBits op (leaf (2 * j)) (leaf (2 * j + 1))) (Nat.le_of_succ_le_succ h)
    simp only [treeFold, hlen, if_false, hbits, htop, BitVec.getLsbD_or, Bool.or_eq_true, hflags, hrest, treeNode_pairs, true_and]
    intro k
    constructor
    · rintro (⟨j, hj, hk⟩ | ⟨l, j, hl, hj, hk⟩)
      · exact ⟨0, j, by omega, hj, hk⟩
      · exact ⟨l + 1, j, by omega, by rwa [show log + 1 - 1 - (l + 1) = log - 1 - l by omega], hk⟩
    · rintro ⟨_ | l, j, hl, hj, hk⟩
      · exact .inl ⟨j, hj, hk⟩
      · exact .inr ⟨l, j, by omega, by rwa [show log + 1 - 1 - (l + 1) = log - 1 - l by omega] at hj, hk⟩
end

/-! The scalar that a reduction delivers (R159). -/
/-- R71, R159: element `e` of a reduction under a packed integer type. -/
def redIntElem (op : RedOp) (mode : Lane) (lanes : List Nat) (x : Nat → Nat) (e : Nat) : Nat × Flags :=
  match op with
  | .add => intElem (modeET mode) (modeSAT mode) (redInt .add (modeET mode) lanes x e)
  | .min => (wrapTo (etWidth (modeET mode)) (redInt .min (modeET mode) lanes x e), 0)
  | .max => (wrapTo (etWidth (modeET mode)) (redInt .max (modeET mode) lanes x e), 0)
/-- Element `e` of a reduction. -/
def redElem (op : RedOp) (mode : Lane) (wm : Mask) (width : Nat) (x : Nat → Nat) (e : Nat) : Nat × Flags :=
  if etIsFloat (modeET mode) then redFloat op (modeET mode) (modeRM mode) wm width x e else redIntElem op mode (lanesIn wm width) x e

/-- A type whose reduction is made of elements: a float type or a packed one. -/
def RedPacked (mode : Lane) : Prop := etIsFloat (modeET mode) = true ∨ etCount (modeET mode) ≠ 1

/-- A leaf of the tree of R76. -/
def redLeaf (op : RedOp) (et : Nat) (wm : Mask) (x : Nat → Nat) (e i : Nat) : Nat :=
  if mbit wm i then elemAt (etWidth et) (x i) e else redIdentity op (etFmt et)

/-- R71: a sum is delivered without a clamp, or with SA. -/
def sumClamps (mode : Lane) (lanes : List Nat) (x : Nat → Nat) (e : Nat) : Bool :=
  modeSAT mode && decide ((lanes.map fun l => elemVal (modeET mode) (x l) e).sum < etLo (modeET mode) ∨
    etHi (modeET mode) < (lanes.map fun l => elemVal (modeET mode) (x l) e).sum)

theorem flagIf_eq_self {p : Bool} {g : Flags} (hg : g ≠ 0) : flagIf p g = g ↔ p = true := by
  cases p
  · simpa [flagIf] using hg.symm
  · simp [flagIf]
theorem flagIf_cases (p : Bool) (g : Flags) : flagIf p g = 0 ∨ flagIf p g = g := by
  cases p
  · exact .inl rfl
  · exact .inr rfl
theorem flags_eq_zero {g : Flags} (h : ∀ k, g.getLsbD k = true → False) : g = 0 :=
  BitVec.eq_of_getLsbD_eq fun k _ => by
    rw [flags_zero_getLsbD]
    exact Bool.eq_false_iff.2 (h k)

theorem word_type : ∀ et ∈ [0, 1], etIsFloat et = false ∧ etCount et = 1 := by decide
theorem packed_type : ∀ et ∈ [2, 3, 7, 8, 9, 10], etIsFloat et = false ∧ etCount et ≠ 1 := by decide
theorem float_type : ∀ et ∈ [4, 5, 6], etIsFloat et = true := by decide
/-- R64: the limits of a float type are patterns of its width. -/
theorem fmtInf_lt : ∀ et ∈ [4, 5, 6], fmtInf (etFmt et) < 2 ^ etWidth et ∧ fmtSign (etFmt et) + fmtInf (etFmt et) < 2 ^ etWidth et := by decide

section
variable {mode : Lane} {wm : Mask} {width : Nat} {x : Nat → Nat}

/-- Under a 32-bit integer type the exact result enters the scalar. -/
theorem reduce_word (h : modeET mode ∈ [0, 1]) (op : RedOp) :
    reduce op mode wm width x = (BitVec.ofInt 64 (redInt op (modeET mode) (lanesIn wm width) x 0), 0) := by
  obtain ⟨hf, hn⟩ := word_type _ h
  simp only [reduce, hf, hn, Bool.false_eq_true, if_false, if_true, lanesBelow_eq_lanesIn]

section
variable (h : RedPacked mode)
include h

theorem reduce_packed (op : RedOp) : reduce op mode wm width x =
    (BitVec.ofNat 64 (packElems (etWidth (modeET mode)) (etCount (modeET mode)) (redElem op mode wm width x)).1,
      (packElems (etWidth (modeET mode)) (etCount (modeET mode)) (redElem op mode wm width x)).2) := by
  cases hf : etIsFloat (modeET mode) with
  | true =>
    have he : redElem op mode wm width x = redFloat op (modeET mode) (modeRM mode) wm width x := funext fun e => if_pos hf
    simp only [reduce, hf, if_true, he]
  | false =>
    have hn : etCount (modeET mode) ≠ 1 := h.resolve_left (by simp [hf])
    have he : redElem op mode wm width x = redIntElem op mode (lanesIn wm width) x := funext fun e => if_neg (by simp [hf])
    simp only [reduce, hf, hn, Bool.false_eq_true, if_false, lanesBelow_eq_lanesIn, he]
    cases op <;> rfl
theorem reduce_packed_flags (op : RedOp) (k : Nat) : (reduce op mode wm width x).2.getLsbD k = true ↔
    ∃ e, e < etCount (modeET mode) ∧ (redElem op mode wm width x e).2.getLsbD k = true := by
  rw [reduce_packed h, packElems_flags]
theorem reduce_packed_quiet {op : RedOp} (hz : ∀ e, (redElem op mode wm width x e).2 = 0) : (reduce op mode wm width x).2 = 0 :=
  flags_eq_zero fun k hk => by
    obtain ⟨e, -, he⟩ := (reduce_packed_flags h op k).1 hk
    simp [hz] at he
theorem reduce_packed_toNat (op : RedOp) : (reduce op mode wm width x).1.toNat =
    (packElems (etWidth (modeET mode)) (etCount (modeET mode)) (redElem op mode wm width x)).1 := by
  have hlt := packElems_lt (f := redElem op mode wm width x) (etWidth_mul_count (modeET mode))
  rw [reduce_packed h, BitVec.toNat_ofNat, Nat.mod_eq_of_lt (by omega)]
theorem reduce_packed_lt (op : RedOp) : (reduce op mode wm width x).1.toNat < 2 ^ 32 := by
  rw [reduce_packed_toNat h]
  exact packElems_lt (etWidth_mul_count _)
theorem elemAt_reduce (op : RedOp) {e : Nat} (he : e < etCount (modeET mode)) :
    elemAt (etWidth (modeET mode)) (reduce op mode wm width x).1.toNat e = (redElem op mode wm width x e).1 % 2 ^ etWidth (modeET mode) := by
  rw [reduce_packed_toNat h, elemAt_packElems he]
end

/-! Integer types. -/
section
variable (hf : etIsFloat (modeET mode) = false)
include hf

theorem redElem_add (e : Nat) : redElem .add mode wm width x e =
    intElem (modeET mode) (modeSAT mode) ((lanesIn wm width).map fun l => elemVal (modeET mode) (x l) e).sum := by
  simp only [redElem, redIntElem, hf, Bool.false_eq_true, if_false, redInt_add]
theorem redElem_min (e : Nat) : redElem .min mode wm width x e =
    (wrapTo (etWidth (modeET mode)) (redInt .min (modeET mode) (lanesIn wm width) x e), 0) := by
  simp only [redElem, redIntElem, hf, Bool.false_eq_true, if_false]
theorem redElem_max (e : Nat) : redElem .max mode wm width x e =
    (wrapTo (etWidth (modeET mode)) (redInt .max (modeET mode) (lanesIn wm width) x e), 0) := by
  simp only [redElem, redIntElem, hf, Bool.false_eq_true, if_false]
end

section
variable (h : modeET mode ∈ [2, 3, 7, 8, 9, 10])
include h

theorem redPacked_int : RedPacked mode := .inr (packed_type _ h).2

/-- R71: REDADD raises SA where it clamps a sum. -/
theorem reduce_add_flags : (reduce .add mode wm width x).2 =
    flagIf ((List.range (etCount (modeET mode))).any (sumClamps mode (lanesIn wm width) x)) flSA := by
  refine (congrArg Prod.snd (reduce_packed (redPacked_int h) .add)).trans (packElems_flagIf (w := etWidth (modeET mode)) fun e => ?_)
  rw [redElem_add (packed_type _ h).1, intElem_flags, sumClamps]
theorem reduce_min_flags : (reduce .min mode wm width x).2 = 0 :=
  reduce_packed_quiet (redPacked_int h) fun e => by rw [redElem_min (packed_type _ h).1]
theorem reduce_max_flags : (reduce .max mode wm width x).2 = 0 :=
  reduce_packed_quiet (redPacked_int h) fun e => by rw [redElem_max (packed_type _ h).1]

variable {e : Nat} (he : e < etCount (modeET mode))
include he

theorem elemAt_reduce_add : elemAt (etWidth (modeET mode)) (reduce .add mode wm width x).1.toNat e =
    (intElem (modeET mode) (modeSAT mode) ((lanesIn wm width).map fun l => elemVal (modeET mode) (x l) e).sum).1 := by
  rw [elemAt_reduce (redPacked_int h) _ he, redElem_add (packed_type _ h).1, Nat.mod_eq_of_lt (intElem_lt ..)]
theorem elemAt_reduce_min : elemAt (etWidth (modeET mode)) (reduce .min mode wm width x).1.toNat e =
    wrapTo (etWidth (modeET mode)) (redInt .min (modeET mode) (lanesIn wm width) x e) := by
  rw [elemAt_reduce (redPacked_int h) _ he, redElem_min (packed_type _ h).1, wrapTo_mod]
theorem elemAt_reduce_max : elemAt (etWidth (modeET mode)) (reduce .max mode wm width x).1.toNat e =
    wrapTo (etWidth (modeET mode)) (redInt .max (modeET mode) (lanesIn wm width) x e) := by
  rw [elemAt_reduce (redPacked_int h) _ he, redElem_max (packed_type _ h).1, wrapTo_mod]
end

/-! Float types (R76). -/
/-- R159: with no lane, the identity. -/
def redEmpty (op : RedOp) (f : Fmt) : Nat :=
  match op with
  | .add => 0
  | .min => fmtInf f
  | .max => fmtSign f + fmtInf f

theorem redFloat_empty (hl : lanesIn wm width = []) (op : RedOp) (et rm e : Nat) : redFloat op et rm wm width x e = (redEmpty op (etFmt et), 0) := by
  simp only [redFloat, lanesBelow_eq_lanesIn, hl, List.isEmpty_nil, if_true]
  cases op <;> rfl
theorem redFloat_tree (hl : lanesIn wm width ≠ []) (op : RedOp) (et rm e : Nat) : redFloat op et rm wm width x e =
    treeFold (redFloatOp op (etFmt et) rm) 8 ((List.range width).map (redLeaf op et wm x e)) := by
  have hne : (lanesIn wm width).isEmpty = false := by simpa using hl
  simp only [redFloat, lanesBelow_eq_lanesIn, hne, Bool.false_eq_true, if_false]
  rfl

section
variable (h : modeET mode ∈ [4, 5, 6])
include h

theorem redPacked_float : RedPacked mode := .inl (float_type _ h)
theorem redElem_float (op : RedOp) (e : Nat) : redElem op mode wm width x e = redFloat op (modeET mode) (modeRM mode) wm width x e :=
  if_pos (float_type _ h)

theorem elemAt_reduce_empty (hl : lanesIn wm width = []) (op : RedOp) {e : Nat} (he : e < etCount (modeET mode)) :
    elemAt (etWidth (modeET mode)) (reduce op mode wm width x).1.toNat e = redEmpty op (etFmt (modeET mode)) := by
  obtain ⟨hmin, hmax⟩ := fmtInf_lt _ h
  rw [elemAt_reduce (redPacked_float h) _ he, redElem_float h, redFloat_empty hl]
  refine Nat.mod_eq_of_lt ?_
  cases op
  case add => exact Nat.two_pow_pos _
  case min => exact hmin
  case max => exact hmax

variable {log : Nat} (hw : width = 2 ^ log) (hlog : log ≤ 8) (hl : lanesIn wm width ≠ [])
include hw hlog hl

theorem elemAt_reduce_tree (op : RedOp) {e : Nat} (he : e < etCount (modeET mode)) :
    elemAt (etWidth (modeET mode)) (reduce op mode wm width x).1.toNat e =
      treeNode (nodeBits (redFloatOp op (etFmt (modeET mode)) (modeRM mode))) (redLeaf op (modeET mode) wm x e) log 0 %
        2 ^ etWidth (modeET mode) := by
  rw [elemAt_reduce (redPacked_float h) _ he, redElem_float h, redFloat_tree hl, hw, (treeFold_range _ _ hlog).1]
theorem reduce_tree_flags (op : RedOp) (k : Nat) : (reduce op mode wm width x).2.getLsbD k = true ↔
    ∃ e l j, e < etCount (modeET mode) ∧ l < log ∧ j < 2 ^ (log - 1 - l) ∧
      (redFloatOp op (etFmt (modeET mode)) (modeRM mode)
        (treeNode (nodeBits (redFloatOp op (etFmt (modeET mode)) (modeRM mode))) (redLeaf op (modeET mode) wm x e) l (2 * j))
        (treeNode (nodeBits (redFloatOp op (etFmt (modeET mode)) (modeRM mode))) (redLeaf op (modeET mode) wm x e) l (2 * j + 1))
        ).flags.getLsbD k = true := by
  subst hw
  have helem (e : Nat) := (treeFold_range (redFloatOp op (etFmt (modeET mode)) (modeRM mode)) (redLeaf op (modeET mode) wm x e) hlog).2
  simp only [reduce_packed_flags (redPacked_float h), redElem_float h, redFloat_tree hl, helem, exists_and_left]
/-- R142: a tree of minima or maxima raises nothing. -/
theorem reduce_tree_quiet {op : RedOp} (hop : op ≠ .add) : (reduce op mode wm width x).2 = 0 := by
  have hquiet (u v : Nat) : (redFloatOp op (etFmt (modeET mode)) (modeRM mode) u v).flags = 0 := by
    cases op
    case add => exact absurd rfl hop
    case min | max => rfl
  exact flags_eq_zero fun k hk => by
    obtain ⟨e, l, j, -, -, -, hk⟩ := (reduce_tree_flags h hw hlog hl op k).1 hk
    simp [hquiet] at hk
end
end

/-! Running sums (R160). -/
theorem scanAt_cons (i : Nat) (r : Nat × Flags) (t : List (Nat × Nat × Flags)) (l : Nat) :
    scanAt ((i, r) :: t) l = if i = l then r else scanAt t l := by
  by_cases h : i = l <;> simp [scanAt, h]

/-- The running sum at a lane is the exact sum up to it, delivered under R71. -/
theorem scanAt_scanInt {et e l : Nat} {sat : Bool} {x : Nat → Nat} {lanes : List Nat} (hs : lanes.Pairwise (· < ·)) (hl : l ∈ lanes) (acc : Int) :
    scanAt (scanInt et sat x e acc lanes) l =
      intElem et sat (acc + ((lanes.filter fun m => m ≤ l).map fun m => elemVal et (x m) e).sum) := by
  induction lanes generalizing acc with
  | nil => simp at hl
  | cons i t ih =>
    obtain ⟨hi, ht⟩ := List.pairwise_cons.1 hs
    rw [scanInt, scanAt_cons]
    by_cases he : i = l
    · have hnone : t.filter (fun m => m ≤ l) = [] := List.filter_eq_nil_iff.2 fun m hm => by have := hi m hm; simp; omega
      rw [if_pos he, List.filter_cons_of_pos (by simp [he]), hnone]
      simp
    · have hmem : l ∈ t := (List.mem_cons.1 hl).resolve_left (Ne.symm he)
      have hlt := hi l hmem
      rw [if_neg he, ih ht hmem, List.filter_cons_of_pos (by simp; omega), List.map_cons, List.sum_cons, Int.add_assoc]

/-- Packed elements of an instruction that completes by writing them with their flags. -/
theorem writesElements_of_completes {i : Instr} {u : Usage} {d : VReg} {n : Lane → Nat} {g f : Ctx → Nat → Nat → Nat × Flags}
    (hn : ∀ m, n m * (32 / n m) = 32)
    (h : CompletesWith i u fun c w => writeFlagged c d (fun l => packElems (n c.split.mode) (32 / n c.split.mode) (g c l)) w)
    (hg : ∀ c l e, mbit c.wm l = true → l < c.view.width → e < 32 / n c.split.mode → g c l e = f c l e) :
    WritesElements i u d (fun c => c.wm) n f := by
  intro s wv sp hr
  dsimp only
  generalize hc : seen s wv sp = c
  have hwidth : (openIssue (waveAt s wv) sp u.closes).width = c.view.width := by rw [openIssue_width, ← hc]; rfl
  refine ⟨fun l => BitVec.ofNat 32 (packElems (n c.split.mode) (32 / n c.split.mode) (g c l)).1,
    ((maskList c.wm).filter (· < c.view.width)).foldl (fun a l => a ||| (packElems (n c.split.mode) (32 / n c.split.mode) (g c l)).2) 0,
    ?_, fun l e hm hl he => ?_, fun b => ?_⟩
  · rw [h s wv sp hr, hc]
    simp only [ends, writeFlagged, hwidth]
    rfl
  · have hlt := packElems_lt (f := g c l) (hn c.split.mode)
    rw [BitVec.toNat_ofNat, Nat.mod_eq_of_lt hlt, elemAt_packElems he, hg c l e hm hl he]
  · simp only [foldl_or_getLsbD, flags_zero_getLsbD, Bool.false_eq_true, false_or, List.mem_filter, mem_maskList, decide_eq_true_eq,
      packElems_flags]
    constructor
    · rintro ⟨l, ⟨hm, hl⟩, e, he, hb⟩
      exact ⟨l, e, hm, hl, he, hg c l e hm hl he ▸ hb⟩
    · rintro ⟨l, e, hm, hl, he, hb⟩
      exact ⟨l, ⟨hm, hl⟩, e, he, (hg c l e hm hl he).symm ▸ hb⟩

/-- R160: the running sums of element `e`. -/
def scanSums (c : Ctx) (a : VReg) (width e : Nat) : List (Nat × Nat × Flags) :=
  if etIsFloat (modeET c.split.mode) then
    scanFloat (modeET c.split.mode) (modeRM c.split.mode) (fun i => (vec c a i).toNat) e none (lanesIn c.wm width)
  else scanInt (modeET c.split.mode) (modeSAT c.split.mode) (fun i => (vec c a i).toNat) e 0 (lanesIn c.wm width)

/-- SCANADD writes them element by element. -/
theorem completesWith_scanadd (y : Bool) (d a : VReg) : CompletesWith (.scanadd y d a) (useVV d a) fun c w =>
    writeFlagged c d (fun l => packElems (etWidth (modeET c.split.mode)) (etCount (modeET c.split.mode)) fun e =>
      scanAt (((List.range (etCount (modeET c.split.mode))).map (scanSums c a c.view.width)).getD e []) l) w := by
  have h : CompletesWith (.scanadd y d a) (useVV d a) fun c w =>
      writeFlagged c d (fun l => packElems (etWidth (modeET c.split.mode)) (etCount (modeET c.split.mode)) fun e =>
        scanAt (((List.range (etCount (modeET c.split.mode))).map (scanSums c a w.width)).getD e []) l) w := by
    refine completesWith_of (y := y) (fun s => ?_) rfl (fun c w => writeRow_ctl ..) fun c w => writeRow_out ..
    change execScanadd y d a s = _
    simp only [execScanadd, lanesBelow_eq_lanesIn]
    rfl
  refine completesWith_congr h fun s wv sp _ => ?_
  have hwidth : (openIssue (waveAt s wv) sp (useVV d a).closes).width = (seen s wv sp).view.width := openIssue_width ..
  simp only [hwidth]

/-- The scalar of a reduction and its flags. -/
theorem completesWith_reduce {i : Instr} {y : Bool} {op : RedOp} {q : SReg} {a : VReg} (h : ∀ s, exec i s = issue s y (useSV q a) (redBody op q a)) :
    CompletesWith i (useSV q a) fun c w =>
      raise (sset w q.val (reduce op c.split.mode c.wm c.view.width fun l => (vec c a l).toNat).1)
        (reduce op c.split.mode c.wm c.view.width fun l => (vec c a l).toNat).2 := by
  refine completesWith_congr (completesWith_of h rfl (fun _ w => sset_ctl w q.val _) fun _ w => sset_out w q.val _) fun s wv sp _ => ?_
  have hwidth : (openIssue (waveAt s wv) sp (useSV q a).closes).width = (seen s wv sp).view.width := openIssue_width ..
  simp only [hwidth]

/-- Settles O9: the exact results of the integer types, the tree of the float types, and the running sums. -/
theorem reductionInstructions : Obligations.ReductionInstructions := by
  intro y q d a lanes x run at_
  refine ⟨completesWith_reduce fun _ => rfl, completesWith_reduce fun _ => rfl, completesWith_reduce fun _ => rfl,
    ?words, ?noLanes, ?packed, ?floats, ?scan⟩
  case words =>
    intro c et het
    have hrun (op : RedOp) : (run op c).1 = BitVec.ofInt 64 (redInt op et (lanes c) (x c) 0) := congrArg Prod.fst (reduce_word het op)
    refine ⟨(hrun .add).trans (congrArg _ redInt_add), fun l hl => ?_, fun l hl => ?_⟩
    · obtain ⟨m, hm, he, hle⟩ := redInt_min (et := et) (e := 0) (x := x c) hl
      exact ⟨m, hm, (hrun .min).trans (congrArg _ he), hle⟩
    · obtain ⟨m, hm, he, hle⟩ := redInt_max (et := et) (e := 0) (x := x c) hl
      exact ⟨m, hm, (hrun .max).trans (congrArg _ he), hle⟩
  case noLanes =>
    intro c et hl
    have hl' : lanesIn c.wm c.view.width = [] := hl
    refine ⟨fun het => ?_, fun e he => ⟨fun het => ?_, fun het => ?_⟩⟩
    · have hrun (op : RedOp) : (run op c).1 = BitVec.ofInt 64 (redInt op et [] (x c) 0) := by
        rw [← hl]; exact congrArg Prod.fst (reduce_word het op)
      exact ⟨hrun .add, hrun .min, hrun .max⟩
    · have hzero : (intElem et (modeSAT c.split.mode) 0).1 = 0 := by
        cases modeSAT c.split.mode
        · exact wrapTo_zero _
        · rw [intElem_clamps, clampTo_inside (etLo_nonpos et) (etHi_nonneg et)]
          exact wrapTo_zero _
      have hadd := elemAt_reduce_add (wm := c.wm) (width := c.view.width) (x := x c) het he
      have hmin := elemAt_reduce_min (wm := c.wm) (width := c.view.width) (x := x c) het he
      have hmax := elemAt_reduce_max (wm := c.wm) (width := c.view.width) (x := x c) het he
      rw [hl'] at hadd hmin hmax
      exact ⟨hadd.trans hzero, hmin, hmax⟩
    · have hrun (op : RedOp) : at_ op c e = redEmpty op (etFmt et) := elemAt_reduce_empty het hl' op he
      exact ⟨hrun .add, hrun .min, hrun .max⟩
  case packed =>
    intro c et het sum
    have hflags : (run .add c).2 = flagIf ((List.range (etCount et)).any (sumClamps c.split.mode (lanes c) (x c))) flSA := reduce_add_flags het
    refine ⟨?_, hflags ▸ flagIf_cases .., reduce_min_flags het, reduce_max_flags het, reduce_packed_lt (redPacked_int het), fun e he =>
      ⟨elemAt_reduce_add het he, fun l hl => ⟨?_, ?_⟩⟩⟩
    · rw [hflags, flagIf_eq_self (by decide)]
      simp only [List.any_eq_true, List.mem_range, sumClamps, Bool.and_eq_true, decide_eq_true_eq]
      exact ⟨fun ⟨e, he, hsat, hout⟩ => ⟨hsat, e, he, hout⟩, fun ⟨hsat, e, he, hout⟩ => ⟨e, he, hsat, hout⟩⟩
    · obtain ⟨m, hm, hv, hle⟩ := redInt_min (et := et) (e := e) (x := x c) hl
      exact ⟨m, hm, (elemAt_reduce_min het he).trans (congrArg _ hv), hle⟩
    · obtain ⟨m, hm, hv, hle⟩ := redInt_max (et := et) (e := e) (x := x c) hl
      exact ⟨m, hm, (elemAt_reduce_max het he).trans (congrArg _ hv), hle⟩
  case floats =>
    intro c log et f rm het hlog hw hl node plus
    have hlog8 : log ≤ 8 := by
      simp only [List.mem_cons, List.not_mem_nil, or_false] at hlog
      omega
    exact ⟨reduce_tree_quiet het hw hlog8 hl (by decide), reduce_tree_quiet het hw hlog8 hl (by decide), reduce_packed_lt (redPacked_float het),
      fun e he => ⟨elemAt_reduce_tree het hw hlog8 hl .add he, elemAt_reduce_tree het hw hlog8 hl .min he,
        elemAt_reduce_tree het hw hlog8 hl .max he⟩, reduce_tree_flags het hw hlog8 hl .add⟩
  case scan =>
    refine writesElements_of_completes (fun _ => etWidth_mul_count _) (completesWith_scanadd y d a) fun c l e hm hl he => ?_
    have hsum : ((List.range (etCount (modeET c.split.mode))).map (scanSums c a c.view.width)).getD e [] = scanSums c a c.view.width e := by
      have he' : e < etCount (modeET c.split.mode) := he
      simp [List.getD, he']
    rw [hsum, scanSums]
    by_cases hf : etIsFloat (modeET c.split.mode) = true
    · rw [if_pos hf]
      exact (if_pos hf).symm
    · rw [if_neg hf, scanAt_scanInt (pairwise_lanesIn ..) (mem_lanesIn.2 ⟨hl, hm⟩), Int.zero_add]
      exact (if_neg hf).symm

end Sys2Proof.Machine
end

section
/-!
Registers read back (R82, R84, R85, R164): each write is one write to a sparse array in canonical form, at the key of its element.
-/
namespace Sys2Proof.Machine

/-! Vector rows. -/
/-- A lane below 128 of a row has a key of its own. -/
theorem laneKey_inj {row row' lane lane' : Nat} (h : lane < 128) (h' : lane' < 128) :
    laneKey row lane = laneKey row' lane' ↔ row = row' ∧ lane = lane' := by
  simp only [laneKey]
  omega

/-- A canonical array after one write: the element written, and every other element as it was. -/
theorem spGet_spSet {α : Type} [DecidableEq α] {z v : α} {m : Sparse α} (h : spWf z m = true) (k j : Nat) :
    spGet z (spSet z m k v) j = if j = k then v else spGet z m j := by
  split
  · next e => rw [e, spGet_spSet_self h]
  · next e => exact spGet_spSet_ne e h

theorem rowGet_rowSet {w : Wave} (h : spWf 0 w.regs.vec = true) {lane lane' : Nat} (hl : lane < 128) (hl' : lane' < 128) (row row' : Nat) (v : Lane) :
    rowGet (rowSet w row lane v) row' lane' = if row' = row ∧ lane' = lane then v else rowGet w row' lane' :=
  (spGet_spSet h ..).trans (ite_congr (propext (laneKey_inj hl' hl)) (fun _ => rfl) fun _ => rfl)

theorem setLanes_vec_wf {w : Wave} (h : spWf 0 w.regs.vec = true) (row : Nat) (m : Mask) (f : Nat → Lane) (n : Nat) :
    spWf 0 (setLanes row m f n w).regs.vec = true := by
  induction n with
  | zero => exact h
  | succ n ih =>
    rw [setLanes]
    split
    · exact spWf_spSet ih
    · exact ih

/-- R90: of the lanes below `n`, those of the mask are written. -/
theorem rowGet_setLanes {w : Wave} (h : spWf 0 w.regs.vec = true) {n lane : Nat} (hn : n ≤ 128) (hl : lane < 128) (row row' : Nat) (m : Mask)
    (f : Nat → Lane) :
    rowGet (setLanes row m f n w) row' lane = if row' = row ∧ mbit m lane = true ∧ lane < n then f lane else rowGet w row' lane := by
  induction n with
  | zero => exact (if_neg fun ⟨_, _, hlt⟩ => Nat.not_lt_zero _ hlt).symm
  | succ n ih =>
    have ih := ih (by omega)
    by_cases hm : mbit m n = true
    · rw [setLanes, if_pos hm, rowGet_rowSet (setLanes_vec_wf h ..) (by omega) hl, ih]
      by_cases hlane : lane = n
      · subst hlane
        simp [hm]
      · have hlt : lane < n + 1 ↔ lane < n := by omega
        simp [hlane, hlt]
    · rw [setLanes, if_neg hm, ih]
      have hlt : (mbit m lane = true ∧ lane < n + 1) ↔ (mbit m lane = true ∧ lane < n) := by
        refine and_congr_right fun hlane => ⟨fun hle => ?_, fun hlt => by omega⟩
        have hne : lane ≠ n := fun e => hm (e ▸ hlane)
        omega
      exact ite_congr (congrArg (row' = row ∧ ·) (propext hlt.symm)) (fun _ => rfl) fun _ => rfl

/-! Scalars, masks and threshold levels. -/
theorem sget_sset {w : Wave} (h : spWf 0 w.regs.sca = true) (r r' : Nat) (x : Scalar) :
    sget (sset w r x) r' = if r' = r ∧ r ≠ 0 then x else sget w r' := by
  by_cases hr : r = 0
  · rw [hr, sset_zero, if_neg fun ⟨_, h0⟩ => h0 rfl]
  have hset : sget (sset w r x) r' = if r' = 0 then 0 else spGet 0 (spSet 0 w.regs.sca r x) r' := by simp only [sget, sset, hr, if_false]
  by_cases hr' : r' = 0
  · have hne : ¬ (r' = r ∧ r ≠ 0) := by omega
    rw [hset, if_pos hr', if_neg hne, hr', sget_zero]
  · rw [hset, if_neg hr', spGet_spSet h, sget, if_neg hr']
    simp only [hr, ne_eq, not_false_eq_true, and_true]

theorem mget_mset {w : Wave} (h : spWf 0 w.regs.msk = true) (r r' : Nat) (p : Mask) :
    mget (mset w r p) r' = if r' = r then p else mget w r' := spGet_spSet h ..

/-- R164: a level 1 to 5 of a threshold register has a place of its own. -/
theorem thGet_thSet {w : Wave} (h : spWf 0 w.regs.th = true) {k k' : Nat} (hk : 1 ≤ k ∧ k ≤ 5) (hk' : 1 ≤ k' ∧ k' ≤ 5) (n n' v : Nat) :
    thGet (thSet w n k v) n' k' = if n' = n ∧ k' = k then v else thGet w n' k' := by
  have hplace : 5 * n' + k' - 1 = 5 * n + k - 1 ↔ n' = n ∧ k' = k := by omega
  exact (spGet_spSet h ..).trans (ite_congr (propext hplace) (fun _ => rfl) fun _ => rfl)

/-- Settles O53: each read after a write is a read of the canonical array at that key. -/
theorem registersReadBack : Obligations.RegistersReadBack := by
  intro w row row' lane r r' n k n' k' m f x p v
  exact ⟨fun h hw hl => rowGet_setLanes h hw hl .., fun h => sget_sset h .., sget_zero w, sset_zero w x, fun h => mget_mset h ..,
    fun h h1 h5 h1' h5' => thGet_thSet h ⟨h1, h5⟩ ⟨h1', h5'⟩ ..⟩

end Sys2Proof.Machine
end

section
/-!
The mode, threshold and timer instructions (R88, R161, R164, R388). An effect on the wave of the issuing split may write its MODE as well as its
registers: what the end of an instruction looks at stays.
-/
namespace Sys2Proof.Machine

/-- What the end of an instruction looks at in its wave: the split entries, that split `sp` may go on, the wait, and the outstanding results. -/
structure GoesOnLike (sp : Nat) (w z : Wave) : Prop where
  length : z.ctl.splits.length = w.ctl.splits.length
  valid : (getSplit z sp).valid = (getSplit w sp).valid
  held : (getSplit z sp).held = (getSplit w sp).held
  wait : z.ctl.wait = w.ctl.wait
  out : z.out = w.out

/-- A new MODE of the split leaves all of it. -/
theorem goesOnLike_setMode {w : Wave} {sp : Nat} (h : sp < w.ctl.splits.length) (m : Lane) :
    GoesOnLike sp w (putSplit w sp { getSplit w sp with mode := m }) where
  length := putSplit_length ..
  valid := by rw [getSplit_putSplit_self w sp _ h]
  held := by rw [getSplit_putSplit_self w sp _ h]
  wait := rfl
  out := rfl

section
variable {s : State} {wv sp : Nat} {y : Bool} {u : Usage} {body : Ctx → State → State × Eff} (h : ready s wv sp u = true)
  (hc : u.collective = false)
include h hc

/-- R53: an effect that writes the wave of a ready instruction, and ends it. -/
theorem issue_wave {f : Wave → Wave} (hb : body (seen s wv sp) (entered s wv sp u.closes) = (onWave (entered s wv sp u.closes) wv f, .done))
    (hf : GoesOnLike sp (openIssue (waveAt s wv) sp u.closes) (f (openIssue (waveAt s wv) sp u.closes))) :
    issue s y u body = .next (ends s wv sp u f) := by
  have he := entered_steady h
  rw [begun_plain hc, steady_iff, entered_wave] at he
  obtain ⟨hres, hlen, hval, hheld, hwait⟩ := he
  obtain ⟨-, -, -, -, -, -, -, -, hout, -⟩ := ready_iff.1 h
  have hwave : onWave (entered s wv sp u.closes) wv f =
      putWave { s with free := s.free + 2 } wv (f (openIssue (waveAt s wv) sp u.closes)) := by
    rw [onWave_eq hres, entered_wave]
    simp only [entered, putWave, tbPut_tbPut]
  rw [hwave] at hb
  refine issue_done (t := putWave { s with free := s.free + 2 } wv (f (openIssue (waveAt s wv) sp u.closes))) h ?_ ?_ (by simp [hc]) (.inr ?_)
  · rw [begun_plain hc, hb]
  · rw [steady_iff, waveAt_putWave, hf.length, hf.valid, hf.held, hf.wait]
    exact ⟨by simp [tbGet?_tbPut_self], hlen, hval, hheld, hwait⟩
  · rw [waveAt_putWave, hf.out, openIssue_out, hout]

/-- R53, R395: an effect that is a trap, and nothing else. -/
theorem issue_traps {code timm taddr : Nat}
    (hb : body (seen s wv sp) (entered s wv sp u.closes) = (entered s wv sp u.closes, .trap code timm taddr)) :
    issue s y u body = .next (traps s wv sp u code timm taddr) := by
  obtain ⟨hbad, -, -, h4, hlen, -, -, -, hout, -⟩ := ready_iff.1 h
  have hpc : (getSplit (waveAt (entered s wv sp u.closes) wv) sp).pc = (getSplit (waveAt s wv) sp).pc := by
    rw [entered_wave, openIssue_split (by omega)]
    cases u.closes <;> rfl
  rw [issue_ready h, begun_plain hc, runBody_quiet hbad hout hb]
  simp only [finish, hpc, traps]

end

/-! MODE (R88, R161). -/
/-- An instruction that writes `m` to its split's MODE does so where it is legal, and traps where it is reserved. -/
theorem exec_writesMode {i : Instr} {y : Bool} {u : Usage} {new : Ctx → Lane} (hi : ∀ s, exec i s = issue s y u fun c s => setMode c (new c) s)
    (hc : u.collective = false) {s : State} {wv sp : Nat} (h : ready s wv sp u = true) {m : Lane} (hm : new (seen s wv sp) = m) :
    (modeLegal m = true → exec i s = .next (ends s wv sp u fun w => putSplit w sp { getSplit w sp with mode := m })) ∧
    (modeLegal m = false → exec i s = .next (traps s wv sp u 0x01 0 0)) := by
  subst hm
  rw [hi]
  refine ⟨fun hl => ?_, fun hl => ?_⟩
  · have hsp : sp < (openIssue (waveAt s wv) sp u.closes).ctl.splits.length := by
      obtain ⟨-, -, -, h4, hlen, -⟩ := ready_iff.1 h
      rw [openIssue_length]
      omega
    exact issue_wave h hc (by rw [setMode, if_pos hl]; rfl) (goesOnLike_setMode hsp _)
  · exact issue_traps h hc (by rw [setMode, hl]; rfl)

theorem mode_halves (m : Lane) : m.extractLsb' 16 16 ++ m.extractLsb' 0 16 = m :=
  (BitVec.extractLsb'_append_extractLsb'_eq_extractLsb' (len₁ := 16) (len₂ := 16) rfl).trans BitVec.extractLsb'_eq_self
theorem half_zeroExtend (i : BitVec 16) : i.zeroExtend 32 = 0#16 ++ i := BitVec.setWidth_eq_append (by decide)
theorem half_shiftLeft (i : BitVec 16) : i.zeroExtend 32 <<< (16 : Nat) = i ++ 0#16 := by
  have hlow : (0#16 ++ i).extractLsb' 0 16 = i := BitVec.extractLsb'_append_eq_right
  rw [half_zeroExtend, BitVec.shiftLeft_eq_concat_of_lt (by decide : 16 < 32)]
  exact congrArg (· ++ 0#16) hlow

/-- MSET keeps the upper half of MODE. -/
theorem mode_low_half (m : Lane) (i : BitVec 16) : (m &&& 0xFFFF0000) ||| i.zeroExtend 32 = m.extractLsb' 16 16 ++ i := by
  have hmask : (0xFFFF0000 : Lane) = BitVec.allOnes 16 ++ 0#16 := rfl
  conv => lhs; rw [← mode_halves m, hmask, half_zeroExtend, BitVec.and_append, BitVec.or_append]
  simp only [BitVec.and_allOnes, BitVec.or_zero, BitVec.and_zero, BitVec.zero_or]
/-- MSETH keeps the lower half of MODE. -/
theorem mode_high_half (m : Lane) (i : BitVec 16) : (i.zeroExtend 32 <<< (16 : Nat)) ||| (m &&& 0xFFFF) = i ++ m.extractLsb' 0 16 := by
  have hmask : (0xFFFF : Lane) = 0#16 ++ BitVec.allOnes 16 := rfl
  conv => lhs; rw [← mode_halves m, hmask, half_shiftLeft, BitVec.and_append, BitVec.or_append]
  simp only [BitVec.and_allOnes, BitVec.or_zero, BitVec.and_zero, BitVec.zero_or]

theorem writesScalar_mrd (y : Bool) (d : SReg) : WritesScalar (.mrd y d) (useSw d) d fun c => (0 : BitVec 32) ++ c.split.mode := by
  have hmode (m : Lane) : (0 : BitVec 32) ++ m = m.zeroExtend 64 := (BitVec.setWidth_eq_append (by decide)).symm
  simp only [hmode]
  exact writesScalar_of (fun _ => rfl) rfl

/-! The threshold registers (R164). -/
theorem completesWith_thset (y : Bool) (d : ThReg) (a b : SReg) : CompletesWith (.thset y d a b) { sr := [a.val, b.val] } (fun c w =>
    let level (k : Nat) (v : Scalar) (w : Wave) : Wave := thSet w d.val (k + 1) (v.toNat / 2 ^ (16 * (k % 4)) % 2 ^ 16)
    level 4 (sca c b) (level 3 (sca c a) (level 2 (sca c a) (level 1 (sca c a) (level 0 (sca c a) w))))) :=
  completesWith_of (fun _ => rfl) rfl (fun _ _ => rfl) fun _ _ => rfl

/-! The timer (R388). -/
section
variable {s : State} {wv sp : Nat} {y : Bool} {a : SReg} (h : ready s wv sp (useSr a) = true)
include h

theorem exec_tmset_negative (hv : (sget (waveAt s wv) a.val).getLsbD 63 = true) :
    exec (.tmset y a) s = .next (traps s wv sp (useSr a) 0x01 0 0) :=
  issue_traps h rfl (if_pos hv)

theorem exec_tmset_writes (hv : (sget (waveAt s wv) a.val).getLsbD 63 = false) : exec (.tmset y a) s =
    .next (ends s wv sp (useSr a) fun w => { w with tim := { w.tim with tmcmp := tmsetValue w (sget (waveAt s wv) a.val) } }) :=
  issue_wave h rfl (if_neg (ne_true_of_eq_false hv)) ⟨rfl, rfl, rfl, rfl, rfl⟩
end

/-- Settles O10: instruction by instruction. -/
theorem modeThresholdAndTimer : Obligations.ModeThresholdAndTimer := by
  refine ⟨fun y i d a => ⟨?mset, ?mseth, ?mwr, ?mrd⟩,
    fun y d a b => ⟨completesWith_thset y d a b, fun s wv sp h => ⟨?negative, ?disarm, ?arm⟩⟩⟩
  case mset => exact fun s wv sp h => exec_writesMode (fun _ => rfl) rfl h (mode_low_half ..)
  case mseth => exact fun s wv sp h => exec_writesMode (fun _ => rfl) rfl h (mode_high_half ..)
  case mwr => exact fun s wv sp h => exec_writesMode (fun _ => rfl) rfl h (BitVec.setWidth_eq_extractLsb' (by decide))
  case mrd => exact writesScalar_mrd y d
  case negative => exact exec_tmset_negative h
  case disarm =>
    intro hv
    rw [exec_tmset_writes h (by simp [hv])]
    simp only [hv, tmsetValue, if_true]
  case arm =>
    intro hv hsign
    rw [exec_tmset_writes h hsign]
    simp only [tmsetValue, if_neg hv]
    rfl

end Sys2Proof.Machine
end

section
/-!
CONTEXT_SAVE and the forms (R36, R408, R411). Every accessor of a table reads the first entry of a handle; a save copies every entry of the
cluster's cores. A core table that lists a handle twice hides its second entry from `formed`, and the save lays it open.
-/
namespace Sys2Proof.Machine

/-- A core whose scratchpad lists a byte that reads as an unlisted one does: not a canonical array. -/
def unformedCore : Core := { spad := [(0, 0)] }

/-- A cluster in its swap phase, with a group on its core 0; the core table lists that core a second time. -/
def hidingState : State :=
  { cores := [(0, {}), (0, unformedCore)]
    clusters := [(0, { reclaim := some { swap := some 0 } })]
    groups := [(0, {})]
    agenda := [.contextSave 0] }

theorem coreAt_hidingState (k : Nat) : coreAt hidingState k = {} := by
  cases k <;> rfl
theorem groupAt_hidingState (k : Nat) : groupAt hidingState k = {} := by
  cases k <;> rfl
theorem saved_hidingState (k : Nat) : (clusterAt hidingState k).saved = none := by
  cases k <;> rfl

theorem formed_hidingState : formed hidingState := by
  refine ⟨fun _ => rfl, fun k => ?_, fun k x hx => ?_, fun _ => Nat.zero_le _, fun k => ?_⟩
  · rw [coreAt_hidingState]
    rfl
  · rw [saved_hidingState] at hx
    cases hx
  · rw [groupAt_hidingState]
    rfl

/-- The machine after the save. -/
def laidOpen : State := match step hidingState with
  | .next t => t
  | _ => hidingState

theorem step_hidingState : step hidingState = .next laidOpen := rfl

/-- The saved context holds the entry that no accessor read. -/
theorem unformedCore_saved : ∃ x, (clusterAt laidOpen 0).saved = some x ∧ (0, unformedCore) ∈ x.cores :=
  ⟨_, rfl, by decide⟩

/-- Refutes O59: a core table may list a handle twice, and CONTEXT_SAVE keeps the entry that `formed` does not see. -/
theorem not_stepKeepsForms : ¬ Obligations.StepKeepsForms := by
  intro hkeeps
  obtain ⟨-, -, hsaved, -, -⟩ := hkeeps hidingState laidOpen formed_hidingState step_hidingState
  obtain ⟨x, hx, hmem⟩ := unformedCore_saved
  exact absurd (hsaved 0 x hx _ hmem) (by decide)

end Sys2Proof.Machine
end

section
/-!
The window instructions (R105 to R109, R372): the checks that stop none of them, what a call and a return leave of the split that goes on, and a
return from the root frame.
-/
namespace Sys2Proof.Machine

/-! Shared checks (R105, R106, R116). -/
/-- R105, R106, R116: no service is pending, `n` rows are free, and no spill for them passes cw.bsize. -/
def RoomFor (w : Wave) (n : Nat) : Prop := w.win.service = .clear ∧ n ≤ wfree w ∧ overflows w n = false

theorem serviceEff_clear {w : Wave} (h : w.win.service = .clear) (x : Split) (needs : Option Transfer) : serviceEff w x needs = none := by
  simp only [serviceEff, h]
theorem served_clear {c : Ctx} {s : State} (h : (waveAt s c.wv).win.service = .clear) (k : ParkKind) (go : State × Eff) :
    served c s none k go = go := by
  simp only [served, serviceEff_clear h]
  rfl
theorem roomNeed_none {w : Wave} {n : Nat} (h : n ≤ wfree w) : roomNeed w n = none := if_neg (by omega)
theorem callGate_room {c : Ctx} {s : State} {n : Nat} (htop : (waveAt s c.wv).win.top + n < 2 ^ 40) (h : RoomFor (waveAt s c.wv) n)
    (go : State × Eff) : callGate c s n go = go := by
  obtain ⟨hclear, hfree, hover⟩ := h
  have hgo : ¬ (2 ^ 40 ≤ (waveAt s c.wv).win.top + n ∨ overflows (waveAt s c.wv) n = true) := by
    rw [hover]
    simpa using htop
  rw [callGate, if_neg hgo, roomNeed_none hfree, served_clear hclear]

/-- The spills needed depend on the window and the width alone. -/
theorem spillBytes_openIssue (w : Wave) (sp : Nat) (cl : Bool) (need : Nat) (l : List (FrameRec × Nat)) (free acc : Nat) :
    spillBytes (openIssue w sp cl) need l free acc = spillBytes w need l free acc := by
  induction l generalizing free acc with
  | nil => rfl
  | cons p t ih => simp only [spillBytes, recordBytes, openIssue_width, ih]
@[simp] theorem residentRecs_openIssue (w : Wave) (sp : Nat) (cl : Bool) : residentRecs (openIssue w sp cl) = residentRecs w := by
  simp only [residentRecs, openIssue_win]
@[simp] theorem wfree_openIssue (w : Wave) (sp : Nat) (cl : Bool) : wfree (openIssue w sp cl) = wfree w := by simp only [wfree, openIssue_win]
@[simp] theorem overflows_openIssue (w : Wave) (sp : Nat) (cl : Bool) (need : Nat) : overflows (openIssue w sp cl) need = overflows w need := by
  rw [overflows, overflows, residentRecs_openIssue, wfree_openIssue, spillBytes_openIssue, openIssue_win]
@[simp] theorem recOfLink_openIssue (w : Wave) (sp : Nat) (cl : Bool) (p : Nat) : recOfLink (openIssue w sp cl) p = recOfLink w p := by
  simp only [recOfLink, openIssue_win]
@[simp] theorem highestRec_openIssue (w : Wave) (sp : Nat) (cl : Bool) : highestRec (openIssue w sp cl) = highestRec w := by
  simp only [highestRec, openIssue_win]
@[simp] theorem callRows_openIssue (w : Wave) (sp : Nat) (cl : Bool) (f : Frame) : callRows (openIssue w sp cl) f = callRows w f := by
  simp only [callRows, openIssue_win]
@[simp] theorem readLink_openIssue (w : Wave) (sp : Nat) (cl : Bool) (p : Nat) : readLink (openIssue w sp cl) p = readLink w p := by
  simp only [readLink, linkWord, rowGet, ringRow, openIssue_win, openIssue_regs]
theorem roomFor_openIssue {w : Wave} {n : Nat} (h : RoomFor w n) (sp : Nat) (cl : Bool) : RoomFor (openIssue w sp cl) n := by
  simpa only [RoomFor, openIssue_win, wfree_openIssue, overflows_openIssue] using h

/-! What an update of the wave leaves. -/
theorem foldl_keeps {σ α β : Type} (p : σ → β) {f : σ → α → σ} (h : ∀ s x, p (f s x) = p s) (l : List α) (s : σ) : p (l.foldl f s) = p s := by
  induction l generalizing s with
  | nil => rfl
  | cons x t ih => rw [List.foldl_cons, ih, h]

/-- R33: only counters change. -/
theorem cntMap_eq (m : Mask) (f : Nat → Nat → Nat) (n : Nat) (w : Wave) :
    ∃ k, cntMap m f n w = { w with ctl := { w.ctl with counters := k } } := by
  induction n with
  | zero => exact ⟨w.ctl.counters, rfl⟩
  | succ n ih =>
    obtain ⟨k, hk⟩ := ih
    by_cases hm : mbit m n = true
    · refine ⟨spSet 0 k n (f n (cntGet w n)), ?_⟩
      rw [cntMap, if_pos hm, hk]
      rfl
    · refine ⟨k, ?_⟩
      rw [cntMap, if_neg hm, hk]
theorem getSplit_cntMap (m : Mask) (f : Nat → Nat → Nat) (n : Nat) (w : Wave) (i : Nat) : getSplit (cntMap m f n w) i = getSplit w i := by
  obtain ⟨k, hk⟩ := cntMap_eq m f n w
  rw [hk]
  rfl
theorem cntMap_zero (f : Nat → Nat → Nat) (n : Nat) (w : Wave) : cntMap 0 f n w = w := by
  induction n with
  | zero => rfl
  | succ n ih =>
    have hm : ¬ mbit 0 n = true := by simp [mbit]
    rw [cntMap, if_neg hm, ih]

theorem contestRows_nil {w : Wave} (h : w.out = []) (free : Nat) (rows : List Nat) (m : Mask) : contestRows free rows m w = w := by
  have hw : w = { w with out := [] } := by rw [← h]
  rw [hw]
  rfl

/-! The split that goes on elsewhere (R27, R106, R107). -/
theorem GoesOnLike.trans {sp : Nat} {w z v : Wave} (h : GoesOnLike sp w z) (g : GoesOnLike sp z v) : GoesOnLike sp w v where
  length := g.length.trans h.length
  valid := g.valid.trans h.valid
  held := g.held.trans h.held
  wait := g.wait.trans h.wait
  out := g.out.trans h.out
theorem goesOnLike_of_ctl {sp : Nat} {w z : Wave} (hctl : z.ctl = w.ctl) (hout : z.out = w.out) : GoesOnLike sp w z :=
  ⟨by rw [hctl], by rw [getSplit, hctl, getSplit], by rw [getSplit, hctl, getSplit], by rw [hctl], hout⟩
theorem goesOnLike_putSplit {w : Wave} {sp : Nat} {x : Split} (h : sp < w.ctl.splits.length) (hv : x.valid = (getSplit w sp).valid)
    (hh : x.held = (getSplit w sp).held) : GoesOnLike sp w (putSplit w sp x) where
  length := putSplit_length ..
  valid := by rw [getSplit_putSplit_self w sp _ h, hv]
  held := by rw [getSplit_putSplit_self w sp _ h, hh]
  wait := rfl
  out := rfl
theorem goesOnLike_cntMap (sp : Nat) (m : Mask) (f : Nat → Nat → Nat) (n : Nat) (w : Wave) : GoesOnLike sp w (cntMap m f n w) := by
  obtain ⟨k, hk⟩ := cntMap_eq m f n w
  rw [hk]
  exact ⟨rfl, rfl, rfl, rfl, rfl⟩

/-- The split may go on, and is parked at nothing. -/
structure MovesLike (sp : Nat) (w z : Wave) : Prop extends GoesOnLike sp w z where
  park : (getSplit z sp).park = {}

theorem GoesOnLike.moves {sp : Nat} {w z v : Wave} (h : GoesOnLike sp w z) (g : MovesLike sp z v) : MovesLike sp w v :=
  ⟨h.trans g.toGoesOnLike, g.park⟩
theorem movesLike_putSplit {w z : Wave} {sp : Nat} {x : Split} (h : sp < w.ctl.splits.length) (hctl : z.ctl = w.ctl) (hout : z.out = w.out)
    (hv : x.valid = (getSplit w sp).valid) (hh : x.held = (getSplit w sp).held) (hp : x.park = {}) : MovesLike sp w (putSplit z sp x) := by
  have hz : GoesOnLike sp w z := goesOnLike_of_ctl hctl hout
  have hlen : sp < z.ctl.splits.length := by rwa [hz.length]
  exact ⟨hz.trans (goesOnLike_putSplit hlen (hv.trans hz.valid.symm) (hh.trans hz.held.symm)), by rw [getSplit_putSplit_self z sp _ hlen, hp]⟩

/-- R102, R106: a call writes rows, the window and the split that calls. -/
theorem doCall_eq (view w : Wave) (sp kind tgt ret : Nat) (left : Leftover) : ∃ z f, z.ctl = w.ctl ∧ z.out = w.out ∧
    doCall view sp kind tgt ret left w = putSplit z sp { unparked (getSplit w sp) with frame := f, leftover := {}, pc := tgt } := by
  refine ⟨_, _, ?_, ?_, rfl⟩
  · dsimp only
    rw [writeLink, writeRow_ctl]
    split
    · exact foldl_keeps Wave.ctl (fun _ _ => writeRow_ctl ..) _ _
    · rfl
  · dsimp only
    rw [writeLink, writeRow_out]
    split
    · exact foldl_keeps Wave.out (fun _ _ => writeRow_out ..) _ _
    · rfl
theorem movesLike_doCall {w : Wave} {sp : Nat} (h : sp < w.ctl.splits.length) (view : Wave) (kind tgt ret : Nat) (left : Leftover) :
    MovesLike sp w (doCall view sp kind tgt ret left w) := by
  obtain ⟨z, f, hctl, hout, he⟩ := doCall_eq view w sp kind tgt ret left
  rw [he]
  exact movesLike_putSplit h hctl hout rfl rfl rfl

/-- R107: the rows that a return copies back. -/
theorem copyBack_keeps (view : Wave) (sp : Nat) (l : Link) (f : Frame) (w : Wave) :
    (copyBack view sp l f w).ctl = w.ctl ∧ (copyBack view sp l f w).out = w.out :=
  ⟨foldl_keeps Wave.ctl (fun _ _ => writeRow_ctl ..) _ _, foldl_keeps Wave.out (fun _ _ => writeRow_out ..) _ _⟩
/-- R372: what a return from a CALLX frame does besides leaves the split as it goes on. -/
theorem movesLike_retCallx {w : Wave} {sp : Nat} (h : sp < w.ctl.splits.length) (hp : (getSplit w sp).park = {}) :
    MovesLike sp w (retCallx sp w) := by
  have hcnt (f : Nat → Nat → Nat) := goesOnLike_cntMap sp (liveLanes w sp) f 128 w
  unfold retCallx
  dsimp only
  split
  · exact (hcnt _).moves (movesLike_putSplit (by rwa [(hcnt _).length]) rfl rfl (hcnt _).valid.symm (hcnt _).held.symm hp)
  · exact ⟨hcnt _, by rw [getSplit_cntMap, hp]⟩
theorem movesLike_popDead {sp : Nat} {w z : Wave} (h : MovesLike sp w z) : MovesLike sp w (popDead (refreshLive z)) :=
  ⟨⟨h.length, h.valid, h.held, h.wait, h.out⟩, h.park⟩
/-- R107: a return writes rows, counters, the window and the split that returns. -/
theorem movesLike_doRet {w : Wave} {sp : Nat} (h : sp < w.ctl.splits.length) (view : Wave) (l : Link) :
    MovesLike sp w (doRet view sp l w) := by
  have hback : ∃ z, z.ctl = w.ctl ∧ z.out = w.out ∧ (if l.det then copyBack view sp l (getSplit w sp).frame w else w) = z := by
    split
    · exact ⟨_, (copyBack_keeps ..).1, (copyBack_keeps ..).2, rfl⟩
    · exact ⟨w, rfl, rfl, rfl⟩
  obtain ⟨z, hctl, hout, hz⟩ := hback
  have h2 : MovesLike sp w (putSplit z sp { unparked (getSplit w sp) with frame := l.frame, leftover := l.leftover, pc := l.ret }) :=
    movesLike_putSplit h hctl hout rfl rfl rfl
  unfold doRet
  dsimp only
  rw [hz]
  apply movesLike_popDead
  split
  · exact h2.toGoesOnLike.moves (movesLike_retCallx (by rwa [h2.length]) h2.park)
  · exact h2

/-! The lanes and counters of an instruction that closes its region. -/
theorem liveLanes_openIssue {w : Wave} {sp : Nat} (h : sp < w.ctl.splits.length) (cl : Bool) : liveLanes (openIssue w sp cl) sp = liveLanes w sp := by
  have hexited : (openIssue w sp cl).ctl.exited = w.ctl.exited := by cases cl <;> rfl
  rw [liveLanes, openIssue_split h, hexited]
  cases cl <;> rfl
theorem liveSplits_openIssue {w : Wave} {sp : Nat} (h : sp < w.ctl.splits.length) (cl : Bool) : liveSplits (openIssue w sp cl) = liveSplits w := by
  refine liveSplits_valid fun i _ => ?_
  by_cases hi : i = sp
  · rw [hi, openIssue_split h]
    cases cl <;> rfl
  · rw [getSplit_openIssue_ne w cl hi]
@[simp] theorem cntGet_openIssue (w : Wave) (sp : Nat) (cl : Bool) (i : Nat) : cntGet (openIssue w sp cl) i = cntGet w i := by
  rw [cntGet, openIssue_counters, cntGet]

/-! An instruction that has set every PC itself. -/
section
variable {s : State} {wv sp : Nat} {y : Bool} {u : Usage} {body : Ctx → State → State × Eff} (h : ready s wv sp u = true)
  (hc : u.collective = false)
include h hc

/-- R53: an effect that writes the wave of a ready instruction and sets its PC. -/
theorem issue_moved {f : Wave → Wave}
    (hb : body (seen s wv sp) (entered s wv sp u.closes) = (onWave (entered s wv sp u.closes) wv f, .moved))
    (hf : MovesLike sp (openIssue (waveAt s wv) sp u.closes) (f (openIssue (waveAt s wv) sp u.closes))) :
    issue s y u body = .next (putWave { s with free := s.free + 2 } wv (f (openIssue (waveAt s wv) sp u.closes))) := by
  have he := entered_steady h
  rw [begun_plain hc, steady_iff, entered_wave] at he
  obtain ⟨hres, -, hval, hheld, hwait⟩ := he
  obtain ⟨hbad, -, -, h4, -, -, -, -, hout, -⟩ := ready_iff.1 h
  have hwave : onWave (entered s wv sp u.closes) wv f =
      putWave { s with free := s.free + 2 } wv (f (openIssue (waveAt s wv) sp u.closes)) := by
    rw [onWave_eq hres, entered_wave]
    exact putWave_putWave ..
  rw [issue_ready h, begun_plain hc, runBody_quiet hbad hout hb, hwave]
  simp only [finish]
  rw [marker_off (.inr (by rw [hf.out, openIssue_out, hout])), settle_running (by rw [hf.wait, hwait]) h4 (by rw [hf.valid, hval])
    (by rw [hf.held, hheld]) (by rw [hf.park])]

/-- R96: a copy of rows, with nothing outstanding that it could race. -/
theorem issue_copies {f : Wave → Wave}
    (hb : ∃ (rows : Wave → List Nat) (m : Wave → Mask), body (seen s wv sp) (entered s wv sp u.closes) =
      (onWave (entered s wv sp u.closes) wv fun w => contestRows s.free (rows w) (m w) (f w), .moved))
    (hf : MovesLike sp (openIssue (waveAt s wv) sp u.closes) (f (openIssue (waveAt s wv) sp u.closes))) :
    issue s y u body = .next (putWave { s with free := s.free + 2 } wv (f (openIssue (waveAt s wv) sp u.closes))) := by
  obtain ⟨rows, m, hb⟩ := hb
  obtain ⟨-, -, -, -, -, -, -, -, hout, -⟩ := ready_iff.1 h
  have hnil : (f (openIssue (waveAt s wv) sp u.closes)).out = [] := by rw [hf.out, openIssue_out, hout]
  have hrace := contestRows_nil hnil s.free (rows (openIssue (waveAt s wv) sp u.closes)) (m (openIssue (waveAt s wv) sp u.closes))
  have hmoved := issue_moved (y := y) h hc hb (by rwa [hrace])
  rwa [hrace] at hmoved

/-- An effect that leaves its wave as it is. -/
theorem issue_idle (hb : body (seen s wv sp) (entered s wv sp u.closes) = (entered s wv sp u.closes, .done)) :
    issue s y u body = .next (ends s wv sp u id) := by
  have hid : onWave (entered s wv sp u.closes) wv id = entered s wv sp u.closes := by
    have he := entered_steady h
    rw [begun_plain hc] at he
    rw [onWave_eq (steady_iff.1 he).1, entered_wave]
    exact putWave_putWave ..
  exact issue_wave h hc (by rw [hb, hid]) ⟨rfl, rfl, rfl, rfl, rfl⟩
end

/-! FRAME (R105). -/
/-- R90: a mask has no lane from 128 on. -/
theorem setLanes_wide {n : Nat} (h : 128 ≤ n) (row : Nat) (m : Mask) (f : Nat → Lane) (w : Wave) : setLanes row m f n w = setLanes row m f 128 w := by
  induction h with
  | refl => rfl
  | @step n hn ih =>
    have hm : ¬ mbit m n = true := fun hb => absurd (BitVec.lt_of_getLsbD hb) (Nat.not_lt.2 hn)
    rw [setLanes, if_neg hm, ih]
theorem setLanes_min (row : Nat) (m : Mask) (f : Nat → Lane) (n : Nat) (w : Wave) : setLanes row m f n w = setLanes row m f (min n 128) w := by
  by_cases h : n ≤ 128
  · rw [Nat.min_eq_left h]
  · rw [Nat.min_eq_right (by omega), setLanes_wide (by omega)]
/-- R90: what a row reads after a write to a row. -/
theorem rowGet_writeRow {w : Wave} (h : spWf 0 w.regs.vec = true) {lane : Nat} (hl : lane < 128) (row row' : Nat) (m : Mask) (f : Nat → Lane) :
    rowGet (writeRow w row m f) row' lane = if row' = row ∧ mbit m lane = true ∧ lane < w.width then f lane else rowGet w row' lane := by
  have hlt : lane < min w.width 128 ↔ lane < w.width := by omega
  rw [writeRow, setLanes_min, rowGet_setLanes h (Nat.min_le_right ..) hl]
  simp only [hlt]
@[simp] theorem writeRow_win (w : Wave) (row : Nat) (m : Mask) (f : Nat → Lane) : (writeRow w row m f).win = w.win := by
  unfold writeRow
  generalize w.width = n
  induction n with
  | zero => rfl
  | succ n ih =>
    rw [setLanes]
    split
    · exact ih
    · exact ih

/-- The lanes of the other splits. -/
theorem otherLanes_congr {w z : Wave} {sp : Nat} (h : ∀ i, i ≠ sp → getSplit z i = getSplit w i) (he : z.ctl.exited = w.ctl.exited) :
    otherLanes z sp = otherLanes w sp := by
  have hlive : (liveSplits z).filter (· != sp) = (liveSplits w).filter (· != sp) := by
    simp only [liveSplits, List.filter_filter]
    refine List.filter_congr fun i _ => ?_
    by_cases hi : i = sp
    · simp [hi]
    · rw [h i hi]
  unfold otherLanes
  rw [hlive]
  refine List.foldl_rel (r := Eq) rfl fun i hi m m' hm => ?_
  have hne : i ≠ sp := by simpa only [bne_iff_ne, ne_eq] using (List.mem_filter.1 hi).2
  rw [hm, liveLanes, liveLanes, h i hne, he]

/-- R105: one position joins a frame. -/
def joinRow (free sp p : Nat) (w : Wave) : Wave :=
  writeRow w (ringRow w p) (~~~ otherLanes w sp &&& maskOf fun i => Config.race free (2 ^ 21 + laneKey (ringRow w p) i)) fun _ => 0
theorem joinRows_eq (free sp : Nat) (f f' : Frame) (w : Wave) :
    joinRows free sp f f' w = (List.range (frameEnd f' - frameEnd f)).foldl (fun w k => joinRow free sp (frameEnd f + k) w) w := rfl
theorem joinRows_keeps (free sp : Nat) (f f' : Frame) (w : Wave) :
    (joinRows free sp f f' w).ctl = w.ctl ∧ (joinRows free sp f f' w).out = w.out :=
  ⟨foldl_keeps Wave.ctl (fun _ _ => writeRow_ctl ..) _ _, foldl_keeps Wave.out (fun _ _ => writeRow_out ..) _ _⟩

/-- A row that joins keeps its value, or is zero in a lane that no other split holds. -/
theorem rowGet_joinRow {w : Wave} (h : spWf 0 w.regs.vec = true) {lane : Nat} (hl : lane < 128) (free sp p row : Nat) :
    rowGet (joinRow free sp p w) row lane = rowGet w row lane ∨
      (rowGet (joinRow free sp p w) row lane = 0 ∧ mbit (otherLanes w sp) lane = false ∧ row = ringRow w p) := by
  rw [joinRow, rowGet_writeRow h hl]
  split
  · next hw =>
    obtain ⟨hrow, hm, -⟩ := hw
    refine .inr ⟨rfl, ?_, hrow⟩
    simp only [mbit, BitVec.getLsbD_and, BitVec.getLsbD_not, Bool.and_eq_true, Bool.not_eq_true'] at hm
    exact hm.1.2
  · exact .inl rfl
theorem rowGet_foldl_joinRow (free sp base : Nat) {lane : Nat} (hl : lane < 128) (row : Nat) (ks : List Nat) {w : Wave}
    (h : spWf 0 w.regs.vec = true) :
    rowGet (ks.foldl (fun w k => joinRow free sp (base + k) w) w) row lane = rowGet w row lane ∨
      (rowGet (ks.foldl (fun w k => joinRow free sp (base + k) w) w) row lane = 0 ∧ mbit (otherLanes w sp) lane = false ∧
        ∃ k ∈ ks, row = ringRow w (base + k)) := by
  induction ks generalizing w with
  | nil => exact .inl rfl
  | cons k ks ih =>
    have hother : otherLanes (joinRow free sp (base + k) w) sp = otherLanes w sp := by
      refine otherLanes_congr (fun i _ => ?_) ?_
      · rw [getSplit, joinRow, writeRow_ctl, getSplit]
      · rw [joinRow, writeRow_ctl]
    have hring (p : Nat) : ringRow (joinRow free sp (base + k) w) p = ringRow w p := by rw [ringRow, joinRow, writeRow_win, ringRow]
    have hw : spWf 0 (joinRow free sp (base + k) w).regs.vec = true := setLanes_vec_wf h ..
    rw [List.foldl_cons]
    rcases ih hw with he | ⟨hz, ho, j, hj, hr⟩
    · rw [he]
      rcases rowGet_joinRow h hl free sp (base + k) row with he | ⟨hz, ho, hr⟩
      · exact .inl he
      · exact .inr ⟨hz, ho, k, List.mem_cons_self, hr⟩
    · exact .inr ⟨hz, hother ▸ ho, j, List.mem_cons_of_mem _ hj, (hring _) ▸ hr⟩

/-- R105: the wave once split `sp` has set its sizes. -/
def sized (sp : Nat) (f' : Frame) (w : Wave) : Wave := frameTop (putSplit w sp { getSplit w sp with frame := f' }) sp
/-- R105: and the positions that join the frame hold a value. -/
def resized (free sp : Nat) (f f' : Frame) (w : Wave) : Wave := joinRows free sp f f' (sized sp f' w)

theorem sized_eq (sp : Nat) (f' : Frame) (w : Wave) :
    ∃ n, sized sp f' w = { putSplit w sp { getSplit w sp with frame := f' } with win := { w.win with top := n } } := by
  unfold sized frameTop
  dsimp only
  split
  · exact ⟨_, rfl⟩
  · exact ⟨w.win.top, rfl⟩
theorem goesOnLike_resized {w : Wave} {sp : Nat} (h : sp < w.ctl.splits.length) (free : Nat) (f f' : Frame) :
    GoesOnLike sp w (resized free sp f f' w) := by
  obtain ⟨n, hn⟩ := sized_eq sp f' w
  have hsized : GoesOnLike sp w (sized sp f' w) := by
    have hput : GoesOnLike sp w (putSplit w sp { getSplit w sp with frame := f' }) := goesOnLike_putSplit h rfl rfl
    rw [hn]
    exact hput.trans (goesOnLike_of_ctl rfl rfl)
  obtain ⟨hctl, hout⟩ := joinRows_keeps free sp f f' (sized sp f' w)
  exact hsized.trans (goesOnLike_of_ctl hctl hout)
/-- R105: what a row reads after FRAME. -/
theorem rowGet_resized {w : Wave} (h : spWf 0 w.regs.vec = true) {lane : Nat} (hl : lane < 128) (free sp row : Nat) (f f' : Frame) :
    rowGet (resized free sp f f' w) row lane = rowGet w row lane ∨
      (rowGet (resized free sp f f' w) row lane = 0 ∧ mbit (otherLanes w sp) lane = false ∧
        ∃ p, frameEnd f ≤ p ∧ p < frameEnd f' ∧ row = ringRow w p) := by
  obtain ⟨n, hn⟩ := sized_eq sp f' w
  have hother : otherLanes (sized sp f' w) sp = otherLanes w sp := by
    rw [hn]
    exact otherLanes_congr (fun i hi => getSplit_putSplit_ne w sp i _ hi) rfl
  have hring (p : Nat) : ringRow (sized sp f' w) p = ringRow w p := by rw [hn]; rfl
  have hrow : rowGet (sized sp f' w) row lane = rowGet w row lane := by rw [hn]; rfl
  have hwf : spWf 0 (sized sp f' w).regs.vec = true := by rw [hn]; exact h
  have hjoin := rowGet_foldl_joinRow free sp (frameEnd f) hl row (List.range (frameEnd f' - frameEnd f)) hwf
  rw [← joinRows_eq, hother, hrow] at hjoin
  refine hjoin.imp id fun ⟨hz, ho, k, hk, hr⟩ => ⟨hz, ho, frameEnd f + k, Nat.le_add_right .., ?_, ?_⟩
  · have := List.mem_range.1 hk
    omega
  · rw [hr, hring]

section
variable {s : State} {wv sp : Nat} {y : Bool} {nin nout : Fin 32} {nloc : Fin 64} {f f' : Frame}
  (h : ready s wv sp { closes := true } = true) (hf : (getSplit (waveAt s wv) sp).frame = f)
  (hf' : { f with nloc := nloc.val, nout := nout.val } = f')
include h hf hf'

theorem exec_frame (hin : nin.val = f.nin) (hsum : nin.val + nloc.val + nout.val ≤ 96)
    (hfit : frameEnd f' - (recOfLink (waveAt s wv) (linkPos f)).start ≤ (waveAt s wv).win.rows)
    (hroom : RoomFor (waveAt s wv) (frameEnd f' - (waveAt s wv).win.top))
    (htop : (highestRec (waveAt s wv)).start = (recOfLink (waveAt s wv) (linkPos f)).start ∨
      ∀ r ∈ (waveAt s wv).win.records, ¬ ((recOfLink (waveAt s wv) (linkPos f)).start < r.start ∧ r.start < frameEnd f')) :
    exec (.frame y nin nloc nout) s = .next (ends s wv sp { closes := true } (resized s.free sp f f')) := by
  obtain ⟨-, -, -, h4, hlen, -⟩ := ready_iff.1 h
  obtain ⟨hclear, hfree, hover⟩ := hroom
  have hlegal : ¬ (nin.val ≠ f.nin ∨ 96 < nin.val + nloc.val + nout.val ∨
      (waveAt s wv).win.rows < frameEnd f' - (recOfLink (waveAt s wv) (linkPos f)).start) := by omega
  have hhigh : ¬ ((highestRec (waveAt s wv)).start ≠ (recOfLink (waveAt s wv) (linkPos f)).start ∧
      ((waveAt s wv).win.records.any fun q =>
        decide ((recOfLink (waveAt s wv) (linkPos f)).start < q.start) && decide (q.start < frameEnd f')) = true) := by
    rintro ⟨hne, hany⟩
    obtain ⟨r, hr, hbetween⟩ := List.any_eq_true.1 hany
    exact (htop.resolve_left hne) r hr (by simpa using hbetween)
  refine issue_wave h rfl ?_ (goesOnLike_resized (by rw [openIssue_length]; omega) ..)
  have hw := entered_wave s wv sp true
  have hwv : (seen s wv sp).wv = wv := rfl
  have hx : (seen s wv sp).split.frame = f := hf
  have hclear' : (waveAt (entered s wv sp true) (seen s wv sp).wv).win.service = .clear := by rw [hwv, hw, openIssue_win, hclear]
  simp only [hwv, hw, hx, hf', recOfLink_openIssue, highestRec_openIssue, overflows_openIssue, openIssue_win, if_neg hlegal, hover, if_neg hhigh,
    Bool.false_eq_true, if_false]
  rw [roomNeed_none (by rwa [wfree_openIssue]), served_clear hclear']
  rfl

theorem exec_frame_traps (hbad : nin.val ≠ f.nin ∨ 96 < nin.val + nloc.val + nout.val ∨
      (waveAt s wv).win.rows < frameEnd f' - (recOfLink (waveAt s wv) (linkPos f)).start) :
    exec (.frame y nin nloc nout) s = .next (traps s wv sp { closes := true } 0x06 0 0) := by
  refine issue_traps h rfl ?_
  have hw := entered_wave s wv sp true
  have hwv : (seen s wv sp).wv = wv := rfl
  have hx : (seen s wv sp).split.frame = f := hf
  simp only [hwv, hw, hx, hf', recOfLink_openIssue, openIssue_win, if_pos hbad]
end

/-! The target groups of CALLX (R370). -/
theorem foldl_addToGroups_same {tgt : Nat → Nat} {t : Nat} (l : List Nat) (h : ∀ i ∈ l, tgt i = t) (m : Mask) :
    ∃ m', l.foldl (fun gs i => addToGroups (tgt i) i gs) [(t, m)] = [(t, m')] := by
  induction l generalizing m with
  | nil => exact ⟨m, rfl⟩
  | cons i l ih =>
    have hi : addToGroups (tgt i) i [(t, m)] = [(t, m ||| 1#128 <<< i)] := by rw [h i List.mem_cons_self, addToGroups, if_pos rfl]
    rw [List.foldl_cons, hi]
    exact ih (fun j hj => h j (List.mem_cons_of_mem _ hj)) _
/-- Active lanes that all go to one target are one group. -/
theorem targetGroups_same {tgt : Nat → Nat} {act : Mask} {t : Nat} (hact : act ≠ 0) (h : ∀ i, mbit act i = true → tgt i = t) :
    ∃ m, targetGroups tgt act = [(t, m)] := by
  have hmem (i : Nat) (hi : i ∈ maskList act) : tgt i = t := h i (mem_maskList.1 hi)
  unfold targetGroups
  cases hl : maskList act with
  | nil =>
    refine absurd (BitVec.eq_of_getLsbD_eq fun i _ => ?_) hact
    have hi : i ∉ maskList act := by simp [hl]
    simpa [mbit] using mt mem_maskList.2 hi
  | cons i l =>
    rw [hl] at hmem
    rw [List.foldl_cons, hmem i List.mem_cons_self]
    exact foldl_addToGroups_same l (fun j hj => hmem j (List.mem_cons_of_mem _ hj)) _

theorem unionMasks_nil : unionMasks [] = 0 := rfl

/-! Calls and returns (R106, R107). -/
theorem callGate_entered {s : State} {wv sp n : Nat} (htop : (waveAt s wv).win.top + n < 2 ^ 40) (hroom : RoomFor (waveAt s wv) n) (cl : Bool)
    (go : State × Eff) : callGate (seen s wv sp) (entered s wv sp cl) n go = go := by
  have hwave : waveAt (entered s wv sp cl) (seen s wv sp).wv = openIssue (waveAt s wv) sp cl := entered_wave ..
  rw [callGate_room]
  · rw [hwave, openIssue_win]; exact htop
  · rw [hwave]; exact roomFor_openIssue hroom ..
/-- A CALLX of one callee takes the rows of a CALL. -/
@[simp] theorem callxRows_one (w : Wave) (f : Frame) : callxRows w f 1 = callRows w f := by simp [callxRows]
/-- The rows that an instruction copies stop it only where a result is outstanding for one (R97). -/
theorem ready_copied {s : State} {wv sp : Nat} {u : Usage} (h : ready s wv sp u = true) (rows : List Nat) :
    ready s wv sp { u with copied := rows } = true := h
theorem usageOf_cur {s : State} {wv sp : Nat} (h : s.cur = some (wv, sp)) (f : Wave → Nat → Usage) : usageOf s f = f (waveAt s wv) sp := by
  simp only [usageOf, h]

section
variable {s : State} {wv sp : Nat} {y : Bool} {w : Wave} {x : Split} (hw : waveAt s wv = w) (hx : getSplit w sp = x)
include hw hx

section
variable {o : BitVec 23} (h : ready s wv sp { closes := true } = true)
include h

theorem exec_call (htop : w.win.top + callRows w x.frame < 2 ^ 40) (hroom : RoomFor w (callRows w x.frame)) :
    exec (.call y o) s = .next (putWave { s with free := s.free + 2 } wv
      (doCall w sp 1 (target x.pc o.toInt) (pcNext x.pc) x.leftover (openIssue w sp true))) := by
  subst hw hx
  obtain ⟨-, hcur, -, h4, hlen, -⟩ := ready_iff.1 h
  have hwave : waveAt (entered s wv sp true) (seen s wv sp).wv = openIssue (waveAt s wv) sp true := entered_wave ..
  have he : exec (.call y o) s = execCall y o s := rfl
  rw [he, execCall, usageOf_cur hcur]
  refine issue_copies (ready_copied h _) rfl ⟨fun v => calleeRows v (getSplit (waveAt s wv) sp).frame 1 true, fun _ => BitVec.allOnes 128, ?_⟩
    (movesLike_doCall (by rw [openIssue_length]; omega) ..)
  dsimp only
  rw [hwave, callRows_openIssue]
  exact callGate_entered htop hroom ..

theorem exec_call_traps (hbad : 2 ^ 40 ≤ w.win.top + callRows w x.frame ∨ overflows w (callRows w x.frame) = true) :
    exec (.call y o) s = .next (traps s wv sp { closes := true } 0x07 0 0) := by
  subst hw hx
  obtain ⟨-, hcur, -⟩ := ready_iff.1 h
  have hwave : waveAt (entered s wv sp true) (seen s wv sp).wv = openIssue (waveAt s wv) sp true := entered_wave ..
  have he : exec (.call y o) s = execCall y o s := rfl
  rw [he, execCall, usageOf_cur hcur]
  refine issue_traps (ready_copied h _) rfl ?_
  dsimp only
  rw [hwave, callRows_openIssue, callGate, if_pos]
  rw [hwave, overflows_openIssue]
  exact hbad
end

/-- R372: the caller as its CALLX calls: the counters of its inactive lanes raised, and the retry over. -/
def callxCaller (w : Wave) (sp : Nat) (v : Wave) : Wave :=
  let z := cntMap (liveLanes w sp) (fun _ k => if 0 < k then k + 1 else k) 128 v
  putSplit z sp { getSplit z sp with retry := false }
omit hw hx in
theorem goesOnLike_callxCaller {v : Wave} (h : sp < v.ctl.splits.length) : GoesOnLike sp v (callxCaller w sp v) := by
  have hcnt := goesOnLike_cntMap sp (liveLanes w sp) (fun _ k => if 0 < k then k + 1 else k) 128 v
  exact hcnt.trans (goesOnLike_putSplit (by rwa [hcnt.length]) rfl rfl)

theorem exec_callx {a : VReg} {t : Nat} (h : ready s wv sp { closes := true, vr := [(a.val, 1)] } = true)
    (htop : w.win.top + callRows w x.frame < 2 ^ 40) (hroom : RoomFor w (callRows w x.frame)) (hretry : x.retry = false)
    (hnest : ∀ i, mbit (liveLanes w sp) i = true → cntGet w i ≠ 63)
    (ht : ∀ i, mbit (actOf w sp) i = true → laneTarget (seen s wv sp) a i = t) :
    exec (.callx y a) s = .next (putWave { s with free := s.free + 2 } wv
      (doCall w sp 2 t (pcNext x.pc) x.leftover (callxCaller w sp (openIssue w sp true)))) := by
  subst hw hx
  obtain ⟨-, hcur, -, h4, hlen, -, -, -, -, -, -, -, hact, -⟩ := ready_iff.1 h
  obtain ⟨m, hgroups⟩ := targetGroups_same (hact.resolve_left (by simp)) ht
  have hlen' : sp < (waveAt s wv).ctl.splits.length := by omega
  have hcaller : GoesOnLike sp (openIssue (waveAt s wv) sp true) (callxCaller (waveAt s wv) sp (openIssue (waveAt s wv) sp true)) :=
    goesOnLike_callxCaller (by rwa [openIssue_length])
  have hlimit : ¬ (!(getSplit (waveAt s wv) sp).retry &&
      (maskList (liveLanes (waveAt s wv) sp)).any fun i => cntGet (waveAt s wv) i == 63) = true := by
    simp only [Bool.and_eq_true, List.any_eq_true, beq_iff_eq, not_and, not_exists]
    exact fun _ i hi => hnest i (mem_maskList.1 hi)
  have hwave : waveAt (entered s wv sp true) (seen s wv sp).wv = openIssue (waveAt s wv) sp true := entered_wave ..
  have hact' : (seen s wv sp).act = actOf (waveAt s wv) sp := rfl
  have hsp : (seen s wv sp).sp = sp := rfl
  have hx : (seen s wv sp).split = getSplit (waveAt s wv) sp := rfl
  have hall (m : Mask) : m &&& ~~~ (0 : Mask) = m := (congrArg (m &&& ·) BitVec.not_zero).trans BitVec.and_allOnes
  have he : exec (.callx y a) s = execCallx y a s := rfl
  rw [he, execCallx, usageOf_cur hcur]
  refine issue_copies (f := fun v => doCall (waveAt s wv) sp 2 t (pcNext (getSplit (waveAt s wv) sp).pc) (getSplit (waveAt s wv) sp).leftover
      (callxCaller (waveAt s wv) sp v)) (ready_copied h _) rfl
    ⟨fun v => calleeRows v (getSplit (waveAt s wv) sp).frame 1 true, fun _ => BitVec.allOnes 128, ?_⟩
    (hcaller.moves (movesLike_doCall (by rwa [hcaller.length, openIssue_length]) ..))
  -- One group: no new split is made, and no lane is left over.
  simp only [hact', hgroups, hwave, hsp, hx, liveLanes_openIssue hlen', cntGet_openIssue, if_neg hlimit, List.take_nil, List.drop_nil,
    List.length_nil, unionMasks_nil, Nat.add_zero, callxRows_one, callRows_openIssue]
  rw [callGate_entered htop hroom]
  simp only [hretry, cntMap_zero, hall, Bool.false_eq_true, if_false, if_true, ne_eq, not_true_eq_false, false_and]
  rfl

theorem exec_ret {l : Link} (h : ready s wv sp { closes := true } = true) (hl : readLink w (linkPos x.frame) = l) (hkind : l.kind ≠ 0)
    (hclear : w.win.service = .clear) (hres : w.win.bottom ≤ linkPos l.frame) :
    exec (.ret y) s = .next (putWave { s with free := s.free + 2 } wv (doRet w sp l (openIssue w sp true))) := by
  subst hw hx
  obtain ⟨-, hcur, -, h4, hlen, -⟩ := ready_iff.1 h
  have hwave : waveAt (entered s wv sp true) (seen s wv sp).wv = openIssue (waveAt s wv) sp true := entered_wave ..
  have hx : (seen s wv sp).split = getSplit (waveAt s wv) sp := rfl
  have hresident : ¬ linkPos l.frame < (waveAt s wv).win.bottom := by omega
  have he : exec (.ret y) s = execRet y s := rfl
  rw [he, execRet, usageOf_cur hcur]
  refine issue_copies (ready_copied h _) rfl ⟨fun v => retRows v (getSplit (waveAt s wv) sp).frame l, fun v => liveLanes v sp, ?_⟩
    (movesLike_doRet (by rw [openIssue_length]; omega) ..)
  simp only [hwave, hx, readLink_openIssue, hl, if_neg hkind, openIssue_win, if_neg hresident]
  exact served_clear (by rw [hwave, openIssue_win, hclear]) ..
end

/-! A return from the root frame: the wave ends (R107, R377). -/
theorem tbGet?_tbErase_ne {α : Type} {m : Tbl α} {j k : Nat} (h : j ≠ k) : tbGet? (tbErase m k) j = tbGet? m j := by
  induction m with
  | nil => rfl
  | cons e t ih =>
    obtain ⟨i, v⟩ := e
    by_cases hi : i = k
    · subst hi
      have hkeep : tbErase ((i, v) :: t) i = tbErase t i := by simp [tbErase]
      rw [hkeep, ih, tbGet?, if_neg (Ne.symm h)]
    · have hkeep : tbErase ((i, v) :: t) k = (i, v) :: tbErase t k := by simp [tbErase, hi]
      rw [hkeep, tbGet?, tbGet?, ih]

@[simp] theorem evInterrupt_waves (s : State) (isl : Nat) : (evInterrupt s isl).waves = s.waves := by
  unfold evInterrupt
  dsimp only
  split <;> rfl
@[simp] theorem placeEvent_waves (s : State) (isl : Nat) (r : EvRec) : (placeEvent s isl r).waves = s.waves := by
  unfold placeEvent
  dsimp only
  split
  · split
    · exact evInterrupt_waves ..
    · rfl
  · split <;> rfl
@[simp] theorem tellPoison_waves (s : State) (isl who : Nat) (e : Imprecise) : (tellPoison s isl who e).waves = s.waves := by
  unfold tellPoison
  split
  · rfl
  · exact placeEvent_waves ..
@[simp] theorem clearLines_waves (pa n : Nat) (s : State) : (clearLines pa n s).waves = s.waves :=
  foldl_keeps State.waves (f := fun s k => clearPoison s (pa / 128 + k)) (fun _ _ => rfl) _ _
@[simp] theorem putFaultSlot_waves (s : State) (isl : Nat) (bytes : List Nat) : (putFaultSlot s isl bytes).1.waves = s.waves := by
  unfold putFaultSlot
  dsimp only
  split
  · rw [clearLines_waves, homeWrite_waves]
    rfl
  · rfl
@[simp] theorem placeFaultQuiet_waves (s : State) (isl : Nat) (f : FaultInfo) : (placeFaultQuiet s isl f).1.waves = s.waves := by
  unfold placeFaultQuiet
  dsimp only
  split
  · exact putFaultSlot_waves ..
  · rfl

/-- The wave is not resident. -/
def Gone (wv : Nat) (s : State) : Prop := tbGet? s.waves wv = none

theorem Gone.of_waves {wv : Nat} {s t : State} (h : Gone wv s) (ht : t.waves = s.waves) : Gone wv t := by rw [Gone, ht, h]
theorem gone_retire_self (s : State) (wv : Nat) : Gone wv (retire s wv) := by
  unfold retire
  split
  · next h => exact h
  · exact tbGet?_tbErase_self

section
variable {wv : Nat} {s : State} (h : Gone wv s)
include h

theorem gone_foldl {α : Type} {f : State → α → State} {l : List α} (hf : ∀ t, Gone wv t → ∀ x ∈ l, Gone wv (f t x)) : Gone wv (l.foldl f s) :=
  List.foldlRecOn l f h hf
theorem gone_retire (k : Nat) : Gone wv (retire s k) := by
  by_cases hk : wv = k
  · exact hk ▸ gone_retire_self s wv
  · unfold retire
    split
    · exact h
    · exact (tbGet?_tbErase_ne hk).trans h
theorem gone_stopWave (k : Nat) : Gone wv (stopWave s k) := by
  refine gone_retire (gone_foldl h fun t ht e _ => ?_) k
  exact ht.of_waves (tellPoison_waves ..)
theorem gone_stopWaves (g : Nat) : Gone wv (stopWaves s g) := gone_foldl h fun _ ht k _ => gone_stopWave ht k
/-- R382: a barrier completes for live waves. -/
theorem gone_barrierCheck (g b : Nat) : Gone wv (barrierCheck s g b) := by
  unfold barrierCheck
  dsimp only
  split
  · refine gone_foldl (s := s) (f := fun s k => putWave s k (clearArrival b (waveAt s k))) h fun t ht k hk => ?_
    have hne : wv ≠ k := by
      rintro rfl
      have hnone : tbGet? s.waves wv = none := h
      simpa [hnone] using (List.mem_filter.1 hk).2
    exact (tbGet?_tbPut_ne hne).trans ht
  · exact h
theorem gone_faultEnd (g : Nat) (f : FaultInfo) : Gone wv (faultEnd s g f) := by
  unfold faultEnd
  dsimp only
  split
  · split
    · exact h
    · exact (gone_stopWaves h g).of_waves rfl
  · split
    · exact gone_foldl h fun _ ht k _ => gone_stopWaves ht k
    · refine gone_foldl (h.of_waves ?_) fun _ ht k _ => gone_stopWaves ht k
      rw [putLaunch_waves, placeEvent_waves, placeFaultQuiet_waves]
end

/-- R377: a wave that has ended is gone. -/
theorem gone_endWave (s : State) (wv : Nat) : Gone wv (endWave s wv) := by
  have hbar : Gone wv (barrierIds.foldl (fun t b => barrierCheck t (waveAt s wv).group b) (retire s wv)) :=
    gone_foldl (gone_retire_self s wv) fun _ ht b _ => gone_barrierCheck ht _ b
  unfold endWave
  dsimp only
  split
  · exact hbar
  · refine gone_faultEnd ?_ _ _
    refine gone_foldl hbar fun t ht e _ => ?_
    exact ht.of_waves (tellPoison_waves ..)

/-- The last split of a wave that exits leaves no live split. -/
theorem liveSplits_exitLanes {w : Wave} {sp : Nat} (hlen : sp < w.ctl.splits.length) (hlone : liveSplits w = [sp]) {m : Mask}
    (hm : (getSplit w sp).lanes &&& ~~~ m = 0) : liveSplits (exitLanes w sp m) = [] := by
  have hother : ¬ ((liveSplits w).any (· != sp)) = true := by simp [hlone]
  simp only [exitLanes, hm, ne_eq, not_true_eq_false, if_false, if_neg hother]
  refine List.filter_eq_nil_iff.2 fun i hi => ?_
  by_cases he : i = sp
  · rw [he, getSplit_putSplit_self]
    · exact Bool.false_ne_true
    · exact hlen
  · rw [getSplit_putSplit_ne _ _ _ _ he]
    intro hv
    have hlive : i ∈ liveSplits w := List.mem_filter.2 ⟨hi, hv⟩
    rw [hlone, List.mem_singleton] at hlive
    exact he hlive
theorem gone_recheck {s : State} {wv : Nat} {w : Wave} (h : liveSplits w = []) : Gone wv (recheck (putWave s wv w) wv) := by
  simp only [recheck, putWave_waves, tbGet?_tbPut_self, h, List.isEmpty_nil, if_true]
  exact gone_endWave ..
/-- What follows the effect of an instruction finds no wave. -/
theorem Gone.finish_moved {wv : Nat} {t : State} (h : Gone wv t) (sp : Nat) (y coll : Bool) : finish t wv sp y coll .moved = t := by
  have hnone : tbGet? t.waves wv = none := h
  simp only [finish, marker, settleSlots, hnone]

theorem exec_ret_root {s : State} {wv sp : Nat} {y : Bool} {w : Wave} {x : Split} (hw : waveAt s wv = w) (hx : getSplit w sp = x)
    (h : ready s wv sp { closes := true } = true) (hkind : (readLink w (linkPos x.frame)).kind = 0) (hlone : liveSplits w = [sp])
    (hlanes : x.lanes &&& ~~~ liveLanes w sp = 0) : ∃ t, exec (.ret y) s = .next t ∧ tbGet? t.waves wv = none := by
  subst hw hx
  obtain ⟨hbad, hcur, -, h4, hlen, -, -, -, hout, -⟩ := ready_iff.1 h
  have hlen' : sp < (waveAt s wv).ctl.splits.length := by omega
  have hwave : waveAt (entered s wv sp true) (seen s wv sp).wv = openIssue (waveAt s wv) sp true := entered_wave ..
  have hx : (seen s wv sp).split = getSplit (waveAt s wv) sp := rfl
  have hlone' : liveSplits (openIssue (waveAt s wv) sp true) = [sp] := by rw [liveSplits_openIssue hlen', hlone]
  have hgone : Gone wv (recheck (putWave (entered s wv sp true) wv
      (exitLanes (openIssue (waveAt s wv) sp true) sp (liveLanes (openIssue (waveAt s wv) sp true) sp))) wv) := by
    refine gone_recheck (liveSplits_exitLanes (by rwa [openIssue_length]) hlone' ?_)
    rw [liveLanes_openIssue hlen', openIssue_split hlen']
    exact hlanes
  have he : exec (.ret y) s = execRet y s := rfl
  refine ⟨_, ?_, hgone⟩
  rw [he, execRet, usageOf_cur hcur, issue_ready (ready_copied h _), begun_plain rfl, runBody_quiet hbad hout, hgone.finish_moved]
  simp only [hwave, hx, readLink_openIssue, if_pos hkind]
  rfl

/-! The link instructions (R108). -/
theorem exec_rdlink {s : State} {wv sp : Nat} {y : Bool} {q : SReg} {l : Link} (h : ready s wv sp (useSw q) = true)
    (hl : readLink (waveAt s wv) (linkPos (getSplit (waveAt s wv) sp).frame) = l) :
    exec (.rdlink y q) s = .next (ends s wv sp (useSw q) fun w => sset w q.val (BitVec.ofNat 64
      ((l.frame.nin + l.frame.nloc) % 2 ^ 7 * 2 ^ 57 + l.ret / 4 * 4 + (if l.kind = 0 then 2 else 0) + (if l.leftover.held then 1 else 0)))) := by
  have hroot : b2n (l.kind == 0) * 2 = if l.kind = 0 then 2 else 0 := by
    by_cases hk : l.kind = 0 <;> simp [hk, b2n]
  have hc : CompletesWith (.rdlink y q) (useSw q) _ := completesWith_of (fun _ => rfl) rfl (fun _ w => sset_ctl w ..) fun _ w => sset_out w ..
  rw [hc s wv sp h, ends, ends, ← hroot, ← hl]
  rfl
theorem exec_wrlink {s : State} {wv sp : Nat} {y : Bool} {q : SReg} {l : Link} (h : ready s wv sp (useSr q) = true)
    (hl : readLink (waveAt s wv) (linkPos (getSplit (waveAt s wv) sp).frame) = l) :
    exec (.wrlink y q) s = .next (ends s wv sp (useSr q) fun w =>
      let v := (sget (waveAt s wv) q.val).toNat % 2 ^ 57 / 4 * 4
      let row := ringRow w (linkPos (getSplit (waveAt s wv) sp).frame)
      if l.kind = 0 then w else rowSet (rowSet w row 0 (BitVec.ofNat 32 v)) row 1 (BitVec.ofNat 32 (v / 2 ^ 32))) := by
  have hc : CompletesWith (.wrlink y q) (useSr q) _ := completesWith_of (fun _ => rfl) rfl
    (fun _ w => by dsimp only; split <;> rfl) fun _ w => by dsimp only; split <;> rfl
  rw [hc s wv sp h, ends, ends, ← hl]
  rfl

theorem exec_wflush {s : State} {wv sp : Nat} {y : Bool} (h : ready s wv sp {} = true) (hc : (waveAt s wv).commits = 0) :
    exec (.wflush y) s = .next (ends s wv sp {} id) := by
  refine issue_idle h rfl (if_pos ?_)
  have hwave : waveAt (entered s wv sp false) (seen s wv sp).wv = openIssue (waveAt s wv) sp false := entered_wave ..
  have hcommits : (openIssue (waveAt s wv) sp false).commits = 0 := hc
  simp only [spillsDone, hwave, hcommits, beq_self_eq_true, Bool.true_or]

/-- Settles O16: instruction by instruction. -/
theorem windowInstructions : Obligations.WindowInstructions := by
  intro y nin nout nloc o a q s wv sp u w x f spent z back rec_ f' need l roomFor
  refine ⟨?frame, ?frameTraps, ?call, ?callTraps, ?callx, ?ret, ?root, ?wflush, ?rdlink, ?wrlink⟩
  case frame =>
    intro h hin hsum hfit hroom htop
    refine ⟨exec_frame h rfl rfl hin hsum hfit hroom htop, fun row lane => ?_⟩
    intro v hwf hl
    have hother : otherLanes z sp = otherLanes w sp := otherLanes_congr (fun i hi => getSplit_openIssue_ne w true hi) rfl
    have hrow := rowGet_resized (w := z) hwf hl s.free sp row f f'
    rw [hother] at hrow
    exact hrow
  case frameTraps => exact fun h hbad => exec_frame_traps h rfl rfl hbad
  case call => exact fun h htop hroom => exec_call rfl rfl h htop hroom
  case callTraps => exact fun h hbad => exec_call_traps rfl rfl h hbad
  case callx => exact fun h htop hroom hretry hnest t ht => exec_callx rfl rfl h htop hroom hretry hnest ht
  case ret => exact fun h hkind hclear hres => exec_ret rfl rfl h rfl hkind hclear hres
  case root => exact fun h hkind hlone hlanes => exec_ret_root rfl rfl h hkind hlone hlanes
  case wflush => exact fun hc h => exec_wflush h hc
  case rdlink => exact fun h => exec_rdlink h rfl
  case wrlink => exact fun h => exec_wrlink h rfl

end Sys2Proof.Machine
end

section
/-!
The window's spill engine (R109, R110, R113, R115): of the wave that it serves, a write to memory changes the count of its commits alone (R209),
and the events of the engine.
-/
namespace Sys2Proof.Machine

/-! Operations that leave every wave. -/
@[simp] theorem homeWriteLine_waves (s : State) (line : Nat) (bytes : Sparse Byte) : (homeWriteLine s line bytes).waves = s.waves :=
  foldl_keeps State.waves (fun _ _ => homePut_waves ..) _ _
@[simp] theorem writeBackHome_waves (s : State) (l : Line) : (writeBackHome s l).waves = s.waves := by
  unfold writeBackHome
  dsimp only
  split <;> exact homeWriteLine_waves ..
@[simp] theorem recallLine_waves (s : State) (line : Nat) : (recallLine s line).waves = s.waves :=
  (foldl_keeps State.waves (fun _ _ => foldl_keeps State.waves writeBackHome_waves _ _) _ _).trans
    (foldl_keeps State.waves (fun _ _ => foldl_keeps State.waves writeBackHome_waves _ _) _ _)
@[simp] theorem farPut_waves (s : State) (cl o : Nat) (bytes : List Nat) : (farPut s cl o bytes).waves = s.waves := by
  unfold farPut
  dsimp only
  split <;> rfl
@[simp] theorem spoilPools_waves (isl va n : Nat) (s : State) : (spoilPools isl va n s).waves = s.waves := by
  unfold spoilPools
  dsimp only
  split <;> rfl
@[simp] theorem markLeaf_waves (s : State) (addr pte access : Nat) : (markLeaf s addr pte access).waves = s.waves := by
  unfold markLeaf
  generalize (pte ||| 0x20 ||| if access = 1 ∨ access = 2 then 0x40 else 0) = want
  dsimp only
  split
  · rfl
  · exact homeWrite_waves ..
@[simp] theorem walk_waves (s : State) (core isl va access : Nat) (priv : Bool) : (walk s core isl va access priv).1.waves = s.waves := by
  unfold walk
  dsimp only
  repeat' split
  any_goals rfl
  all_goals exact markLeaf_waves ..
@[simp] theorem translate_waves (s : State) (core isl va access : Nat) (priv : Bool) :
    (translate s core isl va access priv).1.waves = s.waves := by
  unfold translate
  split
  · dsimp only
    split
    · rfl
    · split
      · exact walk_waves ..
      · rfl
  · exact walk_waves ..
@[simp] theorem resolveGlobal_waves (s : State) (core isl access : Nat) (priv : Bool) (n va : Nat) :
    (resolveGlobal s core isl access priv n va).1.waves = s.waves := by
  have ht := translate_waves s core isl va access priv
  unfold resolveGlobal
  split
  · rfl
  split
  · rfl
  split
  · rfl
  split
  all_goals next he => simpa only [he] using ht
@[simp] theorem locate_waves (q : Asker) (access : Nat) (l : List Seg) (s : State) : (locate q access l s).1.waves = s.waves := by
  induction l generalizing s with
  | nil => rfl
  | cons g t ih => exact (ih _).trans (resolveGlobal_waves ..)

/-! What an engine writes for a wave (R207 to R209). -/
/-- A write to a replicated line counts a commit of its wave. -/
theorem startCommit_wave {s : State} {wv : Nat} {w : Wave} (h : tbGet? s.waves wv = some w) (isl pa : Nat) (bytes : List Nat) :
    ∃ n, tbGet? (startCommit s wv isl pa bytes).waves wv = some { w with commits := n } := by
  unfold startCommit
  dsimp only
  split
  · exact ⟨w.commits, h⟩
  · refine ⟨w.commits + 1, ?_⟩
    simp only [onWave, putDev_waves, h, putWave_waves, tbGet?_tbPut_self]

theorem engineWrite_wave {s : State} {wv : Nat} {w : Wave} (h : tbGet? s.waves wv = some w) (q : Asker) (bytes : List Nat) (x : Seg × LaneRes) :
    ∃ n, tbGet? (engineWrite wv q bytes s x).waves wv = some { w with commits := n } := by
  have hkeep {t : State} (ht : t.waves = s.waves) : ∃ n, tbGet? t.waves wv = some { w with commits := n } := ⟨w.commits, by rw [ht, h]⟩
  have hhome (line pa : Nat) : (homeWrite (recallLine s line) pa bytes).waves = s.waves := by rw [homeWrite_waves, recallLine_waves]
  unfold engineWrite
  split
  case h_1 pa pte _ =>
    split
    · exact startCommit_wave (by rw [recallLine_waves, h]) ..
    · dsimp only
      split <;> exact hkeep (hhome ..)
  case h_2 => exact hkeep (farPut_waves ..)
  case h_3 => exact hkeep rfl
  case h_4 => exact hkeep rfl

theorem engineWriteAll_wave {wv : Nat} (q : Asker) (xs : List (Seg × LaneRes)) (bytes : List Nat) {s : State} {w : Wave}
    (h : tbGet? s.waves wv = some w) : ∃ n, tbGet? (engineWriteAll wv q xs bytes s).waves wv = some { w with commits := n } := by
  induction xs generalizing s bytes w with
  | nil => exact ⟨w.commits, h⟩
  | cons x t ih =>
    obtain ⟨_, hx⟩ := engineWrite_wave h q (bytes.take x.1.len) x
    obtain ⟨n, ht⟩ := ih (bytes.drop x.1.len) hx
    exact ⟨n, ht⟩

/-! A record in the backing store (R113). -/
@[simp] theorem length_leBytes (n x : Nat) : (leBytes n x).length = n := by
  induction n generalizing x with
  | zero => rfl
  | succ n ih => rw [leBytes, List.length_cons, ih]
/-- Pieces of one length, put together for each of `n` positions. -/
theorem length_flatMap_range {α : Type} (n k : Nat) {g : Nat → List α} (h : ∀ i, (g i).length = k) : ((List.range n).flatMap g).length = n * k := by
  simp only [List.length_flatMap, h, List.map_const', List.length_range, List.sum_replicate_nat]
theorem length_spillImage (w : Wave) (start ext : Nat) : (spillImage w start ext).length = ext * 4 * w.width + 4 := by
  have hrow (k : Nat) :
      ((List.range w.width).flatMap fun i => leBytes 4 (rowGet w (ringRow w (start + k)) i).toNat).length = w.width * 4 :=
    length_flatMap_range _ _ fun _ => length_leBytes ..
  rw [spillImage, List.length_append, length_flatMap_range _ _ hrow, length_leBytes, Nat.mul_assoc, Nat.mul_comm 4]

/-- R110: a spill that reaches memory: the record's rows leave the ring, and no register changes. -/
theorem waveAt_doSpill {s s1 : State} {wv e : Nat} {w : Wave} {r : FrameRec} {img : List Nat} {xs : List (Seg × LaneRes)} {q : Asker}
    (h : tbGet? s.waves wv = some w) (hi : spillImage w r.start (e - r.start) = img)
    (hq : spillAsker s wv ((w.win.bstore + w.win.bused) % 2 ^ 64) img.length = q)
    (hl : locate q 1 (segsOf ((w.win.bstore + w.win.bused) % 2 ^ 64) img.length) s = (s1, xs))
    (hb : firstBad xs = none) (hw : xs.any (segWait s1 q.core s1.nextId) = false) :
    ∃ commits, waveAt (doSpill s wv r e) wv = { w with commits := commits, win := { w.win with
      records := w.win.records.map fun x => if x.start = r.start then { x with rows := e - r.start } else x
      bused := w.win.bused + img.length, spills := (w.win.spills + 1) % 2 ^ 64, bottom := e } } := by
  have hwave : waveAt s wv = w := by simp [waveAt, tbGet, h]
  have h1 : tbGet? s1.waves wv = some w := by
    have := locate_waves q 1 (segsOf ((w.win.bstore + w.win.bused) % 2 ^ 64) img.length) s
    rw [hl] at this
    rw [this, h]
  obtain ⟨n, hn⟩ := engineWriteAll_wave q xs img h1
  refine ⟨n, ?_⟩
  simp only [doSpill, hwave, hi, hq, hl, hb, hw, Bool.false_eq_true, if_false]
  rw [waveAt_onWave (w := { w with commits := n })]
  · rfl
  · rw [spoilPools_waves]
    exact hn

/-! The events (R110). -/
section
variable {s : State} {wv : Nat} {w : Wave} {r : FrameRec} (h : tbGet? s.waves wv = some w) (ha : (groupAt s w.group).away = false)
include h ha

theorem runningWave_eq : runningWave s wv = some w := by simp [runningWave, h, ha]

section
variable {e : Nat} {rest : List (FrameRec × Nat)} (hc : w.win.service = .clear) (hr : residentRecs w = (r, e) :: rest) (hs : canSpill w = true)
  (hneed : wfree w < w.win.low ∨ wantsRoom w = true)
include hc hr hs hneed

theorem exec_windowSpill : exec (.windowSpill wv) s = .next (checkWindow (if r.live then doSpill s wv r e else putWave s wv
    { w with win := { w.win with records := w.win.records.filter fun x => x.start != r.start, bottom := e } }) wv) := by
  have hgo : (wantsRoom w ∨ (wfree w < w.win.low ∧ w.win.service = .clear)) ∧ canSpill w ∧ mayStart w .spill :=
    ⟨hneed.elim (fun hl => .inr ⟨hl, hc⟩) .inl, hs, by simp [mayStart, hc]⟩
  have he : exec (.windowSpill wv) s = execWindowSpill wv s := rfl
  simp only [he, execWindowSpill, runningWave_eq h ha, if_pos hgo, hr]
  by_cases hl : r.live = true
  · simp only [hl, if_true]
    rfl
  · simp only [hl, onWave, h]
    rfl
end

section
variable (hr : lastSpilled w = some r) (hl : r.live = true) (hf : canRefill w = true)
include hr hl hf

omit ha in
theorem refillLast_eq : refillLast s wv = doRefill s wv r := by
  have hwave : waveAt s wv = w := by simp [waveAt, tbGet, h]
  simp only [refillLast, hwave, hr, hl, hf, if_true]

theorem exec_windowRefill (hc : w.win.service = .clear) (hw : wantsRefill w = true) :
    exec (.windowRefill wv) s = .next (checkWindow (doRefill s wv r) wv) := by
  have hgo : wantsRefill w ∧ mayStart w .refill := ⟨hw, by simp [mayStart, hc]⟩
  have he : exec (.windowRefill wv) s = execWindowRefill wv s := rfl
  simp only [he, execWindowRefill, runningWave_eq h ha, if_pos hgo, refillLast_eq h hr hl hf]
  rfl

theorem exec_windowRefillAhead (hc : w.win.service = .clear) (hrahi : w.win.rahi ≠ 0) (hp : roomParks w = [])
    (hroom : r.rows + w.win.rahi ≤ wfree w) : exec (.windowRefillAhead wv) s = .next (doRefill s wv r) := by
  have hgo : w.win.rahi ≠ 0 ∧ (roomParks w).isEmpty ∧ w.win.service = .clear ∧ r.rows + w.win.rahi ≤ wfree w :=
    ⟨hrahi, by simp [hp], hc, hroom⟩
  have he : exec (.windowRefillAhead wv) s = execWindowRefillAhead wv s := rfl
  simp only [he, execWindowRefillAhead, runningWave_eq h ha, hr, if_pos hgo, refillLast_eq h hr hl hf]
  rfl
end
end

/-- Settles O18: event by event; a spill's write to memory leaves its wave but for the commits. -/
theorem windowEvents : Obligations.WindowEvents := by
  intro s wv w h ha hc
  refine ⟨fun r e rest hr hs hneed hl => ?_, fun r e rest hr hs hneed hl => ?_, fun r hr hw hl hf => exec_windowRefill h ha hr hl hf hc hw,
    fun r hr hrahi hp hroom hl hf => exec_windowRefillAhead h ha hr hl hf hc hrahi hp hroom, fun r e => ?_⟩
  · rw [exec_windowSpill h ha hc hr hs hneed, if_pos hl]
  · rw [exec_windowSpill h ha hc hr hs hneed, if_neg (by simp [hl])]
  · intro img q p hb hw
    obtain ⟨commits, hspill⟩ := waveAt_doSpill h rfl rfl rfl hb hw
    have hlen : img.length = (e - r.start) * 4 * w.width + 4 := length_spillImage ..
    dsimp only
    rw [hspill, ← hlen]
    exact ⟨rfl, rfl, rfl, rfl⟩

end Sys2Proof.Machine
end

section
/-!
The scalar instructions and VTOS (R134 to R137).
-/
namespace Sys2Proof.Machine

/-- An instruction over `onRegs` writes the scalar `g` where its body's value `f` is the same. -/
theorem writesScalar_of_eq {i : Instr} {y : Bool} {u : Usage} {d : SReg} {f g : Ctx → Scalar}
    (h : ∀ s, exec i s = issue s y u (onRegs fun c w => sset w d.val (f c))) (hc : u.collective = false) (hg : ∀ c, f c = g c) :
    WritesScalar i u d g :=
  (funext hg : f = g) ▸ writesScalar_of h hc

/-! R134: shift amounts of 64 and more. -/
theorem shiftAmount_small {q : Scalar} (h : q.toNat < 64) : shiftAmount q = q.toNat := by rw [shiftAmount]; omega
theorem shiftAmount_large {q : Scalar} (h : ¬ q.toNat < 64) : shiftAmount q = 64 := by rw [shiftAmount]; omega

theorem shiftLeft_shiftAmount (p q : Scalar) : p <<< shiftAmount q = if q.toNat < 64 then p <<< q.toNat else 0 := by
  split
  · next h => rw [shiftAmount_small h]
  · next h => rw [shiftAmount_large h, BitVec.shiftLeft_eq_zero (Nat.le_refl 64)]; rfl
theorem ushiftRight_shiftAmount (p q : Scalar) : p >>> shiftAmount q = if q.toNat < 64 then p >>> q.toNat else 0 := by
  split
  · next h => rw [shiftAmount_small h]
  · next h => rw [shiftAmount_large h, BitVec.ushiftRight_eq_zero (Nat.le_refl 64)]; rfl
theorem sshiftRight_sixtyFour (p : Scalar) : p.sshiftRight 64 = if p.getLsbD 63 then BitVec.allOnes 64 else 0 := by
  refine BitVec.eq_of_getLsbD_eq fun j hj => ?_
  have hmsb : p.msb = p.getLsbD 63 := BitVec.msb_eq_getLsbD_last p
  rw [BitVec.getLsbD_sshiftRight, hmsb]
  have hin : decide (64 ≤ j) = false := decide_eq_false (by omega)
  cases p.getLsbD 63 with
  | false => simp [hj]
  | true => simp [hin, hj, -BitVec.reduceAllOnes]
theorem sshiftRight_shiftAmount (p q : Scalar) : p.sshiftRight (shiftAmount q) =
    if q.toNat < 64 then p.sshiftRight q.toNat else if p.getLsbD 63 then BitVec.allOnes 64 else 0 := by
  split
  · next h => rw [shiftAmount_small h]
  · next h => rw [shiftAmount_large h, sshiftRight_sixtyFour]

/-- R136: SMOVK moves the low 48 bits up and takes the immediate below them. -/
theorem shiftLeft_sixteen_add (v : Scalar) (i : BitVec 16) : (v <<< (16 : Nat)) + i.zeroExtend 64 = v.extractLsb' 0 48 ++ i := by
  have hhigh : v <<< (16 : Nat) = v.extractLsb' 0 48 ++ 0#16 := BitVec.shiftLeft_eq_concat_of_lt (by decide)
  have hlow : i.zeroExtend 64 = 0#48 ++ i := BitVec.setWidth_eq_append (by decide)
  rw [hhigh, hlow, BitVec.add_comm, BitVec.zero_append_add_append_zero]

theorem bool64_decide (P : Prop) [Decidable P] : bool64 (decide P) = if P then 1 else 0 := by simp [bool64]

/-! R137: the lane that VTOS reads. -/
theorem maskList_ne_nil {m : Mask} (h : m ≠ 0) : maskList m ≠ [] := by
  intro hnil
  refine h (BitVec.eq_of_getLsbD_eq fun i _ => ?_)
  rw [Bool.eq_iff_iff]
  have : mbit m i ≠ true := fun hi => List.not_mem_nil (hnil ▸ mem_maskList.2 hi)
  simpa [mbit] using this
theorem pairwise_maskList (m : Mask) : (maskList m).Pairwise (· < ·) := List.pairwise_lt_range.filter _
/-- In a mask that is not empty, the lowest lane is set, and none below it. -/
theorem lowestLane_spec {m : Mask} (h : m ≠ 0) : mbit m (lowestLane m) = true ∧ ∀ j, j < lowestLane m → mbit m j = false := by
  obtain ⟨l, t, hm⟩ := List.exists_cons_of_ne_nil (maskList_ne_nil h)
  have hlow : lowestLane m = l := by rw [lowestLane, hm, List.headD_cons]
  obtain ⟨hfirst, -⟩ := List.pairwise_cons.1 (hm ▸ pairwise_maskList m)
  refine ⟨mem_maskList.1 (by rw [hm, hlow]; exact List.mem_cons_self), fun j hj => ?_⟩
  refine Bool.eq_false_iff.2 fun hset => ?_
  have hmem : j ∈ l :: t := hm ▸ mem_maskList.2 hset
  rcases List.mem_cons.1 hmem with rfl | htail
  · omega
  · have := hfirst j htail
    omega

theorem writesScalar_vtos (y : Bool) (d : SReg) (r : VReg) :
    WritesScalar (.vtos y d r) (useSV d r) d fun c => (vec c r (lowestLane c.act)).zeroExtend 64 :=
  writesScalar_of (fun _ => rfl) rfl

/-- Settles O5: instruction by instruction. -/
theorem scalarInstructions : Obligations.ScalarInstructions := by
  intro y d a b i k r p q
  refine ⟨?sadd, ?ssub, ?smul, ?sand, ?sor, ?sxor, ?sshl, ?sshr, ?ssra, ?smov, ?smovi, ?smovk, ?saddi, ?sseq, ?sslt, ?ssltu, ?vtos⟩
  case sadd | ssub | smul | sand | sor | sxor | smov | smovi | saddi => exact writesScalar_of (fun _ => rfl) rfl
  case sshl => exact writesScalar_of_eq (fun _ => rfl) rfl fun _ => shiftLeft_shiftAmount ..
  case sshr => exact writesScalar_of_eq (fun _ => rfl) rfl fun _ => ushiftRight_shiftAmount ..
  case ssra => exact writesScalar_of_eq (fun _ => rfl) rfl fun _ => sshiftRight_shiftAmount ..
  case smovk => exact writesScalar_of_eq (fun _ => rfl) rfl fun _ => shiftLeft_sixteen_add ..
  case sseq | sslt | ssltu => exact writesScalar_of_eq (fun _ => rfl) rfl fun _ => bool64_decide _
  case vtos =>
    intro s wv sp h
    obtain ⟨-, -, -, -, -, -, -, -, -, -, -, -, hact, -⟩ := ready_iff.1 h
    have hne : actOf (waveAt s wv) sp ≠ 0 := hact.resolve_left Bool.false_ne_true
    obtain ⟨hset, hlow⟩ := lowestLane_spec hne
    exact ⟨_, hset, hlow, writesScalar_vtos y d r s wv sp h⟩

end Sys2Proof.Machine
end

section
/-!
The comparisons into a mask register (R132, R143): every element compares so, or some element does.
-/
namespace Sys2Proof.Machine

section
variable {i : Instr} {y : Bool} {u : Usage} {d : MReg} {n : Ctx → Nat} {test : Ctx → Nat → Nat → Bool} {P : Ctx → Nat → Nat → Prop}
  (hc : u.collective = false) (ht : ∀ c l e, test c l e = true ↔ P c l e)
include hc ht

/-- A bit that says that every one of `n` elements passes. -/
theorem writesMaskBits_all [∀ c l, Decidable (∀ e, e < n c → P c l e)]
    (h : ∀ s, exec i s = issue s y u (onRegs fun c w => writeMaskBits c d (fun l => (List.range (n c)).all (test c l)) w)) :
    WritesMaskBits i u d fun c l => decide (∀ e, e < n c → P c l e) :=
  writesMaskBits_of h hc fun c l => by
    rw [Bool.eq_iff_iff, List.all_eq_true, decide_eq_true_iff]
    simp only [List.mem_range, ht]
/-- A bit that says that some one of `n` elements passes. -/
theorem writesMaskBits_any [∀ c l, Decidable (∃ e, e < n c ∧ P c l e)]
    (h : ∀ s, exec i s = issue s y u (onRegs fun c w => writeMaskBits c d (fun l => (List.range (n c)).any (test c l)) w)) :
    WritesMaskBits i u d fun c l => decide (∃ e, e < n c ∧ P c l e) :=
  writesMaskBits_of h hc fun c l => by
    rw [Bool.eq_iff_iff, List.any_eq_true, decide_eq_true_iff]
    simp only [List.mem_range, ht]
end

/-- Settles O4: comparison by comparison. -/
theorem comparisons : Obligations.Comparisons := by
  intro y d a b et x v ft p q
  have hb := useMVB_collective a b
  refine ⟨?icmpeq, ?icmpne, ?icmplt, ?icmple, ?fcmpeq, ?fcmplt, ?fcmple, ?fcmpun⟩
  case icmpeq | icmplt | icmple => exact writesMaskBits_all hb (fun _ _ _ => decide_eq_true_iff) fun _ => rfl
  case icmpne => exact writesMaskBits_any hb (fun _ _ _ => decide_eq_true_iff) fun _ => rfl
  case fcmpeq | fcmplt | fcmple => exact writesMaskBits_all hb (fun _ _ _ => Iff.rfl) fun _ => rfl
  case fcmpun => exact writesMaskBits_any hb (fun _ _ _ => Iff.rfl) fun _ => rfl

end Sys2Proof.Machine
end

section
/-!
The instructions that act on the whole 32-bit value (R127, R129, R131, R133), and the bits of a bit field.
-/
namespace Sys2Proof.Machine

/-! Bit fields (R129). -/
theorem bitsOf_testBit (x lo n j : Nat) : (bitsOf x lo n).testBit j = (decide (j < n) && x.testBit (lo + j)) := by
  rw [bitsOf, Nat.testBit_mod_two_pow, Nat.testBit_div_two_pow, Nat.add_comm]
/-- The bits of `n` bits taken from `lo`. -/
theorem bitField_bit (a : Lane) (lo : Nat) {n j : Nat} (hj : j < n) :
    (BitVec.ofNat n (bitsOf a.toNat lo n)).getLsbD j = a.getLsbD (lo + j) := by
  rw [BitVec.getLsbD_ofNat, bitsOf_testBit, decide_eq_true hj, Bool.true_and, Bool.true_and, BitVec.testBit_toNat]
theorem signedOf_eq_toInt {n : Nat} (hn : 0 < n) (x : Nat) : signedOf n x = (BitVec.ofNat n x).toInt := by
  have htwo : 2 ^ n = 2 * 2 ^ (n - 1) := by rw [← Nat.pow_succ']; congr 1; omega
  rw [signedOf, BitVec.toInt_eq_toNat_cond, BitVec.toNat_ofNat]
  split <;> split <;> omega

theorem bfPos_eq (b : Lane) : bfPos b = b.toNat % 32 := congrArg (· % 32) (Nat.div_one _)
theorem bfLen_eq (b : Lane) : bfLen b = min (b.toNat / 256 % 32) (32 - bfPos b) := rfl

theorem bfx_empty (sgn : Bool) (a : Lane) {b : Lane} (h : bfLen b = 0) : bfx sgn a b = 0 := if_pos h
theorem bfx_unsigned (a : Lane) {b : Lane} (h : bfLen b ≠ 0) : bfx false a b = BitVec.ofNat 32 (bitsOf a.toNat (bfPos b) (bfLen b)) :=
  if_neg h
theorem bfx_signed (a : Lane) {b : Lane} (h : bfLen b ≠ 0) :
    bfx true a b = (BitVec.ofNat (bfLen b) (bitsOf a.toNat (bfPos b) (bfLen b))).signExtend 32 :=
  (if_neg h).trans (congrArg (BitVec.ofInt 32) (signedOf_eq_toInt (Nat.pos_of_ne_zero h) _))

/-- BFX without a sign: the field, and zeros above it. -/
theorem bfx_unsigned_bit (a b : Lane) {j : Nat} (hj : j < 32) :
    (bfx false a b).getLsbD j = (decide (j < bfLen b) && a.getLsbD (bfPos b + j)) := by
  by_cases h : bfLen b = 0
  · simp [bfx_empty, h]
  · rw [bfx_unsigned a h, BitVec.getLsbD_ofNat, bitsOf_testBit, decide_eq_true hj, Bool.true_and, BitVec.testBit_toNat]
/-- BFX with a sign: the field, and its highest bit above it. -/
theorem bfx_signed_bit (a b : Lane) {j : Nat} (hj : j < 32) :
    (bfx true a b).getLsbD j = (decide (0 < bfLen b) && a.getLsbD (bfPos b + min j (bfLen b - 1))) := by
  by_cases h : bfLen b = 0
  · simp [bfx_empty, h]
  · have hpos : 0 < bfLen b := Nat.pos_of_ne_zero h
    rw [bfx_signed a h, BitVec.getLsbD_signExtend, BitVec.msb_eq_getLsbD_last, decide_eq_true hj, decide_eq_true hpos]
    split
    · next hin =>
      have hmin : min j (bfLen b - 1) = j := by omega
      rw [bitField_bit a _ hin, hmin]
    · next hout =>
      have hmin : min j (bfLen b - 1) = bfLen b - 1 := by omega
      rw [bitField_bit a _ (by omega), hmin]

/-- The mask of `len` bits from `pos`. -/
theorem fieldMask_bit (pos len : Nat) {j : Nat} (hj : j < 32) :
    (BitVec.ofNat 32 ((2 ^ len - 1) * 2 ^ pos)).getLsbD j = decide (pos ≤ j ∧ j < pos + len) := by
  rw [BitVec.getLsbD_ofNat, Nat.testBit_mul_two_pow, Nat.testBit_two_pow_sub_one, decide_eq_true hj, Bool.true_and, ← Bool.decide_and]
  exact decide_eq_decide.2 (by omega)
/-- BFI: the low bits of `a` in the field, and `d` around it. -/
theorem bfi_bit (d a b : Lane) {j : Nat} (hj : j < 32) :
    (bfi d a b).getLsbD j = if bfPos b ≤ j ∧ j < bfPos b + bfLen b then a.getLsbD (j - bfPos b) else d.getLsbD j := by
  simp only [bfi, BitVec.getLsbD_or, BitVec.getLsbD_and, BitVec.getLsbD_not, BitVec.getLsbD_shiftLeft, fieldMask_bit _ _ hj]
  split
  · next h => simp [h, hj]
  · next h => simp [h, hj]

/-! The instructions. -/
/-- MOVIH keeps the low half. -/
theorem writesLanes_movih (y : Bool) (d : VReg) (k : BitVec 16) :
    WritesLanes (.movih y d k) (useDVV d d) d (fun c => c.wm) fun c l => k ++ (vec c d l).extractLsb' 0 16 := by
  simp only [← mode_high_half]
  exact writesLanes_of (fun _ => rfl) rfl

/-- Settles O2: instruction by instruction, and the bits of BFI and BFX. -/
theorem wholeValueInstructions : Obligations.WholeValueInstructions := by
  refine ⟨?instructions, ?bits⟩
  case instructions =>
    intro y d a b i k wm imm
    have hb := useVVB_collective d a b
    refine ⟨?and, ?or, ?xor, ?andi, ?ori, ?xori, ?bfx, ?bfi, ?sel, ?mov, ?movi, ?movih⟩
    case and | or | xor | bfx | sel => exact writesLanes_of (fun _ => rfl) hb
    case bfi => exact writesLanes_of (fun _ => rfl) (useAcc_collective d a b)
    case andi | ori | xori | mov | movi => exact writesLanes_of (fun _ => rfl) rfl
    case movih => exact writesLanes_movih y d k
  case bits =>
    intro d a b j hj pos len
    have hpos : bfPos b = pos := bfPos_eq b
    have hlen : bfLen b = len := (bfLen_eq b).trans (by rw [hpos])
    rw [← hpos, ← hlen]
    exact ⟨bfi_bit d a b hj, bfx_unsigned_bit a b hj, bfx_signed_bit a b hj⟩

end Sys2Proof.Machine
end

section
/-!
Shifts (R128) and bit counts (R130), element by element.
-/
namespace Sys2Proof.Machine

/-! A left shift by the width or more (R128). -/
theorem etHi_lt_two_pow (et : Nat) : etHi et < (2 ^ etWidth et : Nat) := by
  have hle : 2 ^ (etWidth et - 1) ≤ 2 ^ etWidth et := Nat.pow_le_pow_right (by decide) (Nat.sub_le ..)
  unfold etHi
  split <;> omega
theorem neg_two_pow_lt_etLo (et : Nat) : -(2 ^ etWidth et : Nat) < etLo et := by
  have hlt : 2 ^ (etWidth et - 1) < 2 ^ etWidth et := Nat.pow_lt_pow_right (by decide) (Nat.sub_lt (etWidth_pos et) (by decide))
  have hpos := two_pow_pos (etWidth et)
  unfold etLo
  split <;> omega
theorem typedVal_zero (et : Nat) : typedVal et 0 = 0 := by
  have hpos := Nat.two_pow_pos (etWidth et - 1)
  simp [typedVal, signedOf, hpos]
theorem typedVal_ne_zero {et x : Nat} (hx : x < 2 ^ etWidth et) (h : x ≠ 0) : typedVal et x ≠ 0 := by
  have hmod : x % 2 ^ etWidth et = x := Nat.mod_eq_of_lt hx
  unfold typedVal signedOf
  repeat' split
  all_goals omega

/-- A value other than zero, shifted left by the width or more, is beyond the end of the range on its side. -/
theorem clampTo_shifted {et k : Nat} {v : Int} (hv : v ≠ 0) (hk : etWidth et ≤ k) :
    clampTo (etLo et) (etHi et) (v * (2 ^ k : Nat)) = if 0 < v then (etHi et, true) else (etLo et, true) := by
  have hpow : ((2 ^ etWidth et : Nat) : Int) ≤ (2 ^ k : Nat) := Int.ofNat_le.2 (Nat.pow_le_pow_right (by decide) hk)
  have hpos := two_pow_pos k
  have hhi := etHi_lt_two_pow et
  have hlo := neg_two_pow_lt_etLo et
  split
  · next hv =>
    have hge : 1 * ((2 ^ k : Nat) : Int) ≤ v * (2 ^ k : Nat) := Int.mul_le_mul_of_nonneg_right hv (Int.le_of_lt hpos)
    exact clampTo_above (etLo_le_etHi et) (by omega)
  · next hneg =>
    have hle : v * (2 ^ k : Nat) ≤ -1 * (2 ^ k : Nat) := Int.mul_le_mul_of_nonneg_right (by omega) (Int.le_of_lt hpos)
    exact clampTo_below (by omega)
/-- So every such count clamps to the same element. -/
theorem intElem_clamps_shifted {et j k : Nat} {v : Int} (hv : v ≠ 0) (hj : etWidth et ≤ j) (hk : etWidth et ≤ k) :
    intElem et true (v * (2 ^ j : Nat)) = intElem et true (v * (2 ^ k : Nat)) := by
  rw [intElem_clamps, intElem_clamps, clampTo_shifted hv hj, clampTo_shifted hv hk]
theorem intElem_zero (et : Nat) (sat : Bool) : intElem et sat 0 = (0, 0) := by
  cases sat with
  | false => rw [intElem_wraps, wrapTo_zero]
  | true =>
    rw [intElem_clamps, clampTo_inside (etLo_nonpos et) (etHi_nonneg et), wrapTo_zero]
    rfl

/-! One element shifted (R128). -/
theorem shiftElem_left {et x : Nat} (sat : Bool) (n : Nat) (hx : x < 2 ^ etWidth et) : shiftElem .left et sat x n =
    if sat then intElem et true (typedVal et x * (2 ^ n : Nat))
    else (if n < etWidth et then wrapTo (etWidth et) (typedVal et x * (2 ^ n : Nat)) else 0, 0) := by
  have hmodel : shiftElem .left et sat x n = if n < etWidth et then intElem et sat (typedVal et x * (2 ^ n : Nat)) else
      if x = 0 then (0, 0) else intElem et sat (typedVal et x * (2 ^ etWidth et : Nat)) := rfl
  rw [hmodel]
  by_cases hn : n < etWidth et
  · rw [if_pos hn, if_pos hn]
    cases sat <;> rfl
  · rw [if_neg hn, if_neg hn]
    by_cases h0 : x = 0
    · subst h0
      rw [if_pos rfl, typedVal_zero, Int.zero_mul, intElem_zero, ite_self]
    · rw [if_neg h0]
      cases sat with
      | false =>
        rw [intElem_wraps, wrapTo, Int.mul_emod_left]
        rfl
      | true => exact intElem_clamps_shifted (typedVal_ne_zero hx h0) (Nat.le_refl _) (Nat.le_of_not_lt hn)
theorem shiftElem_arith (et : Nat) (sat : Bool) (x n : Nat) : shiftElem .arith et sat x n =
    (wrapTo (etWidth et) (if n < etWidth et then signedOf (etWidth et) x / (2 ^ n : Nat) else if signedOf (etWidth et) x < 0 then -1 else 0), 0) := by
  obtain ⟨hlo, hhi⟩ := signedOf_bounds (etWidth_pos et) x
  have hpos := two_pow_pos (etWidth et - 1)
  have hmodel : shiftElem .arith et sat x n =
      (wrapTo (etWidth et) (signedOf (etWidth et) x / (2 ^ min n (etWidth et - 1) : Nat)), 0) := rfl
  rw [hmodel]
  congr 2
  split
  · next hn => rw [show min n (etWidth et - 1) = n by omega]
  · next hn =>
    rw [show min n (etWidth et - 1) = etWidth et - 1 by omega]
    split
    · next hneg => exact Int.ediv_eq_neg_one_of_neg_of_le hneg (by omega)
    · next hnonneg => exact Int.ediv_eq_zero_of_lt (by omega) hhi

/-- A shift body writes `r`, the shift of each element by its count. -/
theorem writesElements_shift {i : Instr} {y : Bool} {u : Usage} {d a : VReg} {op : ShiftOp} {count : Ctx → Nat → Nat → Nat}
    {r : Ctx → Nat → Nat → Nat × Flags} (hc : u.collective = false) (h : ∀ s, exec i s = issue s y u (shiftBody op d a count))
    (hr : ∀ c l e, shiftElem op (intType c.split.mode) (modeSAT c.split.mode)
      (elemAt (etWidth (intType c.split.mode)) (vec c a l).toNat e) (count c l e) = r c l e) :
    WritesElements i u d (fun c => c.wm) (fun mode => etWidth (intType mode)) r :=
  writesElements_of (fun _ => etWidth_div _) hc h fun c l e => by rw [← hr]; exact ⟨rfl, rfl⟩

/-! Bits counted and reversed (R130). -/
theorem bitsOf_one (x k : Nat) : bitsOf x k 1 = (x.testBit k).toNat := (Nat.toNat_testBit x k).symm

theorem popcount_eq_length (x n : Nat) : popcount x n = ((List.range n).filter fun k => x.testBit k).length := by
  induction n with
  | zero => rfl
  | succ n ih =>
    rw [popcount, ih, bitsOf_one, List.range_succ, List.filter_append, List.length_append]
    cases h : x.testBit n <;> simp [h]

theorem clz_zero (n : Nat) : clz n 0 = n := rfl
/-- Below the zeros of an element other than zero stands its highest bit. -/
theorem sub_clz {n x : Nat} (h : x ≠ 0) (hx : x < 2 ^ n) : clz n x ≤ n ∧ n - clz n x = Nat.log2 x + 1 := by
  have hlog : Nat.log2 x < n := (Nat.log2_lt h).2 hx
  rw [clz, if_neg h]
  omega
theorem clz_spec {n x : Nat} (hx : x < 2 ^ n) :
    clz n x ≤ n ∧ x < 2 ^ (n - clz n x) ∧ (x ≠ 0 → 2 ^ (n - clz n x) ≤ 2 * x) := by
  by_cases h : x = 0
  · subst h
    simp [clz_zero]
  · obtain ⟨hle, hlen⟩ := sub_clz h hx
    rw [hlen]
    refine ⟨hle, Nat.lt_log2_self, fun _ => ?_⟩
    rw [Nat.pow_succ, Nat.mul_comm]
    exact Nat.mul_le_mul_left 2 (Nat.log2_self_le h)

/-- The reversal of the low `n` bits stands in the high `n` of `w` bits. -/
theorem brev_high (w x : Nat) {n : Nat} (hn : n ≤ w) :
    2 ^ (w - n) ∣ brev w x n ∧ ∀ k, k < n → (brev w x n).testBit (w - 1 - k) = x.testBit k := by
  induction n with
  | zero => exact ⟨Nat.dvd_zero _, fun k hk => absurd hk (Nat.not_lt_zero k)⟩
  | succ n ih =>
    obtain ⟨⟨q, hq⟩, hbits⟩ := ih (by omega)
    have hexp : w - n = w - 1 - n + 1 := by omega
    have hsucc : w - (n + 1) = w - 1 - n := by omega
    have hnew : (x.testBit n).toNat * 2 ^ (w - 1 - n) < 2 ^ (w - n) := by
      have := Bool.toNat_le (x.testBit n)
      rw [hexp, Nat.pow_succ, Nat.mul_comm]
      exact Nat.mul_lt_mul_of_pos_left (by omega) (Nat.two_pow_pos _)
    have hrev : brev w x (n + 1) = 2 ^ (w - n) * q + (x.testBit n).toNat * 2 ^ (w - 1 - n) := by rw [brev, hq, bitsOf_one]
    refine ⟨?_, fun k hk => ?_⟩
    · rw [hrev, hsucc, hexp, Nat.pow_succ, Nat.mul_assoc]
      exact Nat.dvd_add (Nat.dvd_mul_right ..) (Nat.dvd_mul_left ..)
    · rw [hrev, Nat.testBit_two_pow_mul_add _ hnew]
      by_cases he : k = n
      · subst he
        rw [if_pos (by omega), Nat.testBit_mul_two_pow]
        cases x.testBit k <;> simp
      · have hge : w - n ≤ w - 1 - k := by omega
        rw [if_neg (by omega), ← hbits k (by omega), hq, Nat.testBit_two_pow_mul, decide_eq_true hge, Bool.true_and]
theorem brev_testBit {n k : Nat} (x : Nat) (hk : k < n) : (brev n x n).testBit (n - 1 - k) = x.testBit k :=
  (brev_high n x (Nat.le_refl n)).2 k hk

/-- An element body writes `f` of the width and of each element's bits, and raises no flag. -/
theorem writesElements_elem {i : Instr} {y : Bool} {u : Usage} {d a : VReg} (f : Nat → Nat → Nat)
    (hc : u.collective = false) (h : ∀ s, exec i s = issue s y u (elemBody d a f)) :
    WritesElements i u d (fun c => c.wm) (fun mode => etWidth (intType mode)) fun c l e =>
      (f (etWidth (intType c.split.mode)) (elemAt (etWidth (intType c.split.mode)) (vec c a l).toNat e), 0) :=
  writesElements_quiet (fun _ => etWidth_div _) hc h fun _ _ _ => ⟨rfl, rfl⟩

/-- Settles O3: the shifts by their elements, and the counts by the bits of an element. -/
theorem shiftAndBitCount : Obligations.ShiftAndBitCount := by
  refine ⟨?shifts, ?counts⟩
  case shifts =>
    intro y d a b k wm w bits count left right fill
    have hb := useVVB_collective d a b
    refine ⟨?shl, ?shli, ?shr, ?shri, ?sra, ?srai⟩
    case shl => exact writesElements_shift hb (fun _ => rfl) fun _ _ _ => shiftElem_left _ _ (elemAt_lt ..)
    case shli => exact writesElements_shift rfl (fun _ => rfl) fun _ _ _ => shiftElem_left _ _ (elemAt_lt ..)
    case shr => exact writesElements_shift hb (fun _ => rfl) fun _ _ _ => rfl
    case shri => exact writesElements_shift rfl (fun _ => rfl) fun _ _ _ => rfl
    case sra => exact writesElements_shift hb (fun _ => rfl) fun _ _ _ => shiftElem_arith ..
    case srai => exact writesElements_shift rfl (fun _ => rfl) fun _ _ _ => shiftElem_arith ..
  case counts =>
    intro y d a wm w bits
    refine ⟨fun n x => popcount x n, clz, fun n x => brev n x n, ?popc, ?clz, ?brev, ?results⟩
    case popc => exact writesElements_elem (fun n x => popcount x n) rfl fun _ => rfl
    case clz => exact writesElements_elem clz rfl fun _ => rfl
    case brev => exact writesElements_elem (fun n x => brev n x n) rfl fun _ => rfl
    case results =>
      intro n x _ hx
      obtain ⟨hle, hlt, hge⟩ := clz_spec hx
      exact ⟨popcount_eq_length x n, hle, hlt, hge, clz_zero n, fun k hk => brev_testBit x hk⟩

end Sys2Proof.Machine
end

section
/-!
Conversions (R145), dot products (R149, R150), QSCALE (R151), and PACK and UNPK (R152).
-/
namespace Sys2Proof.Machine

/-! The lanes that a flagged result writes (R69, R90, R125). -/
/-- The union of the flags of the lanes written. -/
def laneFlags (c : Ctx) (r : Nat → Nat × Flags) : Flags :=
  ((maskList c.wm).filter (· < c.view.width)).foldl (fun a l => a ||| (r l).2) 0
theorem laneFlags_bit (c : Ctx) (r : Nat → Nat × Flags) (b : Nat) :
    (laneFlags c r).getLsbD b = true ↔ ∃ l, mbit c.wm l = true ∧ l < c.view.width ∧ (r l).2.getLsbD b = true := by
  simp only [laneFlags, foldl_or_getLsbD, flags_zero_getLsbD, Bool.false_eq_true, false_or, List.mem_filter, mem_maskList, decide_eq_true_eq,
    and_assoc]
/-- Of packed results: the union of the flags of their elements. -/
theorem laneFlags_packElems (c : Ctx) {w n : Nat} (f : Nat → Nat → Nat × Flags) (b : Nat) :
    (laneFlags c fun l => packElems w n (f l)).getLsbD b = true ↔
      ∃ l e, mbit c.wm l = true ∧ l < c.view.width ∧ e < n ∧ (f l e).2.getLsbD b = true := by
  simp only [laneFlags_bit, packElems_flags, exists_and_left]
/-- In one ready state: the row written and the flags raised. -/
theorem issue_writeFlagged {s : State} {wv sp : Nat} {y : Bool} {u : Usage} {d : VReg} {r : Ctx → Nat → Nat × Flags} {c : Ctx}
    (hr : ready s wv sp u = true) (hu : u.collective = false) (hc : seen s wv sp = c) :
    issue s y u (onRegs fun c w => writeFlagged c d (r c) w) =
      .next (ends s wv sp u fun w =>
        raise (writeRow w (rowOf w c.split.frame d.val) c.wm fun l => BitVec.ofNat 32 (r c l).1) (laneFlags c (r c))) := by
  have hwidth : (openIssue (waveAt s wv) sp u.closes).width = c.view.width := by rw [openIssue_width, ← hc]; rfl
  rw [issue_onRegs hr hu (fun w => writeRow_ctl ..) (fun w => writeRow_out ..), hc]
  simp only [writeFlagged, hwidth]
  rfl

/-! A lane written as one value of 32 bits. -/
theorem writeFlagged_whole (c : Ctx) (d : VReg) (r : Nat → Nat × Flags) (w : Wave) :
    writeFlagged c d (fun l => packElems 32 (32 / 32) fun _ => r l) w = writeFlagged c d r w := by
  have hbits (l : Nat) : BitVec.ofNat 32 (packElems 32 (32 / 32) fun _ => r l).1 = BitVec.ofNat 32 (r l).1 :=
    BitVec.eq_of_toNat_eq (by simp [packElems, elemsJoin])
  have hflags (l : Nat) : (packElems 32 (32 / 32) fun _ => r l).2 = (r l).2 := BitVec.zero_or
  simp only [writeFlagged, hbits, hflags]
/-- The result of a lane is its only element. -/
theorem writesElements_whole {i : Instr} {y : Bool} {u : Usage} {d : VReg} {r f : Ctx → Nat → Nat × Flags} (hu : u.collective = false)
    (h : ∀ s, exec i s = issue s y u (onRegs fun c w => writeFlagged c d (r c) w)) (hf : ∀ c l, r c l = f c l) :
    WritesElements i u d (fun c => c.wm) (fun _ => 32) fun c l _ => f c l := by
  refine writesElements_of (y := y) (g := fun c l _ => r c l) (fun _ => by decide) hu (fun s => ?_) fun c l _ => by rw [hf]; exact ⟨rfl, rfl⟩
  simp only [h, writeFlagged_whole]

/-! One element of a value replaced (R70). -/
theorem elemsJoin_congr (w : Nat) {f g : Nat → Nat} {n : Nat} (h : ∀ e, e < n → f e = g e) : elemsJoin w f n = elemsJoin w g n := by
  induction n with
  | zero => rfl
  | succ n ih => rw [elemsJoin, elemsJoin, ih fun e he => h e (by omega), h n (by omega)]
/-- A value is made of its elements. -/
theorem elemsJoin_elemAt (w x n : Nat) : elemsJoin w (elemAt w x) n = x % 2 ^ (w * n) := by
  induction n with
  | zero => rw [elemsJoin, Nat.mul_zero, Nat.pow_zero, Nat.mod_one]
  | succ n ih => rw [elemsJoin, ih, elemAt, Nat.mod_mod, Nat.mul_succ, Nat.pow_add, Nat.mod_mul, Nat.mul_comm (2 ^ (w * n))]
/-- Another element `j` changes the value by the difference of the two at their place. -/
theorem elemsJoin_replace (w : Nat) (f : Nat → Nat) (v : Nat) {j n : Nat} (hj : j < n) :
    elemsJoin w (fun e => if e = j then v else f e) n + f j % 2 ^ w * 2 ^ (w * j) = elemsJoin w f n + v % 2 ^ w * 2 ^ (w * j) := by
  induction n with
  | zero => omega
  | succ n ih =>
    simp only [elemsJoin]
    by_cases he : n = j
    · subst he
      have hlow : elemsJoin w (fun e => if e = n then v else f e) n = elemsJoin w f n :=
        elemsJoin_congr w fun e he => if_neg (Nat.ne_of_lt he)
      rw [hlow, if_pos rfl]
      omega
    · have := ih (by omega)
      rw [if_neg he]
      omega
theorem elemPut_eq_elemsJoin {w n x j : Nat} (v : Nat) (hx : x < 2 ^ (w * n)) (hj : j < n) :
    elemPut w x j v = elemsJoin w (fun e => if e = j then v else elemAt w x e) n := by
  have hreplace := elemsJoin_replace w (elemAt w x) v hj
  have hplace : elemAt w x j * 2 ^ (w * j) ≤ x :=
    Nat.le_trans (Nat.mul_le_mul_right _ (Nat.mod_le ..)) (Nat.div_mul_le_self ..)
  rw [elemsJoin_elemAt, Nat.mod_eq_of_lt hx, Nat.mod_eq_of_lt (elemAt_lt ..)] at hreplace
  rw [elemPut]
  omega
/-- A replaced element is a packed result whose other elements are kept and raise no flag. -/
theorem elemPut_eq_packElems {w n x j : Nat} (r : Nat × Flags) (hx : x < 2 ^ (w * n)) (hj : j < n) :
    (elemPut w x j r.1, r.2) = packElems w n fun e => if e = j then r else (elemAt w x e, 0) := by
  refine Prod.ext ?value (BitVec.eq_of_getLsbD_eq fun b _ => Bool.eq_iff_iff.2 ?flags)
  case value =>
    rw [elemPut_eq_elemsJoin r.1 hx hj]
    exact elemsJoin_congr w fun e _ => (apply_ite Prod.fst (e = j) r (elemAt w x e, 0)).symm
  case flags =>
    rw [packElems_flags]
    refine ⟨fun hb => ⟨j, hj, by rwa [if_pos rfl]⟩, fun ⟨e, _, hb⟩ => ?_⟩
    split at hb
    · exact hb
    · rw [flags_zero_getLsbD] at hb
      cases hb

/-! FCVT (R145). -/
/-- Element `e` of the result: converted below the count of the source type, and kept from there on. -/
def fcvtAt (t et rm x old e : Nat) : Nat × Flags :=
  if e < etCount t then fcvtElem t et rm (elemAt (etWidth t) x e) else (elemAt (etWidth et) old e, 0)
theorem fcvtLane_eq (t et rm x old : Nat) : fcvtLane t et rm x old = packElems (etWidth et) (etCount et) (fcvtAt t et rm x old) := rfl

/-- What FCVT does to its wave. -/
def fcvtBody (d a : VReg) (t : Fin 128) : Ctx → State → State × Eff :=
  onRegs fun c w => writeFlagged c d
    (fun l => fcvtLane t.val (modeET c.split.mode) (modeRM c.split.mode) (vec c a l).toNat (vec c d l).toNat) w
/-- R138: the type that decides whether d is read is that of the split that issues. -/
theorem exec_fcvt {s : State} {wv sp : Nat} (hcur : s.cur = some (wv, sp)) (y : Bool) (d a : VReg) (t : Fin 128) :
    exec (.fcvt y d a t) s =
      issue s y (if etCount t.val < etCount (modeET (getSplit (waveAt s wv) sp).mode) then useDVV d a else useVV d a) (fcvtBody d a t) := by
  change execFcvt y d a t s = _
  rw [execFcvt, hcur]
  rfl

/-! Dot products (R149, R150). -/
theorem dotSum_eq_sum (p x v k : Nat) : dotSum p x v k = ((List.range k).map fun e => elemVal p x e * elemVal p v e).sum := by
  induction k with
  | zero => rfl
  | succ k ih => rw [dotSum, ih, List.range_succ, List.map_append, List.sum_append, List.map_singleton, List.sum_singleton]
/-- The sum that lane `l` delivers: `k` products of type `p`, and an accumulator of type `acc`. -/
def dotElem (c : Ctx) (d a : VReg) (b : BOp) (l p acc k : Nat) : Nat × Flags :=
  intElem acc (modeSAT c.split.mode) (elemVal acc (vec c d l).toNat 0 +
    ((List.range k).map fun e => elemVal p (vec c a l).toNat e * elemVal p (bval c b l).toNat e).sum)
/-- The unsigned type has an accumulator of n32, and every other type is read as the signed one, with an accumulator of i32. -/
theorem writesElements_dot {i : Instr} {y : Bool} {d a : VReg} {b : BOp} {un sg k : Nat} (hne : sg ≠ un)
    (h : ∀ s, exec i s = issue s y (useAcc d a b) (dotBody d a b un sg k)) :
    WritesElements i (useAcc d a b) d (fun c => c.wm) (fun _ => 32) fun c l _ =>
      if modeET c.split.mode = un then dotElem c d a b l un 1 k else dotElem c d a b l sg 0 k := by
  refine writesElements_whole (useAcc_collective d a b) h fun c l => ?_
  by_cases ht : modeET c.split.mode = un
  · simp only [if_pos ht, if_true, dotSum_eq_sum]
    rfl
  · simp only [if_neg ht, if_neg hne, dotSum_eq_sum]
    rfl
/-- The two halves of a lane, as DOT2F reads them. -/
theorem elemAt_sixteen_zero (x : Nat) : elemAt 16 x 0 = x % 2 ^ 16 := congrArg (· % 2 ^ 16) (Nat.div_one x)
theorem elemAt_sixteen_one {x : Nat} (h : x < 2 ^ 32) : elemAt 16 x 1 = x / 2 ^ 16 := Nat.mod_eq_of_lt (by omega)

/-! QSCALE, PACK and UNPK (R151, R152). -/
/-- A lane read as i32. -/
theorem signedOf_lane (x : Lane) : signedOf 32 x.toNat = x.toInt := by
  rw [signedOf_eq_toInt (by decide), BitVec.ofNat_toNat, BitVec.setWidth_eq]

/-- R70: a value has an element of every type. -/
theorem etCount_pos (et : Nat) : 0 < etCount et := Nat.pos_of_ne_zero fun h => by
  have hmul := etWidth_mul_count et
  rw [h, Nat.mul_zero] at hmul
  cases hmul
/-- PACK replaces the element that its index names, modulo the count, and keeps the others (R152). -/
theorem writesElements_pack (y : Bool) (d a : VReg) (k : Fin 8) :
    WritesElements (.pack y d a k) (useDVV d a) d (fun c => c.wm) (fun m => etWidth (intType m)) fun c l e =>
      if e = k.val % etCount (intType c.split.mode) then
        intElem (intType c.split.mode) true (if etSigned (intType c.split.mode) then (vec c a l).toInt else (vec c a l).toNat)
      else (elemAt (etWidth (intType c.split.mode)) (vec c d l).toNat e, 0) := by
  refine writesElements_of (y := y) (fun _ => etWidth_div _) rfl (fun s => ?_) fun _ _ _ => ⟨rfl, rfl⟩
  have hput (c : Ctx) (l : Nat) (r : Nat × Flags) :=
    elemPut_eq_packElems (w := etWidth (intType c.split.mode)) (n := etCount (intType c.split.mode)) (x := (vec c d l).toNat) r
      (by rw [etWidth_mul_count]; exact (vec c d l).isLt) (Nat.mod_lt k.val (etCount_pos _))
  change execPack y d a k s = _
  simp only [execPack, signedOf_lane, hput]
  rfl

/-- Settles O7: instruction by instruction. -/
theorem conversionAndDotInstructions : Obligations.ConversionAndDotInstructions := by
  intro y d a b t k wm et x v whole dot
  refine ⟨?fcvt, ?dot4, ?dot8, ?dot2f, ?qscale, ?pack, ?unpk⟩
  case fcvt =>
    intro s wv sp mode keeps u hr c f
    obtain ⟨-, hcur, -⟩ := ready_iff.1 hr
    have hu : u.collective = false := by dsimp only [u]; split <;> rfl
    have hexec : exec (.fcvt y d a t) s = issue s y u (fcvtBody d a t) := by
      rw [exec_fcvt hcur]
      simp only [u, keeps, mode, decide_eq_true_eq]
    refine ⟨_, _, hexec.trans (issue_writeFlagged hr hu rfl), fun l e _ _ he => ?elements, fun j => laneFlags_packElems c f j⟩
    case elements =>
      rw [BitVec.toNat_ofNat, fcvtLane_eq, Nat.mod_eq_of_lt (packElems_lt (etWidth_mul_count _))]
      exact elemAt_packElems he
  case dot4 | dot8 => exact writesElements_dot (by decide) fun _ => rfl
  case dot2f =>
    refine writesElements_whole (useAcc_collective d a b) (fun _ => rfl) fun c l => ?_
    simp only [elemAt_sixteen_zero, elemAt_sixteen_one (BitVec.isLt _)]
    rfl
  case qscale =>
    refine writesElements_whole (useVVB_collective d a b) (fun _ => rfl) fun c l => ?_
    simp only [signedOf_lane]
    rfl
  case pack => exact writesElements_pack y d a k
  case unpk => exact writesLanes_of (fun _ => rfl) rfl

end Sys2Proof.Machine
end

section
/-!
The mask instructions (R157, R158) and the permutations between lanes (R155, R156, R119).
-/
namespace Sys2Proof.Machine

/-! The halves of a mask (R158). -/
theorem mask_halves (m : Mask) : m.extractLsb' 64 64 ++ m.extractLsb' 0 64 = m :=
  (BitVec.extractLsb'_append_extractLsb'_eq_extractLsb' (len₁ := 64) (len₂ := 64) rfl).trans BitVec.extractLsb'_eq_self
theorem maskLow_sixtyFour : maskLow 64 = 0#64 ++ BitVec.allOnes 64 := by
  refine BitVec.eq_of_getLsbD_eq fun i hi => ?_
  have hbit : (maskLow 64).getLsbD i = decide (i < 64) := maskOf_bit _ i hi
  rw [hbit, BitVec.getLsbD_append]
  split <;> simp [*, -BitVec.reduceAllOnes]
theorem scalar_zeroExtend (v : Scalar) : v.zeroExtend 128 = 0#64 ++ v := BitVec.setWidth_eq_append (by decide)
theorem scalar_shiftLeft (v : Scalar) : v.zeroExtend 128 <<< (64 : Nat) = v ++ 0#64 := by
  have hlow : (0#64 ++ v).extractLsb' 0 64 = v := BitVec.extractLsb'_append_eq_right
  rw [scalar_zeroExtend, BitVec.shiftLeft_eq_concat_of_lt (by decide : 64 < 128)]
  exact congrArg (· ++ 0#64) hlow

theorem maskHalf_eq_extract (m : Mask) (hi : Bool) : maskHalf m hi = m.extractLsb' (if hi then 64 else 0) 64 := by
  cases hi with
  | true => exact BitVec.setWidth_ushiftRight_eq_extractLsb (b := m) (w' := 64) (w'' := 64)
  | false => exact BitVec.setWidth_eq_extractLsb' (x := m) (w := 64) (by decide)
/-- STOM replaces one half and keeps the other. -/
theorem maskWithHalf_eq_append (m : Mask) (hi : Bool) (v : Scalar) :
    maskWithHalf m hi v = if hi then v ++ m.extractLsb' 0 64 else m.extractLsb' 64 64 ++ v := by
  cases hi with
  | true =>
    have hlow : m &&& maskLow 64 = 0#64 ++ m.extractLsb' 0 64 := by
      conv => lhs; rw [← mask_halves m, maskLow_sixtyFour, BitVec.and_append, BitVec.and_zero, BitVec.and_allOnes]
    rw [maskWithHalf, if_pos rfl, if_pos rfl, scalar_shiftLeft, hlow, BitVec.or_append, BitVec.or_zero, BitVec.zero_or]
  | false =>
    have hnot : ~~~ maskLow 64 = BitVec.allOnes 64 ++ 0#64 := by
      rw [maskLow_sixtyFour, BitVec.not_append, BitVec.not_zero, BitVec.not_allOnes]
    have hhigh : m &&& ~~~ maskLow 64 = m.extractLsb' 64 64 ++ 0#64 := by
      conv => lhs; rw [← mask_halves m, hnot, BitVec.and_append, BitVec.and_zero, BitVec.and_allOnes]
    rw [maskWithHalf, if_neg Bool.false_ne_true, if_neg Bool.false_ne_true, scalar_zeroExtend, hhigh, BitVec.or_append, BitVec.or_zero,
      BitVec.zero_or]

/-! The mask instructions (R157, R158). -/
/-- An instruction that writes the mask `f` where its body's value `g` is the same. -/
theorem completesWith_mset {i : Instr} {y : Bool} {u : Usage} {d : MReg} {f g : Ctx → Mask}
    (h : ∀ s, exec i s = issue s y u (onRegs fun c w => mset w d.val (g c))) (hc : u.collective = false) (hg : ∀ c, g c = f c) :
    CompletesWith i u fun c w => mset w d.val (f c) :=
  (funext hg : g = f) ▸ completesWith_of h hc (fun _ w => mset_ctl w ..) fun _ w => mset_out w ..
/-- A scalar read from the lanes of a mask below the width. -/
theorem writesScalar_lanesBelow {i : Instr} {y : Bool} {q : SReg} {a : MReg} (f : List Nat → Scalar)
    (h : ∀ s, exec i s = issue s y (useSw q) (onRegs fun c w => sset w q.val (f (lanesBelow (mget c.view a.val) w.width)))) :
    WritesScalar i (useSw q) q fun c => f (lanesIn (mget c.view a.val) c.view.width) := by
  refine completesWith_congr (completesWith_of h rfl (fun _ w => sset_ctl w q.val _) fun _ w => sset_out w q.val _) fun s wv sp _ => ?_
  have hwidth : (openIssue (waveAt s wv) sp (useSw q).closes).width = (seen s wv sp).view.width := openIssue_width ..
  simp only [hwidth, lanesBelow_eq_lanesIn]
/-- R158: what MFIRST delivers of the lanes of its mask. -/
def firstLane : List Nat → Scalar
  | [] => BitVec.allOnes 64
  | l :: _ => BitVec.ofNat 64 l
theorem exec_mfirst (y : Bool) (q : SReg) (a : MReg) (s : State) : exec (.mfirst y q a) s =
    issue s y (useSw q) (onRegs fun c w => sset w q.val (firstLane (lanesBelow (mget c.view a.val) w.width))) := rfl

/-! The permutations (R155, R156). -/
/-- The registers read in other lanes matter only where a register is in error. -/
theorem writesLanes_far {i : Instr} {u : Usage} {r : List (Nat × Nat)} {d : VReg} {m : Ctx → Mask} {f : Ctx → Nat → Lane}
    (h : WritesLanes i { u with far := r } d m f) : WritesLanes i u d m f := h
/-- A permutation delivers its source lane. -/
theorem writesLanes_perm {i : Instr} {y : Bool} {u : Usage} {r : List (Nat × Nat)} {d a : VReg} {j : Ctx → Nat → Nat}
    (h : ∀ s, exec i s = issue s y { u with far := r } (permBody d a fun c l => (j c l : Int))) (hc : u.collective = false) :
    WritesLanes i u d (fun c => c.wm) fun c l => laneVal c a.val (j c l) :=
  writesLanes_far (r := r) (writesLanes_of h hc)

/-- R155: a source lane at or above the width reads 0. -/
theorem laneVal_beyond (c : Ctx) (r : Nat) {j : Nat} (h : c.view.width ≤ j) : laneVal c r j = 0 :=
  if_pos (.inr (Int.ofNat_le.2 h))
/-- R119: a source lane whose value is not open is that of the register. -/
theorem laneVal_of_not_apart (c : Ctx) (r : VReg) {j : Nat} (h : j < c.view.width) (ha : apartLane c r.val j = false) :
    laneVal c r.val j = vec c r j := by
  have hin : ¬ ((j : Int) < 0 ∨ (c.view.width : Int) ≤ j) := by omega
  have hsame : ¬ apartLane c r.val (j : Int).toNat = true := by rw [Int.toNat_natCast, ha]; exact Bool.false_ne_true
  rw [laneVal, if_neg hin, if_neg hsame]
  rfl
/-- R119: a value is open only of a window register, in a lane of another split, in a detached frame. -/
theorem apartLane_eq_false {c : Ctx} {r j : Nat}
    (h : r < 32 ∨ mbit (otherLanes c.view c.sp) j = false ∨ frameDetached c.view c.split.frame = false) : apartLane c r j = false := by
  rcases h with h | h | h
  · simp [apartLane, Nat.not_le.2 h]
  · simp [apartLane, h]
  · simp [apartLane, h]

/-- Settles O8: the mask instructions over all bits or below the width, and the permutations by their source lanes. -/
theorem maskAndLaneInstructions : Obligations.MaskAndLaneInstructions := by
  refine ⟨?masks, ?permutations⟩
  case masks =>
    intro y d a b q r hi below
    refine ⟨?mand, ?mor, ?mxor, ?mandn, ?mtos, ?stom, ?mpopc, ?mfirst⟩
    case mand | mor | mxor | mandn => exact completesWith_mset (fun _ => rfl) rfl fun _ => rfl
    case mtos => exact writesScalar_of_eq (fun _ => rfl) rfl fun _ => maskHalf_eq_extract ..
    case stom => exact completesWith_mset (fun _ => rfl) rfl fun _ => maskWithHalf_eq_append ..
    case mpopc => exact writesScalar_lanesBelow (fun ls => BitVec.ofNat 64 ls.length) fun _ => rfl
    case mfirst => exact writesScalar_lanesBelow firstLane (exec_mfirst y q a)
  case permutations =>
    intro y d a b r k wm lane
    refine ⟨?shfl, ?shflx, ?qswap, ?qbcast, ?source⟩
    case shfl | shflx | qswap => exact writesLanes_perm (fun _ => rfl) rfl
    case qbcast =>
      have hquad (l : Nat) : l / 4 * 4 + k.val = 4 * (l / 4) + k.val := by rw [Nat.mul_comm]
      simp only [hquad]
      exact writesLanes_perm (fun _ => rfl) rfl
    case source =>
      exact fun c j => ⟨laneVal_beyond c a.val, fun hj h => laneVal_of_not_apart c a hj (apartLane_eq_false h)⟩

end Sys2Proof.Machine
end

section
/-!
RDSPEC and CWRD (R91, R162): instructions whose value is read from the machine, and what each control word holds.
-/
namespace Sys2Proof.Machine

/-- An effect that writes registers of its wave, with values that it reads from the machine. -/
theorem issue_reads {s : State} {wv sp : Nat} {y : Bool} {u : Usage} {f : State → Ctx → Wave → Wave} (h : ready s wv sp u = true)
    (hc : u.collective = false) (hctl : ∀ t c w, (f t c w).ctl = w.ctl) (hout : ∀ t c w, (f t c w).out = w.out) :
    issue s y u (fun c t => onRegs (f t) c t) = .next (ends s wv sp u (f (entered s wv sp u.closes) (seen s wv sp))) := by
  have hsteady := entered_steady h
  rw [begun_plain hc] at hsteady
  obtain ⟨hres, -⟩ := steady_iff.1 hsteady
  exact issue_wave h hc (by rw [onWave_eq hres]; rfl) (goesOnLike_of_ctl (hctl ..) (hout ..))

/-! The control words (R91). -/
/-- The control words that read as a value of their own; the stall counters, and the words that read 0, are the others. -/
def cwOwnWords : List Nat := [0x000, 0x001, 0x002, 0x010, 0x011, 0x012, 0x013, 0x014, 0x015, 0x016, 0x017, 0x020, 0x021, 0x022, 0x023, 0x024,
  0x025, 0x026, 0x027, 0x030, 0x031, 0x032, 0x033, 0x060, 0x070, 0x071, 0x100, 0x101, 0x103, 0x104, 0x140, 0x141, 0x142, 0x143]

theorem cwRead_of_not_mem {n : Nat} (h : n ∉ cwOwnWords) (s : State) (c : Ctx) :
    cwRead s c n = if 0x040 ≤ n ∧ n ≤ 0x05C then spGet 0 (coreAt s (coreOf (waveAt s c.wv))).stalls (n - 0x040) else 0 := by
  unfold cwRead
  dsimp only
  split
  case h_35 => rfl
  all_goals exact absurd (by decide) h

theorem cwRead_reserved {n : Nat} (h : n ∈ [0x05D, 0x05E, 0x05F] ∨ (0x105 ≤ n ∧ n ≤ 0x13F) ∨ (0x144 ≤ n ∧ n ≤ 0x1FF)) (s : State) (c : Ctx) :
    cwRead s c n = 0 := by
  simp only [List.mem_cons, List.not_mem_nil, or_false] at h
  rw [cwRead_of_not_mem (by simp only [cwOwnWords, List.mem_cons, List.not_mem_nil, or_false]; omega), if_neg (by omega)]
theorem cwRead_stall {n : Nat} (hlo : 0x040 ≤ n) (hhi : n ≤ 0x05C) (s : State) (c : Ctx) :
    cwRead s c n = spGet 0 (coreAt s (coreOf (waveAt s c.wv))).stalls (n - 0x040) := by
  rw [cwRead_of_not_mem (by simp only [cwOwnWords, List.mem_cons, List.not_mem_nil, or_false]; omega), if_pos ⟨hlo, hhi⟩]

/-- The issue that spends its free choices reads the same words. -/
theorem cwRead_entered (s : State) (wv sp n : Nat) : cwRead (entered s wv sp false) (seen s wv sp) n = cwRead s (seen s wv sp) n := by
  have hw : waveAt (entered s wv sp false) (seen s wv sp).wv = openIssue (waveAt s wv) sp false := entered_wave ..
  unfold cwRead
  rw [hw]
  rfl

theorem exec_cwrd {s : State} {wv sp : Nat} {q : SReg} {n : Fin 4096} (y : Bool)
    (h : ready s wv sp { useSw q with priv := decide (0x100 ≤ n.val) } = true) :
    exec (.cwrd y q n) s = .next (ends s wv sp (useSw q) fun w => sset w q.val (BitVec.ofNat 64 (cwRead s (seen s wv sp) n.val))) := by
  rw [← cwRead_entered]
  exact issue_reads (f := fun t c w => sset w q.val (BitVec.ofNat 64 (cwRead t c n.val))) h rfl (fun _ _ w => sset_ctl w q.val _)
    fun _ _ w => sset_out w q.val _

/-! The specials (R162). -/
theorem specValue_entered (s : State) (wv sp k l : Nat) :
    specValue (entered s wv sp false) (seen s wv sp) k l = specValue s (seen s wv sp) k l := by
  have hw : waveAt (entered s wv sp false) (seen s wv sp).wv = openIssue (waveAt s wv) sp false := entered_wave ..
  unfold specValue
  rw [hw]
  rfl

theorem exec_rdspec {s : State} {wv sp : Nat} {d : VReg} (y : Bool) (k : Fin 16) (h : ready s wv sp (useV d) = true) :
    exec (.rdspec y d k) s = .next (ends s wv sp (useV d) fun w => writeRow w (rowOf w (getSplit (waveAt s wv) sp).frame d.val)
      (writeMask w sp) fun l => BitVec.ofNat 32 (specValue s (seen s wv sp) k.val l)) := by
  simp only [← specValue_entered]
  exact issue_reads (f := fun t c w => writeVec c d c.wm (fun l => BitVec.ofNat 32 (specValue t c k.val l)) w) h rfl
    (fun _ _ _ => writeRow_ctl ..) fun _ _ _ => writeRow_out ..

/-- Settles O11: the words of the table, the reserved words, the stall counters, and the specials. -/
theorem specialAndControlReads : Obligations.SpecialAndControlReads := by
  intro y d q s wv sp w x isl core word special
  refine ⟨fun p hp n hn h => ?words, fun n hn h => ?reserved, fun n hlo hhi h => ?stalls, fun k hk h => ?specials⟩
  case words =>
    have hword : word = cwOwnWords.map fun m => (m, cwRead s (seen s wv sp) m) := rfl
    rw [hword] at hp
    obtain ⟨m, -, rfl⟩ := List.mem_map.1 hp
    rw [exec_cwrd y h, hn]
  case reserved =>
    rw [List.contains_iff_mem] at hn
    rw [exec_cwrd y h, cwRead_reserved hn]
    rfl
  case stalls =>
    have hpriv : decide (0x100 ≤ n.val) = false := decide_eq_false (by omega)
    rw [exec_cwrd y (by rw [hpriv]; exact h), cwRead_stall hlo hhi]
    rfl
  case specials =>
    have hspecial (l : Nat) : specValue s (seen s wv sp) k.val l = special k.val l := by
      match k.val, hk with
      | 0, _ | 1, _ | 2, _ | 3, _ | 4, _ | 5, _ | 6, _ | 7, _ | 8, _ | 9, _ | 10, _ | 11, _ => rfl
    rw [exec_rdspec y k h]
    simp only [hspecial]
    rfl

end Sys2Proof.Machine
end

section
/-!
Bytes read back (R166, R167, R172, R202): runs of bytes in sparse arrays, in scratchpads and at home, and the lines that the L1 holds.
-/
namespace Sys2Proof.Machine

/-! Runs of elements of a sparse array. -/
section
variable {α : Type} [DecidableEq α] {z : α}

theorem spWf_spSetList {m : Sparse α} (h : spWf z m = true) (k : Nat) (vs : List α) : spWf z (spSetList z m k vs) = true := by
  induction vs generalizing m k with
  | nil => exact h
  | cons v vs ih => exact ih (spWf_spSet h) (k + 1)

/-- An element after a run of writes: the element of the run, or what was there. -/
theorem spGet_spSetList {m : Sparse α} (h : spWf z m = true) (k j : Nat) (vs : List α) :
    spGet z (spSetList z m k vs) j = if k ≤ j ∧ j < k + vs.length then vs.getD (j - k) z else spGet z m j := by
  induction vs generalizing m k with
  | nil =>
    have hempty : ¬ (k ≤ j ∧ j < k + ([] : List α).length) := by simp only [List.length_nil]; omega
    rw [if_neg hempty, spSetList]
  | cons v vs ih =>
    rw [spSetList, ih (spWf_spSet h), spGet_spSet h, List.length_cons]
    by_cases hfirst : j = k
    · subst hfirst
      have hafter : ¬ (j + 1 ≤ j ∧ j < j + 1 + vs.length) := by omega
      have hin : j ≤ j ∧ j < j + (vs.length + 1) := by omega
      rw [if_neg hafter, if_pos rfl, if_pos hin, Nat.sub_self, List.getD_cons_zero]
    · have hin : (k + 1 ≤ j ∧ j < k + 1 + vs.length) ↔ (k ≤ j ∧ j < k + (vs.length + 1)) := by omega
      simp only [hfirst, if_false, hin]
      split
      · next hj =>
        obtain ⟨i, hi⟩ : ∃ i, j - k = i + 1 := ⟨j - k - 1, by omega⟩
        have hi' : j - (k + 1) = i := by omega
        rw [hi, hi', List.getD_cons_succ]
      · rfl

theorem spRange_spSetList {m : Sparse α} (h : spWf z m = true) (k : Nat) (vs : List α) : spRange z (spSetList z m k vs) k vs.length = vs := by
  refine List.ext_getElem (by simp [spRange]) fun j _ hj => ?_
  simp [spRange, spGet_spSetList h, hj]

/-- An element of the array without the entries whose key fails `p`. -/
theorem spGet_spKeep (p : Nat → Bool) (k : Nat) : ∀ {lo : Nat} {m : Sparse α}, spWfFrom z lo m = true →
    spGet z (spKeep p m) k = if p k then spGet z m k else z
  | _, [], _ => by simp [spKeep, spGet]
  | lo, (k', v) :: t, hm => by
    simp only [spWfFrom, Bool.and_eq_true, decide_eq_true_eq] at hm
    obtain ⟨-, ht⟩ := hm
    have ih := spGet_spKeep p k ht
    have hbelow (h : k < k' + 1) : spGet z (spKeep p t) k = z := by rw [ih, spGet_below h ht, ite_self]
    by_cases hp : p k' = true
    · have hkeep : spKeep p ((k', v) :: t) = (k', v) :: spKeep p t := by simp [spKeep, hp]
      rw [hkeep, spGet, spGet, ih]
      by_cases hk : k' = k
      · subst hk; simp [hp]
      · by_cases hlt : k < k' <;> simp [hk, hlt]
    · have hdrop : spKeep p ((k', v) :: t) = spKeep p t := by simp [spKeep, hp]
      rw [hdrop, spGet]
      by_cases hk : k' = k
      · subst hk; simp [hp, hbelow]
      · by_cases hlt : k < k'
        · simp [hk, hlt, hbelow (by omega)]
        · simp [hk, hlt, ih]
end

/-! Bytes as numbers (R10). -/
theorem toNat_ofNat_byte {v : Nat} (h : v < 256) : (BitVec.ofNat 8 v).toNat = v := by
  rw [BitVec.toNat_ofNat]
  exact Nat.mod_eq_of_lt h
theorem map_toNat_ofNat_byte {l : List Nat} (h : ∀ v ∈ l, v < 256) : (l.map (BitVec.ofNat 8)).map (·.toNat) = l := by
  rw [List.map_map]
  exact (List.map_congr_left fun v hv => toNat_ofNat_byte (h v hv)).trans (List.map_id l)
theorem getD_map_ofNat_byte (l : List Nat) (j : Nat) : (l.map (BitVec.ofNat 8)).getD j 0 = BitVec.ofNat 8 (l.getD j 0) :=
  List.getD_map ..

/-! A scratchpad (R166, R167). -/
theorem spadNat_spadPut {s : State} {core : Nat} (h : spWf 0 (coreAt s core).spad = true) (pos : Nat) {bytes : List Nat}
    (hb : ∀ v ∈ bytes, v < 256) : spadNat (spadPut s core pos bytes) core pos bytes.length = leNat bytes := by
  have hrun := spRange_spSetList h pos (bytes.map (BitVec.ofNat 8))
  rw [List.length_map] at hrun
  simp only [spadNat, spadPut, coreAt_putCore]
  rw [hrun, map_toNat_ofNat_byte hb]
theorem spGet_spadPut_of_outside {s : State} {core : Nat} (h : spWf 0 (coreAt s core).spad = true) {pos k : Nat} {bytes : List Nat}
    (hk : k < pos ∨ pos + bytes.length ≤ k) :
    spGet 0 (coreAt (spadPut s core pos bytes) core).spad k = spGet 0 (coreAt s core).spad k := by
  have hout : ¬ (pos ≤ k ∧ k < pos + (bytes.map (BitVec.ofNat 8)).length) := by rw [List.length_map]; omega
  simp only [spadPut, coreAt_putCore, spGet_spSetList h, if_neg hout]

/-! Memory at home (R202). -/
theorem homeBytes_homeWrite {s : State} (h : Memory.wf s.dev.mem = true) (pa : Nat) {bytes : List Nat} (hb : ∀ v ∈ bytes, v < 256) :
    homeBytes (homeWrite s pa bytes) pa bytes.length = bytes := by
  refine List.ext_getElem (by simp [homeBytes]) fun j _ hj => ?_
  have hbyte : bytes[j] < 256 := hb _ (List.getElem_mem hj)
  simp [homeBytes, homeByte_homeWrite _ _ h, hj, toNat_ofNat_byte hbyte]
theorem homeByte_homeWrite_of_outside {s : State} (h : Memory.wf s.dev.mem = true) {pa a : Nat} {bytes : List Nat}
    (ha : a < pa ∨ pa + bytes.length ≤ a) : homeByte (homeWrite s pa bytes) a = homeByte s a := by
  rw [homeByte_homeWrite _ _ h, if_neg (by omega)]

/-! The lines of a cache, by number and island. -/
theorem findLine_key {ls : List Line} {line isl : Nat} {l : Line} (h : findLine ls line isl = some l) : l.line = line ∧ l.island = isl := by
  simpa using List.find?_some h

/-- A change that leaves the number and the island of every line. -/
theorem findLine_map (f : Line → Line) (hf : ∀ x, (f x).line = x.line ∧ (f x).island = x.island) (ls : List Line) (line isl : Nat) :
    findLine (ls.map f) line isl = (findLine ls line isl).map f := by
  have hkey : (fun l => l.line == line && l.island == isl) ∘ f = fun l => l.line == line && l.island == isl := by
    funext x
    simp [hf x]
  rw [findLine, findLine, List.find?_map, hkey]

/-- What `putLine` does to each line of a list that holds the line already. -/
def replaceLine (x l : Line) : Line := if l.line == x.line && l.island == x.island then x else l
theorem putLine_eq (ls : List Line) (x : Line) :
    putLine ls x = if ls.any fun l => l.line == x.line && l.island == x.island then ls.map (replaceLine x) else x :: ls := rfl
theorem replaceLine_key (x l : Line) : (replaceLine x l).line = l.line ∧ (replaceLine x l).island = l.island := by
  unfold replaceLine
  split
  · next h =>
    simp only [Bool.and_eq_true, beq_iff_eq] at h
    exact ⟨h.1.symm, h.2.symm⟩
  · exact ⟨rfl, rfl⟩

/-- The line that was put is found under its number and island, and every other line as before. -/
theorem findLine_putLine (ls : List Line) (x : Line) (line isl : Nat) :
    findLine (putLine ls x) line isl = if line = x.line ∧ isl = x.island then some x else findLine ls line isl := by
  rw [putLine_eq]
  split
  · next hany =>
    rw [findLine_map _ (replaceLine_key x)]
    split
    · next h =>
      obtain ⟨rfl, rfl⟩ := h
      obtain ⟨l, hl⟩ := Option.isSome_iff_exists.1 (List.find?_isSome.2 (List.any_eq_true.1 hany))
      have hfind : findLine ls x.line x.island = some l := hl
      rw [hfind, Option.map_some, replaceLine, if_pos (by simpa using findLine_key hfind)]
    · next h =>
      cases hfind : findLine ls line isl with
      | none => rfl
      | some l =>
        obtain ⟨rfl, rfl⟩ := findLine_key hfind
        rw [Option.map_some, replaceLine, if_neg (by simpa using h)]
  · by_cases h : line = x.line ∧ isl = x.island
    · simp [findLine, h]
    · have hx : ¬ (x.line = line ∧ x.island = isl) := fun e => h ⟨e.1.symm, e.2.symm⟩
      rw [if_neg h]
      simp [findLine, hx]

/-! The byte that a copy of a line gives. -/
/-- Byte `k` of a copy, where there is a copy and the mask that it is read under has the byte; else what lies below. -/
def overByte (m : Line → Mask) (o : Option Line) (k : Nat) (below : Byte) : Byte := match o.filter fun l => mbit (m l) k with
  | some l => spGet 0 l.data k
  | none => below
@[simp] theorem overByte_none (m : Line → Mask) (k : Nat) (below : Byte) : overByte m none k below = below := rfl
theorem overByte_some (m : Line → Mask) (l : Line) (k : Nat) (below : Byte) :
    overByte m (some l) k below = if mbit (m l) k = true then spGet 0 l.data k else below := by
  unfold overByte
  rw [Option.filter_some]
  by_cases h : mbit (m l) k = true
  · rw [if_pos h, if_pos h]
  · rw [if_neg h, if_neg h]

theorem viewByte_eq (s : State) (core isl a : Nat) : viewByte s core isl a =
    overByte Line.valid (findLine (coreAt s core).l1 (a / 128) isl) (a % 128)
      (overByte Line.valid (findLine (clusterAt s (core / 8)).lines (a / 128) isl) (a % 128) (homeByte s a)) := rfl
theorem deviceByte_eq (s : State) (q : Asker) (a : Nat) : deviceByte s q a =
    overByte Line.dirty (findLine (coreAt s q.core).l1 (a / 128) q.isl) (a % 128)
      (overByte Line.dirty (findLine (clusterAt s (q.core / 8)).lines (a / 128) q.isl) (a % 128) (homeByte s a)) := rfl

/-! The L1 after a line is stored to it (R172). -/
theorem findLine_l1Store (s : State) (core : Nat) (x : Line) (k line isl : Nat) :
    findLine (coreAt (l1Store s core x) k).l1 line isl =
      if k = core ∧ line = x.line ∧ isl = x.island then some x else findLine (coreAt s k).l1 line isl := by
  unfold l1Store
  by_cases hk : k = core
  · subst hk
    simp only [coreAt_putCore, findLine_putLine, true_and]
  · simp only [coreAt_putCore_ne _ _ _ _ hk, hk, false_and, if_false]

/-- A line stored to the L1 changes the view of its core and its island alone. -/
theorem viewByte_l1Store (s : State) (core : Nat) (x : Line) (k isl a : Nat) :
    viewByte (l1Store s core x) k isl a =
      if k = core ∧ a / 128 = x.line ∧ isl = x.island ∧ mbit x.valid (a % 128) = true then spGet 0 x.data (a % 128)
      else if k = core ∧ a / 128 = x.line ∧ isl = x.island then
        overByte Line.valid (findLine (clusterAt s (k / 8)).lines (a / 128) isl) (a % 128) (homeByte s a)
      else viewByte s k isl a := by
  have hbelow : overByte Line.valid (findLine (clusterAt (l1Store s core x) (k / 8)).lines (a / 128) isl) (a % 128) (homeByte (l1Store s core x) a)
      = overByte Line.valid (findLine (clusterAt s (k / 8)).lines (a / 128) isl) (a % 128) (homeByte s a) := rfl
  rw [viewByte_eq, viewByte_eq, hbelow, findLine_l1Store]
  by_cases h : k = core ∧ a / 128 = x.line ∧ isl = x.island
  · obtain ⟨rfl, hline, rfl⟩ := h
    simp only [hline, true_and, and_true, if_true, overByte_some]
  · rw [if_neg h, if_neg fun e => h ⟨e.1, e.2.1, e.2.2.1⟩, if_neg h]

/-- The bytes that a run at offset `off` covers. -/
theorem mbit_runMask {off n k : Nat} (h : k < 128) :
    mbit (maskOf fun i => decide (off ≤ i) && decide (i < off + n)) k = (decide (off ≤ k) && decide (k < off + n)) := maskOf_bit _ _ h
theorem mbit_or (a b : Mask) (k : Nat) : mbit (a ||| b) k = (mbit a k || mbit b k) := BitVec.getLsbD_or

theorem mbit_allOnes {k : Nat} (h : k < 128) : mbit (BitVec.allOnes 128) k = true := by
  rw [mbit, BitVec.getLsbD_allOnes, decide_eq_true h]

/-- A line that has been stored to: the stored bytes are valid, the others are valid where they were. -/
theorem mbit_lineWith_valid (l : Line) (off : Nat) (bytes : List Nat) (dirty : Bool) {k : Nat} (h : k < 128) :
    mbit (lineWith l off bytes dirty).valid k = (mbit l.valid k || (decide (off ≤ k) && decide (k < off + bytes.length))) :=
  (mbit_or ..).trans (congrArg (mbit l.valid k || ·) (mbit_runMask h))
theorem mbit_lineWith_dirty (l : Line) (off : Nat) (bytes : List Nat) {k : Nat} (h : k < 128) :
    mbit (lineWith l off bytes true).dirty k = (mbit l.dirty k || (decide (off ≤ k) && decide (k < off + bytes.length))) :=
  (mbit_or ..).trans (congrArg (mbit l.dirty k || ·) (mbit_runMask h))
theorem spGet_lineWith {l : Line} (hl : spWf 0 l.data = true) (off : Nat) (bytes : List Nat) (dirty : Bool) (k : Nat) :
    spGet 0 (lineWith l off bytes dirty).data k = if off ≤ k ∧ k < off + bytes.length then BitVec.ofNat 8 (bytes.getD (k - off) 0)
      else if mbit l.valid k = true then spGet 0 l.data k else 0 := by
  have hkept : spWf 0 (spKeep (mbit l.valid) l.data) = true := spWf_filter _ hl
  simp only [lineWith, spGet_spSetList hkept, List.length_map, getD_map_ofNat_byte, spGet_spKeep _ _ hl]

/-! An access that hits the L1 (R172). -/
/-- The same line with the same bytes; its class, its use and its way may differ. -/
structure SameCopy (l x : Line) : Prop where
  line : x.line = l.line
  island : x.island = l.island
  valid : x.valid = l.valid
  dirty : x.dirty = l.dirty
  data : x.data = l.data

section
variable {s : State} {core isl pa : Nat} {l : Line} (hl : findLine (coreAt s core).l1 (pa / 128) isl = some l) (hp : pa / 2 ^ 48 ≠ 9)
include hl

/-- The line as an access finds it: its class may rise, and its use is noted. -/
theorem l1Alloc_hit (t : Touch) : ∃ x, SameCopy l x ∧ l1Alloc s core isl (pa / 128) t = (s, x) :=
  ⟨{ l with cls := raiseClass false l.cls t, stamp := (coreAt s core).stamp }, ⟨rfl, rfl, rfl, rfl, rfl⟩, by simp only [l1Alloc, hl]⟩

include hp
theorem cacheWrite_hit (cls : Nat) (bytes : List Nat) :
    ∃ x, SameCopy l x ∧ cacheWrite s core isl pa cls bytes = l1Store s core (lineWith x (pa % 128) bytes true) := by
  obtain ⟨x, hx, halloc⟩ := l1Alloc_hit hl (.demand cls)
  have hc : cacheable pa = true := by simpa [cacheable] using hp
  exact ⟨x, hx, by simp only [cacheWrite, hc, Bool.not_true, Bool.false_eq_true, if_false, halloc]⟩

theorem cacheRead_hit (hv : l.valid = BitVec.allOnes 128) (n cls : Nat) : ∃ x, SameCopy l x ∧
    cacheRead s core isl pa n cls = (l1Store s core x, leNat ((List.range n).map fun j => (spGet 0 l.data (pa % 128 + j)).toNat)) := by
  obtain ⟨x, hx, halloc⟩ := l1Alloc_hit hl (.demand cls)
  have hc : cacheable pa = true := by simpa [cacheable] using hp
  exact ⟨x, hx, by simp only [cacheRead, hc, Bool.not_true, Bool.false_eq_true, if_false, l1Fill, halloc, hx.valid, hv, if_true, hx.data]⟩
end

/-- Storing a line anew with the same bytes changes no view. -/
theorem viewByte_l1Store_same {s : State} {core isl line : Nat} {l x : Line} (hl : findLine (coreAt s core).l1 line isl = some l)
    (hx : SameCopy l x) (k i a : Nat) : viewByte (l1Store s core x) k i a = viewByte s k i a := by
  obtain ⟨rfl, rfl⟩ := findLine_key hl
  rw [viewByte_l1Store, hx.line, hx.island, hx.valid, hx.data]
  by_cases h : k = core ∧ a / 128 = l.line ∧ i = l.island
  · obtain ⟨rfl, hline, rfl⟩ := h
    rw [viewByte_eq s, hline, hl, overByte_some]
    simp only [true_and, and_self, if_true]
  · rw [if_neg fun e => h ⟨e.1, e.2.1, e.2.2.1⟩, if_neg h]

/-- R172: what a core's loads find after bytes are stored to a line that its L1 holds. -/
theorem viewByte_l1Store_lineWith {s : State} {core isl line : Nat} {l x : Line} (hl : findLine (coreAt s core).l1 line isl = some l)
    (hx : SameCopy l x) (hwf : spWf 0 l.data = true) {off : Nat} {bytes : List Nat} (hfit : off + bytes.length ≤ 128) (a : Nat) :
    viewByte (l1Store s core (lineWith x off bytes true)) core isl a =
      if line * 128 + off ≤ a ∧ a < line * 128 + off + bytes.length then BitVec.ofNat 8 (bytes.getD (a - (line * 128 + off)) 0)
      else viewByte s core isl a := by
  obtain ⟨hline, hisl⟩ := findLine_key hl
  have hxline : (lineWith x off bytes true).line = line := hx.line.trans hline
  have hxisl : (lineWith x off bytes true).island = isl := hx.island.trans hisl
  have hxwf : spWf 0 x.data = true := by rw [hx.data]; exact hwf
  have hk : a % 128 < 128 := Nat.mod_lt _ (by omega)
  rw [viewByte_l1Store, mbit_lineWith_valid _ _ _ _ hk, spGet_lineWith hxwf, hxline, hxisl, hx.valid, hx.data]
  by_cases hin : a / 128 = line
  · rw [viewByte_eq s, hin, hl, overByte_some]
    have hrun : (off ≤ a % 128 ∧ a % 128 < off + bytes.length) ↔ (line * 128 + off ≤ a ∧ a < line * 128 + off + bytes.length) := by omega
    rw [← Bool.decide_and]
    by_cases hcov : off ≤ a % 128 ∧ a % 128 < off + bytes.length
    · have hoff : a % 128 - off = a - (line * 128 + off) := by omega
      simp only [if_pos (hrun.1 hcov), if_pos hcov, hoff, decide_eq_true hcov, Bool.or_true, and_self, if_true]
    · simp only [if_neg (mt hrun.2 hcov), if_neg hcov, decide_eq_false hcov, Bool.or_false, true_and, and_self, if_true]
      by_cases hv : mbit l.valid (a % 128) = true
      · simp only [if_pos hv]
      · simp only [if_neg hv]
  · have hout : ¬ (line * 128 + off ≤ a ∧ a < line * 128 + off + bytes.length) := by omega
    simp only [hin, false_and, and_false, if_false, hout]

/-- Settles O26: each store is a run of writes to a canonical array: the scratchpad's, memory's, or that of the line which the L1 holds. -/
theorem memoryReadsBack : Obligations.MemoryReadsBack := by
  refine ⟨fun s core pos bytes h hb => ?scratchpad, fun s pa bytes h hb => ?home, fun s core isl pa cls n bytes l hl hwf hb hfit hp => ?cache⟩
  case scratchpad =>
    refine ⟨spadNat_spadPut h pos hb, ?_, fun k hk => spGet_spadPut_of_outside h hk, fun k hk => coreAt_putCore_ne _ _ _ _ hk, rfl, rfl, rfl⟩
    simp only [spadPut, coreAt_putCore]
    exact spWf_spSetList h ..
  case home =>
    exact ⟨homeBytes_homeWrite h pa hb, homeWrite_wf _ _ h, fun a ha => homeByte_homeWrite_of_outside h ha, homeWrite_waves .., homeWrite_cores ..,
      homeWrite_islands ..⟩
  case cache =>
    obtain ⟨hline, hisl⟩ := findLine_key hl
    obtain ⟨x, hx, hw⟩ := cacheWrite_hit hl hp cls bytes
    have hpa : pa / 128 * 128 + pa % 128 = pa := Nat.div_add_mod' ..
    refine ⟨fun hv hn => ?load, fun a => ?view, ?store⟩
    case load =>
      obtain ⟨x, hx, hr⟩ := cacheRead_hit hl hp hv n cls
      rw [hr]
      refine ⟨congrArg leNat (List.map_congr_left fun j hj => ?_), rfl, rfl, rfl, viewByte_l1Store_same hl hx⟩
      have hjn : j < n := List.mem_range.1 hj
      have hmod : (pa + j) % 128 = pa % 128 + j := by omega
      have hdiv : (pa + j) / 128 = pa / 128 := by omega
      rw [viewByte_eq, hdiv, hmod, hl, overByte_some, hv, if_pos (mbit_allOnes (by omega))]
    case view =>
      have hview := viewByte_l1Store_lineWith hl hx hwf hfit a
      rw [hpa] at hview
      rw [hw, hview]
    case store =>
      rw [hw]
      refine ⟨rfl, rfl, rfl, lineWith x (pa % 128) bytes true, ?_, fun k hk => ?_⟩
      · rw [findLine_l1Store, if_pos ⟨rfl, (hx.line.trans hline).symm, (hx.island.trans hisl).symm⟩]
      · rw [mbit_lineWith_dirty _ _ _ hk, hx.dirty]

end Sys2Proof.Machine
end

section
/-!
What the caches, the home agents and the walker leave of the machine (R172 to R174, R192, R193, R351): they move bytes between memory and its
copies, and change nothing of a wave, a group, an island or a scratchpad.
-/
namespace Sys2Proof.Machine

/-- `t` is `s` but for memory, its copies in caches and TLBs, and lines that are no longer poisoned. -/
structure CachesOnly (s t : State) : Prop where
  waves : t.waves = s.waves
  quarters : t.quarters = s.quarters
  groups : t.groups = s.groups
  launches : t.launches = s.launches
  islands : t.islands = s.islands
  spad : ∀ k, (coreAt t k).spad = (coreAt s k).spad
  poison : ∀ line, isPoisoned t line = true → isPoisoned s line = true

theorem cachesOnly_refl (s : State) : CachesOnly s s := ⟨rfl, rfl, rfl, rfl, rfl, fun _ => rfl, fun _ h => h⟩
theorem CachesOnly.trans {s t u : State} (h : CachesOnly s t) (g : CachesOnly t u) : CachesOnly s u where
  waves := g.waves.trans h.waves
  quarters := g.quarters.trans h.quarters
  groups := g.groups.trans h.groups
  launches := g.launches.trans h.launches
  islands := g.islands.trans h.islands
  spad k := (g.spad k).trans (h.spad k)
  poison line hp := h.poison line (g.poison line hp)
theorem cachesOnly_foldl {α : Type} {f : State → α → State} (hf : ∀ s x, CachesOnly s (f s x)) (l : List α) (s : State) :
    CachesOnly s (l.foldl f s) := by
  induction l generalizing s with
  | nil => exact cachesOnly_refl s
  | cons x t ih => exact (hf s x).trans (ih _)

/-! Single updates. -/
/-- An update of memory, of what hides it, or of clusters. -/
theorem cachesOnly_of_fields {s t : State} (hw : t.waves = s.waves) (hq : t.quarters = s.quarters) (hg : t.groups = s.groups)
    (hl : t.launches = s.launches) (hi : t.islands = s.islands) (hc : t.cores = s.cores) (hp : t.dev.poison = s.dev.poison) : CachesOnly s t where
  waves := hw
  quarters := hq
  groups := hg
  launches := hl
  islands := hi
  spad k := by rw [coreAt, coreAt, hc]
  poison line h := by rwa [isPoisoned, hp] at h
theorem cachesOnly_putCluster (s : State) (k : Nat) (c : Cluster) : CachesOnly s (putCluster s k c) :=
  cachesOnly_of_fields rfl rfl rfl rfl rfl rfl rfl
theorem cachesOnly_putCore {s : State} {k : Nat} {c : Core} (h : c.spad = (coreAt s k).spad) : CachesOnly s (putCore s k c) where
  waves := rfl
  quarters := rfl
  groups := rfl
  launches := rfl
  islands := rfl
  spad j := by
    by_cases hj : j = k
    · rw [hj, coreAt_putCore, h]
    · rw [coreAt_putCore_ne _ _ _ _ hj]
  poison _ hp := hp
theorem cachesOnly_clearPoison (s : State) (line : Nat) : CachesOnly s (clearPoison s line) where
  waves := rfl
  quarters := rfl
  groups := rfl
  launches := rfl
  islands := rfl
  spad _ := rfl
  poison l h := by
    simp only [isPoisoned, clearPoison, List.contains_iff_mem, List.mem_filter] at h ⊢
    exact h.1

/-! Memory at home. -/
theorem cachesOnly_openLine (s : State) (line : Nat) : CachesOnly s (openLine s line) := by
  unfold openLine
  split
  · exact cachesOnly_of_fields rfl rfl rfl rfl rfl rfl rfl
  · exact cachesOnly_refl s
theorem cachesOnly_homePut (s : State) (pa b : Nat) : CachesOnly s (homePut s pa b) :=
  (cachesOnly_openLine s (pa / 128)).trans (cachesOnly_of_fields rfl rfl rfl rfl rfl rfl rfl)
theorem cachesOnly_homeWrite (s : State) (pa : Nat) (l : List Nat) : CachesOnly s (homeWrite s pa l) := by
  induction l generalizing s pa with
  | nil => rw [homeWrite_nil]; exact cachesOnly_refl s
  | cons b t ih => rw [homeWrite_cons]; exact (cachesOnly_homePut s pa b).trans (ih _ _)
theorem cachesOnly_homeWriteLine (s : State) (line : Nat) (bytes : Sparse Byte) : CachesOnly s (homeWriteLine s line bytes) :=
  cachesOnly_foldl (fun _ _ => cachesOnly_homePut ..) _ _
theorem cachesOnly_writeBackHome (s : State) (l : Line) : CachesOnly s (writeBackHome s l) := by
  have hw := cachesOnly_homeWriteLine s l.line (dirtyBytes l)
  unfold writeBackHome
  dsimp only
  split
  · exact hw.trans (cachesOnly_clearPoison ..)
  · exact hw

/-! The slice. -/
theorem cachesOnly_sliceRoom (s : State) (cl line : Nat) : CachesOnly s (sliceRoom s cl line).1 := by
  unfold sliceRoom
  dsimp only
  split
  · exact cachesOnly_refl s
  · split
    · exact cachesOnly_refl s
    · exact (cachesOnly_writeBackHome ..).trans (cachesOnly_putCluster ..)
theorem cachesOnly_sliceAlloc (s : State) (cl isl line : Nat) (t : Touch) : CachesOnly s (sliceAlloc s cl isl line t).1 := by
  unfold sliceAlloc
  split
  · exact cachesOnly_refl s
  · exact cachesOnly_sliceRoom ..
theorem cachesOnly_sliceStore (s : State) (cl : Nat) (l : Line) : CachesOnly s (sliceStore s cl l) := cachesOnly_putCluster ..
theorem cachesOnly_sliceFill (s : State) (cl isl line : Nat) (t : Touch) : CachesOnly s (sliceFill s cl isl line t).1 :=
  (cachesOnly_sliceAlloc s cl isl line t).trans (cachesOnly_sliceStore ..)
theorem cachesOnly_sliceReceive (s : State) (cl : Nat) (x : Line) : CachesOnly s (sliceReceive s cl x) :=
  (cachesOnly_sliceAlloc ..).trans (cachesOnly_sliceStore ..)

/-! The L1. -/
theorem cachesOnly_l1Room (s : State) (core line : Nat) : CachesOnly s (l1Room s core line) := by
  unfold l1Room
  dsimp only
  split
  · exact cachesOnly_refl s
  split
  · exact cachesOnly_refl s
  · next v _ =>
    have hv : CachesOnly s (if v.dirty = 0 then s else sliceReceive s (core / 8) v) := by
      split
      · exact cachesOnly_refl s
      · exact cachesOnly_sliceReceive ..
    exact hv.trans (cachesOnly_putCore rfl)
theorem cachesOnly_l1Alloc (s : State) (core isl line : Nat) (t : Touch) : CachesOnly s (l1Alloc s core isl line t).1 := by
  unfold l1Alloc
  split
  · exact cachesOnly_refl s
  · exact cachesOnly_l1Room ..
theorem cachesOnly_l1Store (s : State) (core : Nat) (l : Line) : CachesOnly s (l1Store s core l) := cachesOnly_putCore rfl
theorem cachesOnly_l1Fill (s : State) (core isl line : Nat) (t : Touch) : CachesOnly s (l1Fill s core isl line t).1 := by
  have ha := cachesOnly_l1Alloc s core isl line t
  unfold l1Fill
  dsimp only
  split
  · exact ha.trans (cachesOnly_l1Store ..)
  · exact (ha.trans (cachesOnly_sliceFill ..)).trans (cachesOnly_l1Store ..)

/-! Flushes, and PREF (R192, R193). -/
theorem cachesOnly_pushLine (level core : Nat) (s : State) (l : Line) : CachesOnly s (pushLine level core s l) := by
  have hclean : CachesOnly s (putCore s core { coreAt s core with l1 := putLine (coreAt s core).l1 (cleanLine l) }) := cachesOnly_putCore rfl
  unfold pushLine
  dsimp only
  split
  · exact cachesOnly_refl s
  split
  · exact hclean.trans (cachesOnly_sliceReceive ..)
  · exact (hclean.trans (cachesOnly_putCluster ..)).trans (cachesOnly_writeBackHome ..)
theorem cachesOnly_pushSliceLine (cl : Nat) (s : State) (l : Line) : CachesOnly s (pushSliceLine cl s l) := by
  unfold pushSliceLine
  dsimp only
  split
  · exact cachesOnly_refl s
  · exact (cachesOnly_writeBackHome ..).trans (cachesOnly_putCluster ..)
theorem cachesOnly_prefLine (core isl cls : Nat) (s : State) (line : Nat) : CachesOnly s (prefLine core isl cls s line) := by
  unfold prefLine
  split
  · exact cachesOnly_refl s
  · exact (cachesOnly_sliceFill ..).trans (cachesOnly_l1Fill ..)

/-! Translations (R351). -/
theorem cachesOnly_markLeaf (s : State) (addr pte access : Nat) : CachesOnly s (markLeaf s addr pte access) := by
  unfold markLeaf
  generalize (pte ||| 0x20 ||| if access = 1 ∨ access = 2 then 0x40 else 0) = want
  dsimp only
  split
  · exact cachesOnly_refl s
  · exact cachesOnly_homeWrite ..
theorem cachesOnly_walk (s : State) (core isl va access : Nat) (priv : Bool) : CachesOnly s (walk s core isl va access priv).1 := by
  unfold walk
  dsimp only
  repeat' split
  any_goals exact cachesOnly_refl s
  all_goals exact (cachesOnly_markLeaf ..).trans (cachesOnly_putCore rfl)
theorem cachesOnly_translate (s : State) (core isl va access : Nat) (priv : Bool) : CachesOnly s (translate s core isl va access priv).1 := by
  unfold translate
  split
  · dsimp only
    repeat' split
    · exact cachesOnly_refl s
    · exact cachesOnly_walk ..
    · exact cachesOnly_refl s
  · exact cachesOnly_walk ..
theorem cachesOnly_resolveGlobal (s : State) (core isl access : Nat) (priv : Bool) (n va : Nat) :
    CachesOnly s (resolveGlobal s core isl access priv n va).1 := by
  have ht := cachesOnly_translate s core isl va access priv
  unfold resolveGlobal
  split
  · exact cachesOnly_refl s
  split
  · exact cachesOnly_refl s
  split
  · exact cachesOnly_refl s
  split
  all_goals next he => simpa only [he] using ht
theorem cachesOnly_resolveLanes (w : Wave) (access n : Nat) (l : List (Nat × Nat)) (s : State) :
    CachesOnly s (resolveLanes .global w access n l s).1 := by
  induction l generalizing s with
  | nil => exact cachesOnly_refl s
  | cons x t ih => exact (cachesOnly_resolveGlobal ..).trans (ih _)
theorem cachesOnly_quietAddr (s : State) (w : Wave) (va : Nat) : CachesOnly s (quietAddr s w va).1 := by
  have hr := cachesOnly_resolveGlobal s (coreOf w) (islandOf s w) 0 (privileged s w) 1 va
  unfold quietAddr
  split
  all_goals next he => simpa only [he] using hr

end Sys2Proof.Machine
end

section
/-!
CFLUSH and CINV of one line (R192): the dirty bytes of the L1's copy go home, then those that the slice alone holds; no dirty copy is left.
-/
namespace Sys2Proof.Machine

/-! Dirty bytes written home (R172). -/
theorem homeByte_homeWriteLine {s : State} (h : Memory.wf s.dev.mem = true) (line : Nat) (g : Nat → Byte) (ks : List Nat) (a : Nat) :
    homeByte (homeWriteLine s line (ks.map fun k => (k, g k))) a =
      if line * 128 ≤ a ∧ a - line * 128 ∈ ks then g (a - line * 128) else homeByte s a := by
  induction ks generalizing s with
  | nil => simp [homeWriteLine]
  | cons k ks ih =>
    have hstep : homeWriteLine s line ((k :: ks).map fun k => (k, g k)) =
        homeWriteLine (homePut s (line * 128 + k) (g k).toNat) line (ks.map fun k => (k, g k)) := rfl
    rw [hstep, ih (homePut_wf h _ _), homeByte_homePut h]
    by_cases hk : a = line * 128 + k
    · have hoff : a - line * 128 = k := by omega
      have hle : line * 128 ≤ a := by omega
      simp [hk]
    · have hoff : line * 128 ≤ a → a - line * 128 ≠ k := by omega
      by_cases hle : line * 128 ≤ a
      · simp [hk, hle, hoff hle]
      · simp [hk, hle]

@[simp] theorem homeByte_putCluster (s : State) (k : Nat) (c : Cluster) (a : Nat) : homeByte (putCluster s k c) a = homeByte s a := rfl

/-- The dirty bytes of the line as they were, and every other byte at home as before. -/
theorem homeByte_writeBackHome {s : State} (h : Memory.wf s.dev.mem = true) (l : Line) (a : Nat) :
    homeByte (writeBackHome s l) a = if a / 128 = l.line then overByte Line.dirty (some l) (a % 128) (homeByte s a) else homeByte s a := by
  have hw : homeByte (writeBackHome s l) a = homeByte (homeWriteLine s l.line (dirtyBytes l)) a := by
    unfold writeBackHome
    dsimp only
    split <;> rfl
  have hbit (k : Nat) (hk : mbit l.dirty k = true) : k < 128 := BitVec.lt_of_getLsbD hk
  rw [hw, dirtyBytes, homeByte_homeWriteLine h, overByte_some]
  simp only [mem_maskList]
  by_cases hline : a / 128 = l.line
  · have hle : l.line * 128 ≤ a := by omega
    have hoff : a - l.line * 128 = a % 128 := by omega
    simp only [hline, hle, hoff, true_and, if_true]
  · have hno : ¬ (l.line * 128 ≤ a ∧ mbit l.dirty (a - l.line * 128) = true) := fun ⟨hle, hb⟩ => by
      have := hbit _ hb
      omega
    rw [if_neg hno, if_neg hline]

/-! What a write at home leaves of the copies in cache ways (R202): it may make clean bytes of them invalid. -/
/-- A copy without its validity. -/
def dirtyPart (l : Line) : Line := { l with valid := 0, bad := false }
theorem findLine_dirtyPart (ls : List Line) (line isl : Nat) : findLine (ls.map dirtyPart) line isl = (findLine ls line isl).map dirtyPart :=
  findLine_map dirtyPart (fun _ => ⟨rfl, rfl⟩) ls line isl
theorem overByte_dirtyPart (o : Option Line) (k : Nat) (below : Byte) :
    overByte Line.dirty (o.map dirtyPart) k below = overByte Line.dirty o k below := by
  cases o with
  | none => rfl
  | some l => rw [Option.map_some, overByte_some, overByte_some]; rfl

theorem tbGet_tbMap {α : Type} (f : Nat → α → α) {z : α} {k : Nat} (hz : f k z = z) (m : Tbl α) : tbGet z (tbMap f m) k = f k (tbGet z m k) := by
  induction m with
  | nil => exact hz.symm
  | cons e m ih =>
    by_cases hk : e.1 = k
    · simp [tbGet, tbMap, tbGet?, hk]
    · simpa [tbGet, tbMap, tbGet?, hk] using ih

/-- The dirty part of the lines of a cluster. -/
def dirtyLines (cl : Nat) (s : State) : List Line := (clusterAt s cl).lines.map dirtyPart
theorem dirtyLines_homePut (s : State) (pa b cl : Nat) : dirtyLines cl (homePut s pa b) = dirtyLines cl s := by
  have hopen : (openLine s (pa / 128)).clusters = s.clusters := by
    unfold openLine
    split <;> rfl
  have hcl : clusterAt (homePut s pa b) cl = sliceForget (pa / 128) (1#128 <<< (pa % 128)) (clusterAt s cl) := by
    have := tbGet_tbMap (fun _ c => sliceForget (pa / 128) (1#128 <<< (pa % 128)) c) (z := ({} : Cluster)) (k := cl) rfl s.clusters
    rw [← hopen] at this
    rw [clusterAt, clusterAt, ← hopen]
    exact this
  rw [dirtyLines, dirtyLines, hcl, sliceForget, List.map_map]
  refine List.map_congr_left fun l _ => ?_
  rw [Function.comp]
  split <;> rfl
theorem dirtyLines_writeBackHome (s : State) (l : Line) (cl : Nat) : dirtyLines cl (writeBackHome s l) = dirtyLines cl s := by
  have hw : dirtyLines cl (homeWriteLine s l.line (dirtyBytes l)) = dirtyLines cl s :=
    foldl_keeps (dirtyLines cl) (fun _ _ => dirtyLines_homePut ..) _ _
  unfold writeBackHome
  dsimp only
  split <;> exact hw

theorem writeBackHome_cores (s : State) (l : Line) : (writeBackHome s l).cores = s.cores := by
  have hw : (homeWriteLine s l.line (dirtyBytes l)).cores = s.cores := foldl_keeps State.cores (fun _ _ => homePut_cores ..) _ _
  unfold writeBackHome
  dsimp only
  split <;> exact hw

/-! The two halves of a flush to the home agent. -/
/-- The L1's copy of a line goes home. -/
def flushL1 (core isl line : Nat) (s : State) : State := match findLine (coreAt s core).l1 line isl with
  | some l => pushLine 2 core s l
  | none => s
/-- The slice's copy of a line goes home. -/
def flushSlice (cl isl line : Nat) (s : State) : State := match findLine (clusterAt s cl).lines line isl with
  | some l => pushSliceLine cl s l
  | none => s
theorem syncLine_home (s : State) (core isl line : Nat) :
    syncLine s core isl line 2 = flushSlice (core / 8) isl line (flushL1 core isl line s) := rfl

theorem mbit_zero (k : Nat) : mbit 0 k = false := BitVec.getLsbD_zero
theorem overByte_clean {l : Line} (h : l.dirty = 0) (k : Nat) (below : Byte) : overByte Line.dirty (some l) k below = below := by
  rw [overByte_some, h, mbit_zero]
  rfl

/-- What the slice keeps as dirty of a line when a newer copy passes it by. -/
def passedBy (l x : Line) : Line :=
  if x.line = l.line && x.island = l.island then { x with dirty := x.dirty &&& ~~~ l.dirty, valid := x.valid &&& ~~~ l.dirty } else x
theorem passedBy_key (l x : Line) : (passedBy l x).line = x.line ∧ (passedBy l x).island = x.island := by
  unfold passedBy
  split <;> exact ⟨rfl, rfl⟩
theorem passedBy_same {l x : Line} (hline : x.line = l.line) (hisl : x.island = l.island) :
    passedBy l x = { x with dirty := x.dirty &&& ~~~ l.dirty, valid := x.valid &&& ~~~ l.dirty } := by simp [passedBy, hline, hisl]

/-- The machine with the L1's copy clean, and its dirty bytes taken out of the slice. -/
def cleanedL1 (core : Nat) (s : State) (l : Line) : State :=
  putCluster (putCore s core { coreAt s core with l1 := putLine (coreAt s core).l1 (cleanLine l) }) (core / 8)
    { clusterAt s (core / 8) with lines := (clusterAt s (core / 8)).lines.map (passedBy l) }
theorem pushLine_home {l : Line} (h : l.dirty ≠ 0) (core : Nat) (s : State) :
    pushLine 2 core s l = writeBackHome (cleanedL1 core s l) l := by
  have hdirty : ¬ (l.dirty = 0 ∨ 2 = 0) := by simpa using h
  rw [pushLine, if_neg hdirty]
  rfl
theorem pushLine_clean {l : Line} (h : l.dirty = 0) (level core : Nat) (s : State) : pushLine level core s l = s := if_pos (.inl h)

/-- The slice's bytes over the L1's, once those are taken out of the slice, are the L1's bytes over the slice's. -/
theorem overByte_passedBy {l x : Line} (hline : x.line = l.line) (hisl : x.island = l.island) (k : Nat) (below : Byte) :
    overByte Line.dirty (some (passedBy l x)) k (overByte Line.dirty (some l) k below) =
      overByte Line.dirty (some l) k (overByte Line.dirty (some x) k below) := by
  rw [passedBy_same hline hisl]
  simp only [overByte_some]
  have hand : mbit (x.dirty &&& ~~~ l.dirty) k = (mbit x.dirty k && !mbit l.dirty k) := by
    by_cases hk : k < 128
    · simp [mbit, hk]
    · simp [mbit, BitVec.getLsbD_of_ge _ _ (Nat.le_of_not_lt hk)]
  by_cases hl : mbit l.dirty k = true
  · simp [hand, hl]
  · simp [hand, hl]

section
variable {s : State} (core isl line : Nat)

/-- The L1's dirty bytes of the line are home. -/
theorem homeByte_flushL1 (h : Memory.wf s.dev.mem = true) (a : Nat) : homeByte (flushL1 core isl line s) a =
    if a / 128 = line then overByte Line.dirty (findLine (coreAt s core).l1 line isl) (a % 128) (homeByte s a) else homeByte s a := by
  unfold flushL1
  cases hl : findLine (coreAt s core).l1 line isl with
  | none => rw [overByte_none, ite_self]
  | some l =>
    dsimp only
    by_cases hd : l.dirty = 0
    · rw [pushLine_clean hd, overByte_clean hd, ite_self]
    · rw [pushLine_home hd, homeByte_writeBackHome (s := cleanedL1 core s l) h, (findLine_key hl).1]
      rfl
theorem flushL1_wf (h : Memory.wf s.dev.mem = true) : Memory.wf (flushL1 core isl line s).dev.mem = true := by
  unfold flushL1
  split
  · exact pushLine_wf h ..
  · exact h
theorem findLine_flushL1_clean {l : Line} (hl : findLine (coreAt (flushL1 core isl line s) core).l1 line isl = some l) : l.dirty = 0 := by
  unfold flushL1 at hl
  split at hl
  · next x hx =>
    by_cases hd : x.dirty = 0
    · rw [pushLine_clean hd, hx] at hl
      cases hl
      exact hd
    · have hcores : coreAt (pushLine 2 core s x) core = { coreAt s core with l1 := putLine (coreAt s core).l1 (cleanLine x) } := by
        rw [pushLine_home hd, coreAt, writeBackHome_cores]
        exact coreAt_putCore ..
      obtain ⟨hline, hisl⟩ := findLine_key hx
      rw [hcores, findLine_putLine, if_pos ⟨hline.symm, hisl.symm⟩] at hl
      cases hl
      rfl
  · next hx =>
    rw [hx] at hl
    cases hl

/-- The slice's dirty bytes of the line, over the L1's, are the L1's over the slice's. -/
theorem overByte_flushL1 (k : Nat) (below : Byte) :
    overByte Line.dirty (findLine (clusterAt (flushL1 core isl line s) (core / 8)).lines line isl) k
        (overByte Line.dirty (findLine (coreAt s core).l1 line isl) k below) =
      overByte Line.dirty (findLine (coreAt s core).l1 line isl) k
        (overByte Line.dirty (findLine (clusterAt s (core / 8)).lines line isl) k below) := by
  unfold flushL1
  cases hl : findLine (coreAt s core).l1 line isl with
  | none => rfl
  | some l =>
    dsimp only
    by_cases hd : l.dirty = 0
    · rw [pushLine_clean hd, overByte_clean hd, overByte_clean hd]
    · obtain ⟨hline, hisl⟩ := findLine_key hl
      have hlines := dirtyLines_writeBackHome (cleanedL1 core s l) l (core / 8)
      have hcleaned : (clusterAt (cleanedL1 core s l) (core / 8)).lines = (clusterAt s (core / 8)).lines.map (passedBy l) := by
        rw [cleanedL1, clusterAt_putCluster]
      rw [pushLine_home hd, ← overByte_dirtyPart (findLine (clusterAt (writeBackHome _ _) _).lines _ _), ← findLine_dirtyPart]
      change overByte _ (findLine (dirtyLines _ _) _ _) _ _ = _
      rw [hlines, dirtyLines, hcleaned, findLine_dirtyPart, overByte_dirtyPart, findLine_map _ (passedBy_key l)]
      cases hx : findLine (clusterAt s (core / 8)).lines line isl with
      | none => rfl
      | some x =>
        obtain ⟨hxline, hxisl⟩ := findLine_key hx
        exact overByte_passedBy (hxline.trans hline.symm) (hxisl.trans hisl.symm) ..
end

section
variable {s : State} (cl isl line : Nat)

/-- The slice's dirty bytes of the line are home. -/
theorem homeByte_flushSlice (h : Memory.wf s.dev.mem = true) (a : Nat) : homeByte (flushSlice cl isl line s) a =
    if a / 128 = line then overByte Line.dirty (findLine (clusterAt s cl).lines line isl) (a % 128) (homeByte s a) else homeByte s a := by
  unfold flushSlice
  cases hl : findLine (clusterAt s cl).lines line isl with
  | none => rw [overByte_none, ite_self]
  | some l =>
    dsimp only
    unfold pushSliceLine
    split
    · next hd => rw [overByte_clean hd, ite_self]
    · dsimp only
      rw [homeByte_putCluster, homeByte_writeBackHome h, (findLine_key hl).1]
theorem findLine_flushSlice_clean {l : Line} (hl : findLine (clusterAt (flushSlice cl isl line s) cl).lines line isl = some l) : l.dirty = 0 := by
  unfold flushSlice at hl
  split at hl
  · next x hx =>
    unfold pushSliceLine at hl
    split at hl
    · next hd =>
      rw [hx] at hl
      cases hl
      exact hd
    · obtain ⟨hline, hisl⟩ := findLine_key hx
      dsimp only at hl
      rw [clusterAt_putCluster, findLine_putLine, if_pos ⟨hline.symm, hisl.symm⟩] at hl
      cases hl
      rfl
  · next hx =>
    rw [hx] at hl
    cases hl
theorem flushSlice_cores : (flushSlice cl isl line s).cores = s.cores := by
  unfold flushSlice
  split
  · unfold pushSliceLine
    split
    · rfl
    · exact writeBackHome_cores ..
  · rfl
end

/-! The whole flush (R192). -/
theorem findLine_dropLine (ls : List Line) (line isl : Nat) : findLine (dropLine ls line isl) line isl = none := by
  refine List.find?_eq_none.2 fun x hx hkey => ?_
  obtain ⟨-, hkept⟩ := List.mem_filter.1 hx
  rw [hkey] at hkept
  cases hkept

theorem cachesOnly_syncLine (core isl : Nat) (s : State) (line : Nat) : CachesOnly s (syncLine s core isl line 2) := by
  have h1 : CachesOnly s (flushL1 core isl line s) := by
    unfold flushL1
    split
    · exact cachesOnly_pushLine ..
    · exact cachesOnly_refl s
  have h2 : CachesOnly (flushL1 core isl line s) (flushSlice (core / 8) isl line (flushL1 core isl line s)) := by
    rw [flushSlice]
    split
    · exact cachesOnly_pushSliceLine ..
    · exact cachesOnly_refl _
  rw [syncLine_home]
  exact h1.trans h2
theorem cachesOnly_flushLine (core isl : Nat) (drop : Bool) (s : State) (line : Nat) : CachesOnly s (flushLine core isl drop s line) := by
  have hs := cachesOnly_syncLine core isl s line
  have hcore (t : State) : CachesOnly t (putCore t core { coreAt t core with l1 := dropLine (coreAt t core).l1 line isl }) :=
    cachesOnly_putCore rfl
  cases drop with
  | true => exact (hs.trans (hcore _)).trans (cachesOnly_putCluster ..)
  | false => exact hs

section
variable {s : State} (core isl line : Nat)

/-- R192: home holds the newest bytes of the line, and its other bytes as before. -/
theorem homeByte_flushLine (h : Memory.wf s.dev.mem = true) (drop : Bool) (a : Nat) : homeByte (flushLine core isl drop s line) a =
    if a / 128 = line then deviceByte s { core := core, isl := isl, priv := false } a else homeByte s a := by
  have hdrop : homeByte (flushLine core isl drop s line) a = homeByte (syncLine s core isl line 2) a := by
    cases drop <;> rfl
  rw [hdrop, syncLine_home, homeByte_flushSlice _ _ _ (flushL1_wf _ _ _ h), homeByte_flushL1 _ _ _ h, deviceByte_eq]
  by_cases hline : a / 128 = line
  · simp only [hline, if_true, overByte_flushL1]
  · simp only [if_neg hline]

/-- R192: no dirty copy of the line is left in the core, and with `drop` no copy. -/
theorem findLine_flushLine_l1 {drop : Bool} {l : Line} (hl : findLine (coreAt (flushLine core isl drop s line) core).l1 line isl = some l) :
    drop = false ∧ l.dirty = 0 := by
  cases drop with
  | true =>
    simp only [flushLine, if_true, coreAt_putCluster, coreAt_putCore, findLine_dropLine] at hl
    cases hl
  | false =>
    have hs : flushLine core isl false s line = syncLine s core isl line 2 := rfl
    rw [hs, syncLine_home, coreAt, flushSlice_cores] at hl
    exact ⟨rfl, findLine_flushL1_clean core isl line hl⟩
/-- R192: the same of its slice. -/
theorem findLine_flushLine_slice {drop : Bool} {l : Line}
    (hl : findLine (clusterAt (flushLine core isl drop s line) (core / 8)).lines line isl = some l) : drop = false ∧ l.dirty = 0 := by
  cases drop with
  | true =>
    simp only [flushLine, if_true, clusterAt_putCluster, findLine_dropLine] at hl
    cases hl
  | false =>
    have hs : flushLine core isl false s line = syncLine s core isl line 2 := rfl
    rw [hs, syncLine_home] at hl
    exact ⟨rfl, findLine_flushSlice_clean (core / 8) isl line hl⟩
end

end Sys2Proof.Machine
end

section
/-!
FENCE, the cache instructions and the configuration instructions (R176, R177, R189, R192, R193): what each effect leaves of its wave, and so what
follows it.
-/
namespace Sys2Proof.Machine

/-! The wave as its instruction issues. -/
@[simp] theorem openIssue_group (w : Wave) (sp : Nat) (cl : Bool) : (openIssue w sp cl).group = w.group := by cases cl <;> rfl
@[simp] theorem openIssue_quarter (w : Wave) (sp : Nat) (cl : Bool) : (openIssue w sp cl).quarter = w.quarter := by cases cl <;> rfl
@[simp] theorem openIssue_commits (w : Wave) (sp : Nat) (cl : Bool) : (openIssue w sp cl).commits = w.commits := by cases cl <;> rfl
@[simp] theorem openIssue_helpers (w : Wave) (sp : Nat) (cl : Bool) : (openIssue w sp cl).ctl.helpers = w.ctl.helpers := by cases cl <;> rfl
@[simp] theorem openIssue_walked (w : Wave) (sp : Nat) (cl : Bool) : (openIssue w sp cl).ctl.walked = w.ctl.walked := by cases cl <;> rfl
@[simp] theorem openIssue_srcfg (w : Wave) (sp : Nat) (cl : Bool) : (openIssue w sp cl).ctl.srcfg = w.ctl.srcfg := by cases cl <;> rfl
@[simp] theorem coreOf_openIssue (w : Wave) (sp : Nat) (cl : Bool) : coreOf (openIssue w sp cl) = coreOf w := by simp only [coreOf, openIssue_quarter]
@[simp] theorem clusterOf_openIssue (w : Wave) (sp : Nat) (cl : Bool) : clusterOf (openIssue w sp cl) = clusterOf w := by
  simp only [clusterOf, openIssue_quarter]
@[simp] theorem launchOf_openIssue (s : State) (w : Wave) (sp : Nat) (cl : Bool) : launchOf s (openIssue w sp cl) = launchOf s w := by
  simp only [launchOf, openIssue_group]
@[simp] theorem islandOf_openIssue (s : State) (w : Wave) (sp : Nat) (cl : Bool) : islandOf s (openIssue w sp cl) = islandOf s w := by
  simp only [islandOf, launchOf_openIssue]
@[simp] theorem privileged_openIssue (s : State) (w : Wave) (sp : Nat) (cl : Bool) : privileged s (openIssue w sp cl) = privileged s w := by
  simp only [privileged, launchOf_openIssue]

theorem entered_get (s : State) (wv sp : Nat) (cl : Bool) : tbGet? (entered s wv sp cl).waves wv = some (openIssue (waveAt s wv) sp cl) :=
  tbGet?_tbPut_self
theorem waveAt_of_some {s : State} {k : Nat} {w : Wave} (h : tbGet? s.waves k = some w) : waveAt s k = w := by rw [waveAt, tbGet, h]; rfl

theorem onWave_get {s : State} {wv : Nat} {w : Wave} (hw : tbGet? s.waves wv = some w) (f : Wave → Wave) :
    tbGet? (onWave s wv f).waves wv = some (f w) := by simp only [onWave, hw, putWave_waves, tbGet?_tbPut_self]

theorem regs_entered (s : State) (wv sp : Nat) (cl : Bool) (k : Nat) : (waveAt (entered s wv sp cl) k).regs = (waveAt s k).regs := by
  by_cases hk : k = wv
  · rw [hk, entered_wave, openIssue_regs]
  · rw [entered, waveAt_putWave_ne _ _ _ _ hk]
    rfl
theorem regs_onWave {f : Wave → Wave} (hf : ∀ w, (f w).regs = w.regs) (s : State) (wv k : Nat) :
    (waveAt (onWave s wv f) k).regs = (waveAt s k).regs := by
  by_cases hk : k = wv
  · subst hk
    cases hw : tbGet? s.waves k with
    | none => simp only [onWave, hw]
    | some w => rw [waveAt_onWave hw, hf, waveAt, tbGet, hw]; rfl
  · unfold onWave
    split
    · rfl
    · rw [waveAt_putWave_ne _ _ _ _ hk]

/-! What follows the effect of a ready instruction (R53, R95). -/
/-- Of a wave that may leave its slots, only the age changes. -/
theorem waveAt_settleSlots (s : State) (wv : Nat) :
    ∃ age, waveAt (settleSlots s wv) wv = { waveAt s wv with tim := { (waveAt s wv).tim with age := age } } := by
  unfold settleSlots
  split
  · exact ⟨_, rfl⟩
  · split
    · exact waveAt_leaveSlots s wv
    · exact ⟨_, rfl⟩

section
variable {s t : State} {wv sp : Nat} {y : Bool} {u : Usage} {body : Ctx → State → State × Eff} (h : ready s wv sp u = true)
  (hc : u.collective = false)
include h hc

theorem issue_effect {e : Eff} (hb : body (seen s wv sp) (entered s wv sp u.closes) = (t, e)) :
    issue s y u body = .next (finish t wv sp y false e) := by
  obtain ⟨hbad, -, -, -, -, -, -, -, hout, -⟩ := ready_iff.1 h
  rw [issue_ready h, begun_plain hc, runBody_quiet hbad hout hb, hc]

/-- An effect that ends, and leaves of its wave what the end looks at. -/
theorem finish_over {z : Wave} (hz : tbGet? t.waves wv = some z) (hw : GoesOnLike sp (openIssue (waveAt s wv) sp u.closes) z) :
    finish t wv sp y false .done = stepped t wv sp := by
  have he := entered_steady h
  rw [begun_plain hc, steady_iff, entered_wave] at he
  obtain ⟨-, hlen, hval, hheld, hwait⟩ := he
  obtain ⟨-, -, -, h4, -, -, -, -, hout, -⟩ := ready_iff.1 h
  rw [← waveAt_of_some hz] at hw
  have hs : steady t wv sp = true :=
    steady_iff.2 ⟨by rw [hz]; rfl, hw.length.trans hlen, hw.valid.trans hval, hw.held.trans hheld, hw.wait.trans hwait⟩
  exact finish_done (coll := false) h4 hs (by simp) (.inr (by rw [hw.out, openIssue_out, hout]))
theorem issue_over {z : Wave} (hb : body (seen s wv sp) (entered s wv sp u.closes) = (t, .done)) (hz : tbGet? t.waves wv = some z)
    (hw : GoesOnLike sp (openIssue (waveAt s wv) sp u.closes) z) : issue s y u body = .next (stepped t wv sp) := by
  rw [issue_effect h hc hb, finish_over h hc hz hw]

/-- An effect that waits: the wave is as it left it, but for the wait, and its age if it leaves its slots. -/
theorem issue_waits {wt : Wait} {z : Wave} (hb : body (seen s wv sp) (entered s wv sp u.closes) = (t, .wait wt)) (hz : tbGet? t.waves wv = some z) :
    ∃ t' age, issue s y u body = .next t' ∧ waveAt t' wv = { z with
      ctl := { z.ctl with wait := wt, waitSplit := sp, markAfter := y, again := false }, tim := { z.tim with age := age } } := by
  obtain ⟨age, hage⟩ := waveAt_settleSlots (onWave t wv fun w =>
    { w with ctl := { w.ctl with wait := wt, waitSplit := sp, markAfter := y, again := false } }) wv
  refine ⟨_, age, issue_effect h hc hb, hage.trans ?_⟩
  rw [waveAt_of_some (onWave_get hz _)]
end

/-- R53: MODE of the split that issues. -/
theorem curMode_seen {s : State} {wv sp : Nat} (h : s.cur = some (wv, sp)) : curMode s = (seen s wv sp).split.mode := by
  simp only [curMode, h]
  rfl

/-! FENCE (R189). -/
theorem cachesOnly_releasePush (s : State) (core isl sc : Nat) : CachesOnly s (releasePush s core isl sc) := by
  have h1 (lv : Nat) : CachesOnly s ((coreAt s core).l1.foldl (pushLine lv core) s) := cachesOnly_foldl (cachesOnly_pushLine lv core) _ _
  unfold releasePush
  generalize (if sc = 7 then 0 else scopeLevel sc) = lv
  dsimp only
  split
  · exact (h1 lv).trans (cachesOnly_foldl (cachesOnly_pushSliceLine _) _ _)
  · exact h1 lv
@[simp] theorem acquireInvalidate_waves (s : State) (core sc : Nat) : (acquireInvalidate s core sc).waves = s.waves := by
  unfold acquireInvalidate
  split <;> rfl

/-- R188: at wave to core scope nothing is below the L1 to push to. -/
theorem releasePush_core {sc : Nat} (h : scopeLevel sc = 0) (s : State) (core isl : Nat) : releasePush s core isl sc = s := by
  have hline (l : Line) : pushLine 0 core s l = s := if_pos (.inr rfl)
  have hpush : (coreAt s core).l1.foldl (pushLine 0 core) s = s := List.foldl_fixed' hline _
  simp only [releasePush, h, ite_self, hpush]
  rfl
theorem acquireInvalidate_core {sc : Nat} (h : scopeLevel sc = 0) (s : State) (core : Nat) : acquireInvalidate s core sc = s := if_pos (.inl h)
theorem noteFence_core {sc : Nat} (h : scopeLevel sc = 0) (s : State) (wv : Nat) : noteFence true sc s wv = s := by
  have hle : ¬ 3 ≤ sc := fun hge => by
    unfold scopeLevel at h
    repeat' split at h
    all_goals omega
  simp [noteFence, hle]

theorem releaseClear_entered (s : State) (wv sp : Nat) (cl : Bool) : releaseClear (entered s wv sp cl) wv = releaseClear s wv := by
  unfold releaseClear
  rw [entered_wave, openIssue_commits, islandOf_openIssue]
  rfl

theorem noteFence_wave {s : State} {wv : Nat} {w : Wave} (hw : tbGet? s.waves wv = some w) (rel : Bool) (sc : Nat) :
    ∃ b, tbGet? (noteFence rel sc s wv).waves wv = some { w with fenced := b } := by
  unfold noteFence
  split
  · exact ⟨true, onWave_get hw _⟩
  · exact ⟨w.fenced, hw⟩

/-- The machine after the release side of a FENCE of scope `sc`. -/
def fencePushed (s : State) (wv sp : Nat) (cl : Bool) (sc : Nat) : State :=
  noteFence true sc (releasePush (entered s wv sp cl) (coreOf (waveAt s wv)) (islandOf s (waveAt s wv)) sc) wv
/-- The machine after the acquire side of a FENCE of kind `z`. -/
def fenceAcquired (z : Fin 8) (core sc : Nat) (t : State) : State := if z.val = 1 ∨ z.val = 3 then acquireInvalidate t core sc else t
/-- The machine after both sides. -/
def fenced (s : State) (wv sp : Nat) (cl : Bool) (z : Fin 8) (sc : Nat) : State :=
  fenceAcquired z (coreOf (waveAt s wv)) sc (if z.val = 2 ∨ z.val = 3 then fencePushed s wv sp cl sc else entered s wv sp cl)

section
variable {s : State} {wv sp : Nat} {z : Fin 8} {cl : Bool} {sc : Nat} (y : Bool)
  (hcl : (modeSC (seen s wv sp).split.mode == 6) = cl) (hsc : fenceScope (modeSC (seen s wv sp).split.mode) = sc)
  (h : ready s wv sp { closes := cl } = true)
include hcl hsc h

/-- R189: both sides, and whether the wave then waits for the pushes. -/
theorem exec_fence : exec (.fence y z) s = .next (finish (fenced s wv sp cl z sc) wv sp y false
    (if (z.val = 2 ∨ z.val = 3) ∧ (scopeLevel sc ≠ 0 ∨ releaseClear (fenced s wv sp cl z sc) wv = false) then .doneWait .pushes else .done)) := by
  obtain ⟨-, hcur, -, -, -, -, -, -, hout, -⟩ := ready_iff.1 h
  have he : exec (.fence y z) s = execFence y z s := rfl
  rw [he, execFence, curMode_seen hcur, hcl]
  refine issue_effect h rfl ?_
  have hw : waveAt (entered s wv sp cl) (seen s wv sp).wv = openIssue (waveAt s wv) sp cl := entered_wave ..
  have hisl : islandOf (entered s wv sp cl) (waveAt s wv) = islandOf s (waveAt s wv) := rfl
  have hpush : noteFence (decide (z.val = 2 ∨ z.val = 3)) sc (if z.val = 2 ∨ z.val = 3 then
        releasePush (entered s wv sp cl) (coreOf (waveAt s wv)) (islandOf s (waveAt s wv)) sc else entered s wv sp cl) wv =
      if z.val = 2 ∨ z.val = 3 then fencePushed s wv sp cl sc else entered s wv sp cl := by
    by_cases hz : z.val = 2 ∨ z.val = 3
    · simp only [if_pos hz, decide_eq_true hz, fencePushed]
    · simp only [if_neg hz, decide_eq_false hz, noteFence, Bool.false_and, Bool.false_eq_true, if_false]
  have hwv : (seen s wv sp).wv = wv := rfl
  rw [hwv] at hw
  simp only [hwv, hw, openIssue_out, hout, List.any_nil, Bool.false_eq_true, and_false, if_false, hsc, coreOf_openIssue, islandOf_openIssue, hisl,
    hpush, Bool.not_eq_true']
  exact (apply_ite (Prod.mk (fenced s wv sp cl z sc)) _ _ _).symm

omit hcl hsc h in
/-- FENCE leaves of its wave what the end of an instruction looks at. -/
theorem fenced_wave : ∃ b, tbGet? (fenced s wv sp cl z sc).waves wv = some { openIssue (waveAt s wv) sp cl with fenced := b } := by
  have hacq (t : State) : (fenceAcquired z (coreOf (waveAt s wv)) sc t).waves = t.waves := by
    unfold fenceAcquired
    split
    · exact acquireInvalidate_waves ..
    · rfl
  rw [fenced, hacq]
  split
  · refine noteFence_wave ?_ true sc
    rw [(cachesOnly_releasePush ..).waves, entered_get]
  · exact ⟨_, entered_get ..⟩

theorem exec_fence_over (hclear : (z.val = 2 ∨ z.val = 3) → scopeLevel sc = 0 ∧ releaseClear (fenced s wv sp cl z sc) wv = true) :
    exec (.fence y z) s = .next (stepped (fenced s wv sp cl z sc) wv sp) := by
  obtain ⟨b, hb⟩ := fenced_wave (s := s) (wv := wv) (sp := sp) (z := z) (cl := cl) (sc := sc)
  have hno : ¬ ((z.val = 2 ∨ z.val = 3) ∧ (scopeLevel sc ≠ 0 ∨ releaseClear (fenced s wv sp cl z sc) wv = false)) := fun ⟨hz, hpend⟩ => by
    obtain ⟨hlv, hc⟩ := hclear hz
    simp [hlv, hc] at hpend
  rw [exec_fence y hcl hsc h, if_neg hno, finish_over h rfl hb (goesOnLike_of_ctl rfl rfl)]

theorem exec_fence_waits (hz : z.val = 2 ∨ z.val = 3) (hpend : scopeLevel sc ≠ 0 ∨ releaseClear (fenced s wv sp cl z sc) wv = false) :
    exec (.fence y z) s = .next (settleSlots (onWave (fenced s wv sp cl z sc) wv fun w =>
      let x := putSplit w sp (stepPast (getSplit w sp))
      { x with ctl := { x.ctl with wait := .pushes, waitSplit := sp, markAfter := y } }) wv) := by
  rw [exec_fence y hcl hsc h, if_pos ⟨hz, hpend⟩]
  rfl

omit hcl hsc h in
/-- At wave to core scope a FENCE moves nothing. -/
theorem fenced_core (hlv : scopeLevel sc = 0) : fenced s wv sp cl z sc = entered s wv sp cl := by
  simp only [fenced, fenceAcquired, fencePushed, releasePush_core hlv, noteFence_core hlv, acquireInvalidate_core hlv, ite_self]
omit hcl hsc h in
theorem releaseClear_fenced_core (hlv : scopeLevel sc = 0) : releaseClear (fenced s wv sp cl z sc) wv = releaseClear s wv := by
  rw [fenced_core hlv, releaseClear_entered]
end

/-! CFLUSH, CINV and PREF (R182, R192, R193). -/
theorem resolveLanes_openIssue (w : Wave) (sp : Nat) (cl : Bool) (access n : Nat) (l : List (Nat × Nat)) (s : State) :
    resolveLanes .global (openIssue w sp cl) access n l s = resolveLanes .global w access n l s := by
  induction l generalizing s with
  | nil => rfl
  | cons x t ih =>
    simp only [resolveLanes, resolve, coreOf_openIssue, clusterOf_openIssue, islandOf_openIssue, privileged_openIssue, openIssue_helpers, ih]
theorem walkDue_openIssue (w : Wave) (sp : Nat) (cl : Bool) (xs : List Acc) : walkDue (openIssue w sp cl) xs = walkDue w xs := by
  simp only [walkDue, openIssue_walked]

/-- R182, R350: an address at or above 2^57 fails a check, so its lane does nothing. -/
theorem quietAddr_far (s : State) (w : Wave) {va : Nat} (h : 2 ^ 57 ≤ va) : quietAddr s w va = (s, none) := by
  have hr : resolveGlobal s (coreOf w) (islandOf s w) 0 (privileged s w) 1 va = (s, .prot 2 0) := by
    rw [resolveGlobal, if_neg (by simp [Nat.mod_one]), if_pos h]
  rw [quietAddr, hr]

/-- What one lane of CFLUSH, CINV or PREF does: `go` on its line, where it fails no check. -/
def quietLane (go : Wave → State → Nat → State) (w : Wave) (s : State) (va : Nat) : State := match quietAddr s w va with
  | (s1, some q) => go w s1 (q.1 / 128)
  | (s1, none) => s1
theorem quietLanes_eq (c : Ctx) (s : State) (addrs : List (Nat × Nat)) (go : Wave → State → Nat → State) : quietLanes c s addrs go =
    if walkDue (waveAt s c.wv) (resolveLanes .global (waveAt s c.wv) 0 1 addrs s).2 = true then
      walkPark (resolveLanes .global (waveAt s c.wv) 0 1 addrs s).1 c.wv
    else (addrs.foldl (fun t p => quietLane go (waveAt s c.wv) t p.2) (walkOver s c.wv), .done) := rfl
theorem cachesOnly_quietLane {go : Wave → State → Nat → State} (hgo : ∀ w s line, CachesOnly s (go w s line)) (w : Wave) (s : State) (va : Nat) :
    CachesOnly s (quietLane go w s va) := by
  have hq := cachesOnly_quietAddr s w va
  unfold quietLane
  split
  · next he =>
    rw [he] at hq
    exact hq.trans (hgo ..)
  · next he =>
    rw [he] at hq
    exact hq
theorem quietLane_far (go : Wave → State → Nat → State) (w : Wave) (s : State) {va : Nat} (h : 2 ^ 57 ≤ va) : quietLane go w s va = s := by
  rw [quietLane, quietAddr_far s w h]
theorem foldl_quietLane_far (go : Wave → State → Nat → State) (w : Wave) {l : List (Nat × Nat)} (h : ∀ p ∈ l, 2 ^ 57 ≤ p.2) (s : State) :
    l.foldl (fun t p => quietLane go w t p.2) s = s := by
  induction l with
  | nil => rfl
  | cons p l ih =>
    rw [List.foldl_cons, quietLane_far go w s (h p List.mem_cons_self), ih fun q hq => h q (List.mem_cons_of_mem p hq)]

theorem walkOver_get {s : State} {wv : Nat} {w : Wave} (hw : tbGet? s.waves wv = some w) :
    ∃ v, tbGet? (walkOver s wv).waves wv = some (setWalked v w) := by
  unfold walkOver
  split
  · exact ⟨false, onWave_get hw _⟩
  · exact ⟨w.ctl.walked, hw⟩
/-- The end of a walk is a mark of its wave. -/
theorem walkOver_eq (s : State) (wv : Nat) : ∃ ws, walkOver s wv = { s with waves := ws } := by
  unfold walkOver onWave
  split
  · split
    · exact ⟨s.waves, rfl⟩
    · exact ⟨_, rfl⟩
  · exact ⟨s.waves, rfl⟩
theorem regs_walkOver (s : State) (wv k : Nat) : (waveAt (walkOver s wv) k).regs = (waveAt s k).regs := by
  unfold walkOver
  split
  · exact regs_onWave (f := setWalked false) (fun _ => rfl) ..
  · rfl

/-- R182: some lane of a cache instruction takes a walk that its wave has not parked for. -/
def quietWalkDue (s : State) (wv sp : Nat) (a : VReg) (b : SReg) : Bool :=
  walkDue (waveAt s wv) (resolveLanes .global (waveAt s wv) 0 1 (laneAddrs (seen s wv sp) a b) (entered s wv sp false)).2
/-- The effect of a cache instruction. -/
def quietBody (a : VReg) (b : SReg) (go : Wave → State → Nat → State) (c : Ctx) (s : State) : State × Eff := quietLanes c s (laneAddrs c a b) go

section
variable (s : State) (wv sp : Nat) (a : VReg) (b : SReg) (go : Wave → State → Nat → State)
theorem quietBody_seen : quietBody a b go (seen s wv sp) (entered s wv sp false) =
    if quietWalkDue s wv sp a b = true then
      walkPark (resolveLanes .global (waveAt s wv) 0 1 (laneAddrs (seen s wv sp) a b) (entered s wv sp false)).1 wv
    else ((laneAddrs (seen s wv sp) a b).foldl (fun t p => quietLane go (openIssue (waveAt s wv) sp false) t p.2) (walkOver (entered s wv sp false) wv),
      .done) := by
  have hw : waveAt (entered s wv sp false) (seen s wv sp).wv = openIssue (waveAt s wv) sp false := entered_wave ..
  rw [quietBody, quietLanes_eq, hw, resolveLanes_openIssue, walkDue_openIssue]
  rfl
end

section
variable {s : State} {wv sp : Nat} {a : VReg} {b : SReg} {go : Wave → State → Nat → State}

section
variable (hd : quietWalkDue s wv sp a b = false)
include hd
theorem quietBody_over (hgo : ∀ w s line, CachesOnly s (go w s line)) : ∃ t, quietBody a b go (seen s wv sp) (entered s wv sp false) = (t, .done) ∧
    CachesOnly (walkOver (entered s wv sp false) wv) t := by
  rw [quietBody_seen, if_neg (by simp [hd])]
  exact ⟨_, rfl, cachesOnly_foldl (fun t (p : Nat × Nat) => cachesOnly_quietLane hgo _ t p.2) _ _⟩
theorem quietBody_far (hfar : ∀ p ∈ laneAddrs (seen s wv sp) a b, 2 ^ 57 ≤ p.2) :
    quietBody a b go (seen s wv sp) (entered s wv sp false) = (walkOver (entered s wv sp false) wv, .done) := by
  rw [quietBody_seen, if_neg (by simp [hd]), foldl_quietLane_far _ _ hfar]
end

/-- R192: no lane of a cache instruction changes a register. -/
theorem regs_quietBody (hgo : ∀ w s line, CachesOnly s (go w s line)) (k : Nat) :
    (waveAt (quietBody a b go (seen s wv sp) (entered s wv sp false)).1 k).regs = (waveAt s k).regs := by
  cases hd : quietWalkDue s wv sp a b with
  | true =>
    rw [quietBody_seen, if_pos hd, walkPark, regs_onWave (f := setWalked true) (fun _ => rfl), waveAt, (cachesOnly_resolveLanes ..).waves]
    exact regs_entered ..
  | false =>
    obtain ⟨t, ht, hcaches⟩ := quietBody_over hd hgo
    rw [ht, waveAt, hcaches.waves]
    exact (regs_walkOver ..).trans (regs_entered ..)

variable {y : Bool} (h : ready s wv sp (useAddr a b) = true)
include h

theorem issue_quiet_parks (hd : quietWalkDue s wv sp a b = true) :
    ∃ t, issue s y (useAddr a b) (quietBody a b go) = .next t ∧ (waveAt t wv).ctl.wait = .walk ∧ (waveAt t wv).regs = (waveAt s wv).regs ∧
      (getSplit (waveAt t wv) sp).pc = (getSplit (waveAt s wv) sp).pc := by
  have hwalks : tbGet? (resolveLanes .global (waveAt s wv) 0 1 (laneAddrs (seen s wv sp) a b) (entered s wv sp false)).1.waves wv =
      some (openIssue (waveAt s wv) sp false) := by rw [(cachesOnly_resolveLanes ..).waves, entered_get]
  obtain ⟨t, age, ht, hw⟩ := issue_waits (y := y) h rfl ((quietBody_seen s wv sp a b go).trans (if_pos hd)) (onWave_get hwalks _)
  refine ⟨t, ht, ?_⟩
  rw [hw]
  exact ⟨rfl, rfl, rfl⟩

/-- The lanes have acted on memory and on its copies alone, so the instruction goes on. -/
theorem issue_quiet_over {t : State} (hb : quietBody a b go (seen s wv sp) (entered s wv sp false) = (t, .done))
    (hcaches : CachesOnly (walkOver (entered s wv sp false) wv) t) : issue s y (useAddr a b) (quietBody a b go) = .next (stepped t wv sp) := by
  obtain ⟨v, hv⟩ := walkOver_get (entered_get s wv sp false)
  rw [← hcaches.waves] at hv
  exact issue_over h rfl hb hv ⟨rfl, rfl, rfl, rfl, rfl⟩
theorem issue_quiet_completes (hgo : ∀ w s line, CachesOnly s (go w s line)) (hd : quietWalkDue s wv sp a b = false) :
    issue s y (useAddr a b) (quietBody a b go) = .next (stepped (quietBody a b go (seen s wv sp) (entered s wv sp false)).1 wv sp) := by
  obtain ⟨t, ht, hcaches⟩ := quietBody_over hd hgo
  rw [issue_quiet_over h ht hcaches, ht]
end

/-! SRCFG (R176). -/
theorem cachesOnly_leaveCache (cl k : Nat) (s : State) : CachesOnly s (leaveCache cl k s) :=
  (cachesOnly_foldl cachesOnly_writeBackHome _ _).trans (cachesOnly_putCluster ..)
theorem cachesOnly_changeWay (cl old v : Nat) (s : State) (k : Nat) : CachesOnly s (changeWay cl old v s k) := by
  have h1 : CachesOnly s (if wayMode old k = 0 then leaveCache cl k s else s) := by
    split
    · exact cachesOnly_leaveCache ..
    · exact cachesOnly_refl s
  unfold changeWay
  dsimp only
  split
  · exact cachesOnly_refl s
  split
  · exact h1.trans (cachesOnly_putCluster ..)
  · exact h1
@[simp] theorem setWays_waves (s : State) (cl v : Nat) : (setWays s cl v).waves = s.waves := by
  have h := (cachesOnly_foldl (cachesOnly_changeWay cl (clusterAt s cl).ways v) (List.range 16) s).waves
  unfold setWays
  dsimp only
  split <;> exact h
theorem setWays_ways (s : State) (cl v : Nat) : (clusterAt (setWays s cl v) cl).ways = v := by
  have hcut (k : Cluster) (t : State) : clusterAt (cutFifo cl k t) cl = clusterAt t cl := rfl
  unfold setWays
  dsimp only
  split
  · rw [clusterAt_putCluster]
  · rw [hcut, clusterAt_putCluster, clusterAt_putCluster]

theorem leaveSlots_get {s : State} {wv : Nat} {w : Wave} (hw : tbGet? s.waves wv = some w) :
    ∃ age, tbGet? (leaveSlots s wv).waves wv = some { w with tim := { w.tim with age := age } } := by
  rcases leaveSlots_cases s wv with ⟨hl, -⟩ | hl
  · exact ⟨w.tim.age, by rw [hl, hw]⟩
  · exact ⟨_, by rw [hl, vacated, putWave_waves, tbGet?_tbPut_self, waveAt_of_some hw]⟩

/-- The wave with the number and value of a SRCFG that has parked, or with none. -/
def asks (p : Option (Nat × Nat)) (w : Wave) : Wave := { w with ctl := { w.ctl with srcfg := p } }
/-- R176: the wave may write the way-partition register of its cluster. -/
def mayPartition (s : State) (w : Wave) : Bool := lbWayCfg (launchOf s w) && ownsCluster s (islandOf s w) (clusterOf w)
/-- R176: the number and value that a SRCFG keeps from its first issue. -/
def srcfgTaken (s : State) (wv : Nat) (d : SReg) : Nat × Nat :=
  (waveAt s wv).ctl.srcfg.getD (s.nextId, (sget (waveAt s wv) d.val).toNat)
/-- The machine after the register is written. -/
def srcfgSet (s : State) (wv sp v : Nat) : State :=
  setWays (onWave (entered s wv sp true) wv (asks none)) (clusterOf (waveAt s wv)) v

section
variable {s : State} {wv sp : Nat} {y : Bool} {d : SReg}

/-- R176: the checks of SRCFG, then its park, or the write of the register. -/
theorem exec_srcfg (s : State) (wv sp : Nat) (y : Bool) (d : SReg) :
    ∃ body, (∀ s, exec (.srcfg y d) s = issue s y { sr := [d.val], closes := true } body) ∧
    body (seen s wv sp) (entered s wv sp true) =
      if mayPartition s (waveAt s wv) = false then (entered s wv sp true, .trap 0x02 0 0)
      else if waysLegal (sget (waveAt s wv) d.val).toNat = false then (entered s wv sp true, .trap 0x01 0 0)
      else if srcfgHeld (entered s wv sp true) wv (clusterOf (waveAt s wv)) (srcfgTaken s wv d).1 (srcfgTaken s wv d).2 = true then
        (onWave { entered s wv sp true with nextId := s.nextId + 1 } wv (asks (some (srcfgTaken s wv d))), .wait (.farAccess (clusterOf (waveAt s wv))))
      else (leaveSlots (srcfgSet s wv sp (srcfgTaken s wv d).2) wv, .done) := by
  refine ⟨_, fun _ => rfl, ?_⟩
  have hw : waveAt (entered s wv sp true) (seen s wv sp).wv = openIssue (waveAt s wv) sp true := entered_wave ..
  have hmay (p q : Bool) : ((!p || !q) = true) = ((p && q) = false) := by cases p <;> simp
  simp only [hw, launchOf_openIssue, islandOf_openIssue, clusterOf_openIssue, openIssue_srcfg, hmay, Bool.not_eq_true']
  rfl

theorem srcfgSet_get (s : State) (wv sp v : Nat) : tbGet? (srcfgSet s wv sp v).waves wv = some (asks none (openIssue (waveAt s wv) sp true)) := by
  rw [srcfgSet, setWays_waves]
  exact onWave_get (entered_get ..) _
theorem regs_srcfgSet (s : State) (wv sp v k : Nat) : (waveAt (srcfgSet s wv sp v) k).regs = (waveAt s k).regs := by
  rw [srcfgSet, waveAt, setWays_waves]
  exact (regs_onWave (f := asks none) (fun _ => rfl) ..).trans (regs_entered ..)

variable (h : ready s wv sp { sr := [d.val], closes := true } = true)
include h

theorem exec_srcfg_denied (hmay : mayPartition s (waveAt s wv) = false) :
    exec (.srcfg y d) s = .next (traps s wv sp { sr := [d.val], closes := true } 0x02 0 0) := by
  obtain ⟨body, hexec, hbody⟩ := exec_srcfg s wv sp y d
  rw [hexec]
  exact issue_traps h rfl (hbody.trans (if_pos hmay))

variable (hmay : mayPartition s (waveAt s wv) = true)
include hmay

theorem exec_srcfg_illegal (hbad : waysLegal (sget (waveAt s wv) d.val).toNat = false) :
    exec (.srcfg y d) s = .next (traps s wv sp { sr := [d.val], closes := true } 0x01 0 0) := by
  obtain ⟨body, hexec, hbody⟩ := exec_srcfg s wv sp y d
  rw [if_neg (ne_false_of_eq_true hmay), if_pos hbad] at hbody
  rw [hexec]
  exact issue_traps h rfl hbody

variable (hlegal : waysLegal (sget (waveAt s wv) d.val).toNat = true)
include hlegal

theorem exec_srcfg_waits
    (hheld : srcfgHeld (entered s wv sp true) wv (clusterOf (waveAt s wv)) (srcfgTaken s wv d).1 (srcfgTaken s wv d).2 = true) :
    ∃ t, exec (.srcfg y d) s = .next t ∧ (waveAt t wv).ctl.wait = .farAccess (clusterOf (waveAt s wv)) ∧
      (waveAt t wv).ctl.srcfg = some (srcfgTaken s wv d) ∧ (waveAt t wv).regs = (waveAt s wv).regs := by
  obtain ⟨body, hexec, hbody⟩ := exec_srcfg s wv sp y d
  rw [if_neg (ne_false_of_eq_true hmay), if_neg (ne_false_of_eq_true hlegal), if_pos hheld] at hbody
  have hget : tbGet? { entered s wv sp true with nextId := s.nextId + 1 }.waves wv = some (openIssue (waveAt s wv) sp true) := entered_get ..
  obtain ⟨t, age, ht, hw⟩ := issue_waits (y := y) h rfl hbody (onWave_get hget _)
  refine ⟨t, (hexec s).trans ht, ?_⟩
  rw [hw]
  exact ⟨rfl, rfl, rfl⟩

theorem exec_srcfg_writes
    (hfree : srcfgHeld (entered s wv sp true) wv (clusterOf (waveAt s wv)) (srcfgTaken s wv d).1 (srcfgTaken s wv d).2 = false) :
    exec (.srcfg y d) s = .next (stepped (leaveSlots (srcfgSet s wv sp (srcfgTaken s wv d).2) wv) wv sp) := by
  obtain ⟨body, hexec, hbody⟩ := exec_srcfg s wv sp y d
  rw [if_neg (ne_false_of_eq_true hmay), if_neg (ne_false_of_eq_true hlegal), if_neg (ne_true_of_eq_false hfree)] at hbody
  obtain ⟨age, hage⟩ := leaveSlots_get (srcfgSet_get s wv sp (srcfgTaken s wv d).2)
  rw [hexec]
  exact issue_over h rfl hbody hage ⟨rfl, rfl, rfl, rfl, rfl⟩
end

/-! What a write of the configuration leaves (R177). -/
/-- The group's record is written, and of its core at most the bytes of its scratchpad change. -/
theorem setSpad_cases (s : State) (free g limit swz : Nat) :
    setSpad s free g limit swz = putGroup s g { groupAt s g with limit := limit, swz := swz } ∨
    ∃ c, setSpad s free g limit swz = putCore (putGroup s g { groupAt s g with limit := limit, swz := swz }) (groupAt s g).core c := by
  unfold setSpad
  dsimp only
  generalize (if swz = (groupAt s g).swz then min limit (groupAt s g).limit else 0) = lo
  generalize (if swz = (groupAt s g).swz then limit else (groupAt s g).grant) = hi
  split
  · exact .inr ⟨_, rfl⟩
  · exact .inl rfl
theorem setSpad_waves (s : State) (free g limit swz : Nat) : (setSpad s free g limit swz).waves = s.waves := by
  rcases setSpad_cases s free g limit swz with h | ⟨c, h⟩ <;> rw [h] <;> rfl
theorem setSpad_dev (s : State) (free g limit swz : Nat) : (setSpad s free g limit swz).dev = s.dev := by
  rcases setSpad_cases s free g limit swz with h | ⟨c, h⟩ <;> rw [h] <;> rfl
theorem groupAt_setSpad (s : State) (free g limit swz : Nat) :
    groupAt (setSpad s free g limit swz) g = { groupAt s g with limit := limit, swz := swz } := by
  rcases setSpad_cases s free g limit swz with h | ⟨c, h⟩
  · rw [h, groupAt_putGroup]
  · rw [h, groupAt_putCore, groupAt_putGroup]
/-- A smaller limit with the same swizzle leaves every byte of the scratchpad. -/
theorem setSpad_cores {s : State} {g limit swz : Nat} (free : Nat) (hswz : (groupAt s g).swz = swz) (hlim : limit ≤ (groupAt s g).limit) :
    (setSpad s free g limit swz).cores = s.cores := by
  have hnone : ¬ min limit (groupAt s g).limit < limit := by omega
  simp only [setSpad, hswz, if_true, if_neg hnone]
  rfl

/-- R177: the fields of a SPCFG value that must hold zero, or a swizzle that there is. -/
def spcfgLegal (v : Nat) : Bool := decide (v / 2 ^ 18 = 0) && decide (v / 2 ^ 13 % 8 = 0) && decide (v / 2 ^ 16 % 4 < 2)
/-- The split that is over goes on after its instruction. -/
theorem stepped_pc {s : State} {wv sp : Nat} (hsp : sp < (waveAt s wv).ctl.splits.length) :
    (getSplit (waveAt (stepped s wv sp) wv) sp).pc = pcNext (getSplit (waveAt s wv) sp).pc := by
  rw [stepped, waveAt_goesTo, getSplit_putSplit_self _ _ _ hsp]
/-- R177: a value of SPCFG is illegal where a field that must hold zero does not, or its swizzle is none. -/
theorem spcfgLegal_eq_false {v : Nat} : spcfgLegal v = false ↔ v / 2 ^ 18 ≠ 0 ∨ v / 2 ^ 13 % 8 ≠ 0 ∨ 2 ≤ v / 2 ^ 16 % 4 := by
  simp only [spcfgLegal, Bool.and_eq_false_iff, decide_eq_false_iff_not, not_lt, or_assoc, ne_eq]
/-- The machine after the configuration is written. -/
def spcfgSet (s : State) (wv sp v : Nat) : State :=
  setSpad (entered s wv sp true) s.free (waveAt s wv).group (v % 2 ^ 13) (v / 2 ^ 16 % 4)

section
variable {s : State} {wv sp : Nat} {y : Bool} {d : SReg}

/-- R177: the checks of SPCFG, then the write of the group's configuration. -/
theorem exec_spcfg (s : State) (wv sp : Nat) (y : Bool) (d : SReg) {v : Nat} (hv : (sget (waveAt s wv) d.val).toNat = v) :
    ∃ body, (∀ s, exec (.spcfg y d) s = issue s y { sr := [d.val], closes := true } body) ∧
      body (seen s wv sp) (entered s wv sp true) =
        if spcfgLegal v = false then (entered s wv sp true, .trap 0x01 0 0)
        else if (groupAt s (waveAt s wv).group).grant < v % 2 ^ 13 then (entered s wv sp true, .trap 0x02 0 0)
        else (leaveSlots (spcfgSet s wv sp v) wv, .done) := by
  refine ⟨_, fun _ => rfl, ?_⟩
  have hw : waveAt (entered s wv sp true) (seen s wv sp).wv = openIssue (waveAt s wv) sp true := entered_wave ..
  have hsca : (sca (seen s wv sp) d).toNat = v := hv
  have hlt : v < 2 ^ 64 := hv ▸ (sget (waveAt s wv) d.val).isLt
  have hhigh : bitsOf v 18 46 = v / 2 ^ 18 := by rw [bitsOf]; omega
  have hgap : bitsOf v 13 3 = v / 2 ^ 13 % 8 := rfl
  have hswz : bitsOf v 16 2 = v / 2 ^ 16 % 4 := rfl
  have hlim : bitsOf v 0 13 = v % 2 ^ 13 := by rw [bitsOf]; omega
  simp only [hw, openIssue_group, hsca, hhigh, hgap, hswz, hlim, ← spcfgLegal_eq_false (v := v)]
  rfl

variable {v : Nat} (hv : (sget (waveAt s wv) d.val).toNat = v) (h : ready s wv sp { sr := [d.val], closes := true } = true)
include hv h

theorem exec_spcfg_illegal (hbad : spcfgLegal v = false) :
    exec (.spcfg y d) s = .next (traps s wv sp { sr := [d.val], closes := true } 0x01 0 0) := by
  obtain ⟨body, hexec, hbody⟩ := exec_spcfg s wv sp y d hv
  rw [hexec]
  exact issue_traps h rfl (hbody.trans (if_pos hbad))

variable (hlegal : spcfgLegal v = true)
include hlegal

theorem exec_spcfg_denied (hgrant : (groupAt s (waveAt s wv).group).grant < v % 2 ^ 13) :
    exec (.spcfg y d) s = .next (traps s wv sp { sr := [d.val], closes := true } 0x02 0 0) := by
  obtain ⟨body, hexec, hbody⟩ := exec_spcfg s wv sp y d hv
  rw [if_neg (ne_false_of_eq_true hlegal), if_pos hgrant] at hbody
  rw [hexec]
  exact issue_traps h rfl hbody

theorem exec_spcfg_writes (hgrant : v % 2 ^ 13 ≤ (groupAt s (waveAt s wv).group).grant) :
    exec (.spcfg y d) s = .next (stepped (leaveSlots (spcfgSet s wv sp v) wv) wv sp) := by
  obtain ⟨body, hexec, hbody⟩ := exec_spcfg s wv sp y d hv
  rw [if_neg (ne_false_of_eq_true hlegal), if_neg (Nat.not_lt.2 hgrant)] at hbody
  have hget : tbGet? (spcfgSet s wv sp v).waves wv = some (openIssue (waveAt s wv) sp true) := by
    rw [spcfgSet, setSpad_waves]
    exact entered_get ..
  obtain ⟨age, hage⟩ := leaveSlots_get hget
  rw [hexec]
  exact issue_over h rfl hbody hage ⟨rfl, rfl, rfl, rfl, rfl⟩

omit hv hlegal in
/-- The wave of a SPCFG that is over. -/
theorem waveAt_spcfgSet (v : Nat) : (waveAt (stepped (leaveSlots (spcfgSet s wv sp v) wv) wv sp) wv).regs = (waveAt s wv).regs ∧
    (getSplit (waveAt (stepped (leaveSlots (spcfgSet s wv sp v) wv) wv sp) wv) sp).pc = pcNext (getSplit (waveAt s wv) sp).pc := by
  obtain ⟨-, -, -, h4, hlen, -⟩ := ready_iff.1 h
  have hset : waveAt (spcfgSet s wv sp v) wv = openIssue (waveAt s wv) sp true := by
    rw [spcfgSet, waveAt, setSpad_waves]
    exact entered_wave ..
  obtain ⟨age, hage⟩ := waveAt_leaveSlots (spcfgSet s wv sp v) wv
  rw [hset] at hage
  have hsp : sp < (openIssue (waveAt s wv) sp true).ctl.splits.length := by rw [openIssue_length]; omega
  rw [stepped_pc (by rw [hage]; exact hsp), stepped, waveAt_goesTo, hage]
  refine ⟨rfl, ?_⟩
  change pcNext (getSplit (openIssue (waveAt s wv) sp true) sp).pc = _
  rw [openIssue_split (by omega)]
  rfl
end

/-- Settles O29: FENCE and the cache instructions by what their effect leaves, a flush by its two halves, and the checks of SRCFG and SPCFG in turn. -/
theorem fenceAndConfiguration : Obligations.FenceAndConfiguration := by
  refine ⟨fun y z a b s wv sp => ?caches, fun y d s wv sp => ?configuration⟩
  case caches =>
    intro c w sc u e e0 push done
    have hflush (drop : Bool) (w : Wave) (s : State) (line : Nat) : CachesOnly s (flushLine (coreOf w) (islandOf s w) drop s line) :=
      cachesOnly_flushLine ..
    have hpref (w : Wave) (s : State) (line : Nat) : CachesOnly s (prefLine (coreOf w) (islandOf s w) z.val s line) := cachesOnly_prefLine ..
    have hcflush (s : State) : exec (.cflush y a b) s = issue s y (useAddr a b) (quietBody a b fun w s => flushLine (coreOf w) (islandOf s w) false s) := rfl
    have hcinv (s : State) : exec (.cinv y a b) s = issue s y (useAddr a b) (quietBody a b fun w s => flushLine (coreOf w) (islandOf s w) true s) := rfl
    have hexpref (s : State) : exec (.pref y a b z) s = issue s y (useAddr a b) (quietBody a b fun w s => prefLine (coreOf w) (islandOf s w) z.val s) := rfl
    refine ⟨fun h hz => ?acquire, fun h hz hlv hclear => ?release, fun h hz hpend => ?waits, fun h hd i hi => ?parks, fun h hd => ?lanes,
      regs_quietBody (hflush true), fun core isl line drop hwf => ?flush⟩
    case acquire =>
      have hfenced : fenced s wv sp u.closes z sc = done e := by rw [fenced, if_neg (by omega)]; rfl
      rw [exec_fence_over y rfl rfl h (by omega)]
      exact congrArg (fun t => Host.Outcome.next (stepped t wv sp)) hfenced
    case release =>
      have hfenced : fenced s wv sp u.closes z sc = done push := by rw [fenced, if_pos hz]; rfl
      rw [exec_fence_over y rfl rfl h fun _ => ⟨hlv, (releaseClear_fenced_core hlv).trans hclear⟩]
      exact congrArg (fun t => Host.Outcome.next (stepped t wv sp)) hfenced
    case waits =>
      have hfenced : fenced s wv sp u.closes z sc = done push := by rw [fenced, if_pos hz]; rfl
      rw [← hfenced]
      refine exec_fence_waits y rfl rfl h hz ?_
      by_cases hlv : scopeLevel sc = 0
      · exact .inr ((releaseClear_fenced_core hlv).trans (hpend.resolve_left (not_not_intro hlv)))
      · exact .inl hlv
    case parks =>
      simp only [List.mem_cons, List.not_mem_nil, or_false] at hi
      rcases hi with rfl | rfl | rfl
      · rw [hcflush]; exact issue_quiet_parks h hd
      · rw [hcinv]; exact issue_quiet_parks h hd
      · rw [hexpref]; exact issue_quiet_parks h hd
    case lanes =>
      obtain ⟨t, ht, hcaches⟩ := quietBody_over hd hpref
      obtain ⟨ws, hover⟩ := walkOver_eq e0 wv
      have houter : (walkOver e0 wv).quarters = s.quarters ∧ (walkOver e0 wv).groups = s.groups ∧ (walkOver e0 wv).islands = s.islands ∧
          (walkOver e0 wv).cores = s.cores ∧ (walkOver e0 wv).dev = s.dev := by
        rw [hover]
        exact ⟨rfl, rfl, rfl, rfl, rfl⟩
      obtain ⟨hquarters, hgroups, hislands, hcores, hdev⟩ := houter
      refine ⟨issue_quiet_completes h (hflush false) hd, issue_quiet_completes h (hflush true) hd,
        ⟨t, issue_quiet_over h ht hcaches, hcaches.waves, hcaches.quarters.trans hquarters, hcaches.groups.trans hgroups,
          hcaches.islands.trans hislands, fun k => (hcaches.spad k).trans ?_, fun line hp => ?_⟩, fun hfar => ⟨?_, ?_, ?_⟩⟩
      · rw [coreAt, hcores]
        rfl
      · have := hcaches.poison line hp
        rwa [isPoisoned, hdev] at this
      · exact issue_quiet_over h (quietBody_far hd hfar) (cachesOnly_refl _)
      · exact issue_quiet_over h (quietBody_far hd hfar) (cachesOnly_refl _)
      · exact issue_quiet_over h (quietBody_far hd hfar) (cachesOnly_refl _)
    case flush =>
      refine ⟨fun k hk => ?_, fun pa hpa => ?_, (cachesOnly_flushLine ..).waves, fun l hl => findLine_flushLine_l1 core isl line hl,
        fun l hl => findLine_flushLine_slice core isl line hl⟩
      · have hline : (line * 128 + k) / 128 = line := by omega
        rw [homeByte_flushLine core isl line hwf, if_pos hline]
      · rw [homeByte_flushLine core isl line hwf, if_neg hpa]
  case configuration =>
    intro u w v e g cl tk ask set may
    have hfields (h18 : v / 2 ^ 18 = 0) (h13 : v / 2 ^ 13 % 8 = 0) (h16 : v / 2 ^ 16 % 4 < 2) : spcfgLegal v = true := by
      rw [spcfgLegal, decide_eq_true h18, decide_eq_true h13, decide_eq_true h16]
      rfl
    refine ⟨fun h hmay => exec_srcfg_denied h hmay, fun h hmay hbad => exec_srcfg_illegal h hmay hbad,
      fun h hmay hlegal hheld => exec_srcfg_waits h hmay hlegal hheld,
      fun h hmay hlegal hfree => ⟨exec_srcfg_writes h hmay hlegal hfree, setWays_ways .., fun k => regs_srcfgSet ..⟩,
      fun h hbad => exec_spcfg_illegal rfl h (spcfgLegal_eq_false.2 hbad), fun h h18 h13 h16 hgrant => exec_spcfg_denied rfl h (hfields h18 h13 h16) hgrant,
      fun h h18 h13 h16 hgrant => ⟨_, exec_spcfg_writes rfl h (hfields h18 h13 h16) hgrant, ?_⟩⟩
    obtain ⟨hregs, hpc⟩ := waveAt_spcfgSet h v
    have hout := sameOutside_leaveSlots (spcfgSet s wv sp v) wv
    have hgroup : groupAt (leaveSlots (spcfgSet s wv sp v) wv) w.group = { g with limit := v % 2 ^ 13, swz := v / 2 ^ 16 % 4 } :=
      (congrArg (tbGet {} · w.group) hout.groups).trans
        (groupAt_setSpad (entered s wv sp true) s.free w.group (v % 2 ^ 13) (v / 2 ^ 16 % 4))
    exact ⟨hgroup, hregs, hout.dev.trans (setSpad_dev ..), hpc, fun hswz hlim => hout.cores.trans (setSpad_cores _ hswz hlim)⟩

end Sys2Proof.Machine
end

section
/-!
What the memory instructions share (R181 to R195): what an access leaves of the machine, the outcome of its checks, and what follows it.
-/
namespace Sys2Proof.Machine

/-! Accesses at a level (R172, R188, R203). -/
theorem cachesOnly_syncLine_level (s : State) (core isl line level : Nat) : CachesOnly s (syncLine s core isl line level) := by
  have h1 : CachesOnly s (match findLine (coreAt s core).l1 line isl with
      | some l => pushLine level core s l
      | none => s) := by
    split
    · exact cachesOnly_pushLine ..
    · exact cachesOnly_refl s
  unfold syncLine
  dsimp only
  split
  · split
    · exact h1.trans (cachesOnly_pushSliceLine ..)
    · exact h1
  · exact h1
theorem cachesOnly_forgetL1 (s : State) (core isl pa n : Nat) : CachesOnly s (forgetL1 s core isl pa n) := cachesOnly_putCore rfl
theorem cachesOnly_pullBytes (s : State) (core isl pa n : Nat) : CachesOnly s (pullBytes s core isl pa n) := by
  have hput (s : State) (o : Option Line) : CachesOnly s (match o with
      | some l => homeWriteLine s l.line (dirtyBytes { l with dirty := l.dirty &&& byteMask pa n })
      | none => s) := by
    cases o with
    | none => exact cachesOnly_refl s
    | some l => exact cachesOnly_homeWriteLine ..
  have h1 := (hput s (findLine (clusterAt s (core / 8)).lines (pa / 128) isl)).trans (hput _ (findLine (coreAt s core).l1 (pa / 128) isl))
  exact (h1.trans (cachesOnly_putCluster ..)).trans (cachesOnly_putCore (h1.spad core).symm)
theorem cachesOnly_cacheRead (s : State) (core isl pa n cls : Nat) : CachesOnly s (cacheRead s core isl pa n cls).1 := by
  unfold cacheRead
  split
  · exact cachesOnly_refl s
  · exact cachesOnly_l1Fill ..
theorem cachesOnly_cacheWrite (s : State) (core isl pa cls : Nat) (bytes : List Nat) : CachesOnly s (cacheWrite s core isl pa cls bytes) := by
  unfold cacheWrite
  split
  · exact cachesOnly_homeWrite ..
  · exact (cachesOnly_l1Alloc ..).trans (cachesOnly_l1Store ..)
theorem cachesOnly_levelRead (s : State) (core isl pa n cls level : Nat) : CachesOnly s (levelRead s core isl pa n cls level).1 := by
  unfold levelRead
  split
  · exact cachesOnly_cacheRead ..
  split
  · exact cachesOnly_pullBytes ..
  have hsync := cachesOnly_syncLine_level s core isl (pa / 128) level
  dsimp only
  split
  · exact hsync.trans (cachesOnly_sliceFill ..)
  · exact hsync
theorem cachesOnly_levelWrite (s : State) (core isl pa cls level : Nat) (bytes : List Nat) :
    CachesOnly s (levelWrite s core isl pa cls level bytes) := by
  unfold levelWrite
  split
  · exact cachesOnly_cacheWrite ..
  have hsync := (cachesOnly_syncLine_level s core isl (pa / 128) level).trans (cachesOnly_forgetL1 _ core isl pa bytes.length)
  dsimp only
  split
  · exact hsync.trans ((cachesOnly_sliceAlloc ..).trans (cachesOnly_sliceStore ..))
  · exact hsync.trans (cachesOnly_homeWrite ..)
theorem cachesOnly_promotedWrite (s : State) (core isl pa : Nat) (bytes : List Nat) : CachesOnly s (promotedWrite s core isl pa bytes) :=
  ((cachesOnly_putCluster ..).trans (cachesOnly_homeWrite ..)).trans (cachesOnly_putCore rfl)
theorem cachesOnly_farPut (s : State) (cl o : Nat) (bytes : List Nat) : CachesOnly s (farPut s cl o bytes) := by
  unfold farPut
  dsimp only
  split
  · exact (cachesOnly_putCluster ..).trans (cachesOnly_clearPoison ..)
  · exact cachesOnly_putCluster ..

/-! Acquires, release records and promotion (R188, R204 to R206). -/
theorem cachesOnly_invalidateClean (s : State) (core : Nat) : CachesOnly s (invalidateClean s core) := cachesOnly_putCore rfl
theorem cachesOnly_acquireInvalidate (s : State) (core sc : Nat) : CachesOnly s (acquireInvalidate s core sc) := by
  unfold acquireInvalidate
  split
  · exact cachesOnly_refl s
  · exact cachesOnly_invalidateClean ..
theorem cachesOnly_setRecord (s : State) (line core kind : Nat) : CachesOnly s (setRecord s line core kind) :=
  cachesOnly_of_fields rfl rfl rfl rfl rfl rfl rfl
theorem cachesOnly_recordRelease (s : State) (line core sc : Nat) : CachesOnly s (recordRelease s line core sc) := by
  unfold recordRelease
  split
  · exact cachesOnly_refl s
  · exact cachesOnly_setRecord ..
theorem cachesOnly_recordStore (fenced : Bool) (rel : Option Nat) (core : Nat) (s : State) (line : Nat) :
    CachesOnly s (recordStore fenced rel core s line) := by
  unfold recordStore
  split
  · split
    · exact cachesOnly_setRecord ..
    · exact cachesOnly_recordRelease ..
  · split
    · exact cachesOnly_setRecord ..
    · exact cachesOnly_refl s
theorem cachesOnly_promote (s : State) (line k isl : Nat) : CachesOnly s (promote s line k isl) := by
  unfold promote
  split
  · exact cachesOnly_refl s
  split
  · exact cachesOnly_refl s
  split
  · exact cachesOnly_invalidateClean ..
  · exact ((cachesOnly_releasePush ..).trans (cachesOnly_setRecord ..)).trans (cachesOnly_invalidateClean ..)
theorem cachesOnly_clearCovered (level core : Nat) (s : State) (n : Nat) (xs : List Acc) : CachesOnly s (clearCovered level core s n xs) := by
  have hclear (P : Prop) [Decidable P] (s : State) (line : Nat) : CachesOnly s (if P then clearPoison s line else s) := by
    split
    · exact cachesOnly_clearPoison ..
    · exact cachesOnly_refl s
  exact (cachesOnly_foldl (fun _ _ => hclear ..) _ s).trans (cachesOnly_foldl (fun _ _ => hclear ..) _ _)
theorem cachesOnly_countConflicts (s : State) (w : Wave) (n : Nat) (xs : List Acc) : CachesOnly s (countConflicts s w n xs) := cachesOnly_putCore rfl

/-! Reads (R184). -/
theorem cachesOnly_readAcc (core isl n level : Nat) (s : State) (x : Acc) : CachesOnly s (readAcc core isl n level s x).1 := by
  unfold readAcc
  split
  · exact cachesOnly_refl s
  · exact cachesOnly_refl s
  · split
    · exact cachesOnly_refl s
    · exact cachesOnly_levelRead ..
  · exact cachesOnly_refl s
theorem cachesOnly_readAll (c : Ctx) (core isl n level : Nat) (xs : List Acc) (s : State) :
    CachesOnly s (readAll c core isl n level xs s).1 := by
  induction xs generalizing s with
  | nil => exact cachesOnly_refl s
  | cons x t ih => exact (cachesOnly_readAcc ..).trans (ih _)
theorem length_readAll (c : Ctx) (core isl n level : Nat) (xs : List Acc) (s : State) :
    (readAll c core isl n level xs s).2.length = xs.length := by
  induction xs generalizing s with
  | nil => rfl
  | cons x t ih => exact congrArg (· + 1) (ih _)
/-- Reads that reach no memory move nothing. -/
theorem readAll_state {xs : List Acc} (h : ∀ x ∈ xs, resMem x.res = false) (c : Ctx) (core isl n level : Nat) (s : State) :
    (readAll c core isl n level xs s).1 = s := by
  induction xs generalizing s with
  | nil => rfl
  | cons x t ih =>
    have hx : (readAcc core isl n level s x).1 = s := by
      have := h x List.mem_cons_self
      unfold readAcc
      split <;> simp_all [resMem]
    rw [readAll, hx]
    exact ih (fun v hv => h v (List.mem_cons_of_mem x hv)) s

/-! Writes (R185, R203, R209). -/
/-- `t` is `s` but for memory, its copies, islands' pools, and the commits that wave `wv` has begun. -/
structure AccessesOnly (wv : Nat) (s t : State) : Prop where
  quarters : t.quarters = s.quarters
  groups : t.groups = s.groups
  launches : t.launches = s.launches
  others : ∀ k, k ≠ wv → waveAt t k = waveAt s k
  wave : ∀ w, tbGet? s.waves wv = some w → ∃ n, tbGet? t.waves wv = some { w with commits := n }

theorem accessesOnly_of_waves {wv : Nat} {s t : State} (hq : t.quarters = s.quarters) (hg : t.groups = s.groups) (hl : t.launches = s.launches)
    (hw : t.waves = s.waves) : AccessesOnly wv s t where
  quarters := hq
  groups := hg
  launches := hl
  others k _ := by rw [waveAt, hw, waveAt]
  wave w h := ⟨w.commits, by rw [hw, h]⟩
theorem CachesOnly.accesses {s t : State} (h : CachesOnly s t) (wv : Nat) : AccessesOnly wv s t :=
  accessesOnly_of_waves h.quarters h.groups h.launches h.waves
theorem accessesOnly_refl (wv : Nat) (s : State) : AccessesOnly wv s s := (cachesOnly_refl s).accesses wv
theorem AccessesOnly.trans {wv : Nat} {s t u : State} (h : AccessesOnly wv s t) (g : AccessesOnly wv t u) : AccessesOnly wv s u where
  quarters := g.quarters.trans h.quarters
  groups := g.groups.trans h.groups
  launches := g.launches.trans h.launches
  others k hk := (g.others k hk).trans (h.others k hk)
  wave w hw := by
    obtain ⟨_, ht⟩ := h.wave w hw
    obtain ⟨n, hu⟩ := g.wave _ ht
    exact ⟨n, hu⟩
theorem accessesOnly_foldl {α : Type} {wv : Nat} {f : State → α → State} (hf : ∀ s x, AccessesOnly wv s (f s x)) (l : List α) (s : State) :
    AccessesOnly wv s (l.foldl f s) := by
  induction l generalizing s with
  | nil => exact accessesOnly_refl wv s
  | cons x t ih => exact (hf s x).trans (ih _)

theorem onWave_of_get {s : State} {wv : Nat} {w : Wave} (h : tbGet? s.waves wv = some w) (f : Wave → Wave) :
    onWave s wv f = putWave s wv (f w) := by simp only [onWave, h]
/-- Writing a wave leaves the rest of the machine. -/
theorem onWave_eq_waves (s : State) (wv : Nat) (f : Wave → Wave) :
    ∃ ws, onWave s wv f = { s with waves := ws } ∧ ∀ k, k ≠ wv → tbGet? ws k = tbGet? s.waves k := by
  unfold onWave
  split
  · exact ⟨s.waves, rfl, fun _ _ => rfl⟩
  · exact ⟨_, rfl, fun _ hk => tbGet?_tbPut_ne hk⟩
theorem sameOutside_onWave (s : State) (wv : Nat) (f : Wave → Wave) : SameOutside wv s (onWave s wv f) := by
  obtain ⟨ws, h, hne⟩ := onWave_eq_waves s wv f
  rw [h]
  exact ⟨fun k hk => by simp only [waveAt, tbGet, hne k hk], rfl, rfl, rfl, rfl, rfl, rfl⟩
theorem onWave_quarters (s : State) (wv : Nat) (f : Wave → Wave) : (onWave s wv f).quarters = s.quarters := by
  obtain ⟨ws, h, -⟩ := onWave_eq_waves s wv f
  rw [h]

theorem accessesOnly_startCommit (s : State) (wv isl pa : Nat) (bytes : List Nat) : AccessesOnly wv s (startCommit s wv isl pa bytes) := by
  have hwave := fun w (h : tbGet? s.waves wv = some w) => startCommit_wave h isl pa bytes
  unfold startCommit at hwave ⊢
  dsimp only at hwave ⊢
  split
  · exact accessesOnly_of_waves rfl rfl rfl rfl
  · next hnew =>
    have hout := sameOutside_onWave (putDev s { s.dev with commits := s.dev.commits ++ [{
      line := pa / 128, island := isl, wave := wv, writes := (List.range bytes.length).map fun j => (pa + j, BitVec.ofNat 8 (bytes.getD j 0)),
      start := s.dev.cycle }] }) wv fun w => { w with commits := w.commits + 1 }
    rw [if_neg hnew] at hwave
    exact ⟨onWave_quarters .., hout.groups, hout.launches, hout.waves, hwave⟩
theorem accessesOnly_spoilPools (wv isl va n : Nat) (s : State) : AccessesOnly wv s (spoilPools isl va n s) := by
  unfold spoilPools
  dsimp only
  split
  · exact accessesOnly_of_waves rfl rfl rfl rfl
  · exact accessesOnly_refl wv s
theorem accessesOnly_storedOver (wv : Nat) (s : State) (core pos n : Nat) : AccessesOnly wv s (storedOver s core pos n) := by
  unfold storedOver
  dsimp only
  split
  · exact accessesOnly_of_waves rfl rfl rfl rfl
  · exact accessesOnly_refl wv s
theorem accessesOnly_writeAcc (wv core isl level : Nat) (promoted : Bool) (bytes : List Nat) (s : State) (x : Acc) :
    AccessesOnly wv s (writeAcc wv core isl level promoted bytes s x) := by
  unfold writeAcc
  split
  case h_1 => exact (cachesOnly_farPut ..).accesses wv
  case h_2 => exact (accessesOnly_storedOver ..).trans (accessesOnly_of_waves rfl rfl rfl rfl)
  case h_3 pa pte _ =>
    refine AccessesOnly.trans ?_ (accessesOnly_spoilPools ..)
    split
    · exact (((cachesOnly_syncLine ..).trans (cachesOnly_forgetL1 ..)).accesses wv).trans (accessesOnly_startCommit ..)
    split
    · exact (cachesOnly_promotedWrite ..).accesses wv
    · exact (cachesOnly_levelWrite ..).accesses wv
  case h_4 => exact accessesOnly_refl wv s
theorem accessesOnly_atomAll (c : Ctx) (core isl et ao : Nat) (wide : Bool) (d : VReg) (level : Nat) (prom : Bool) (xs : List Acc) (s : State) :
    AccessesOnly c.wv s (atomAll c core isl et ao wide d level prom xs s).1 := by
  induction xs generalizing s with
  | nil => exact accessesOnly_refl c.wv s
  | cons x t ih => exact (((cachesOnly_readAcc ..).accesses c.wv).trans (accessesOnly_writeAcc ..)).trans (ih _)
theorem length_atomAll (c : Ctx) (core isl et ao : Nat) (wide : Bool) (d : VReg) (level : Nat) (prom : Bool) (xs : List Acc) (s : State) :
    (atomAll c core isl et ao wide d level prom xs s).2.length = xs.length := by
  induction xs generalizing s with
  | nil => rfl
  | cons x t ih => exact congrArg (· + 1) (ih _)

end Sys2Proof.Machine
end

section
/-!
The checks of an access (R182, R183, R314, R354): which lane decides them, and what the access then comes to.
-/
namespace Sys2Proof.Machine

/-! The lane that decides a check. -/
/-- `x` is the first access that fails the check, helper lanes apart. -/
def FirstFailing (f : LaneRes → Bool) (xs : List Acc) (x : Acc) : Prop :=
  ∃ l r, xs = l ++ x :: r ∧ (∀ v ∈ l, v.helper = true ∨ f v.res = false) ∧ x.helper = false ∧ f x.res = true
/-- Every access passes the check, helper lanes apart. -/
def NoneFails (f : LaneRes → Bool) (xs : List Acc) : Prop := ∀ x ∈ xs, x.helper = true ∨ f x.res = false

section
variable {f : LaneRes → Bool} {xs : List Acc} {x : Acc}

theorem find?_firstFailing (h : FirstFailing f xs x) : xs.find? (fun x => !x.helper && f x.res) = some x := by
  obtain ⟨l, r, hxs, hl, hx, hf⟩ := h
  refine List.find?_eq_some_iff_append.2 ⟨by simp [hx, hf], l, r, hxs, fun v hv => ?_⟩
  rcases hl v hv with h | h <;> simp [h]
theorem find?_eq_none_iff_noneFails : xs.find? (fun x => !x.helper && f x.res) = none ↔ NoneFails f xs := by
  simp only [List.find?_eq_none, NoneFails, Bool.and_eq_true, Bool.not_eq_true', not_and, Bool.not_eq_true]
  refine forall₂_congr fun v _ => ?_
  cases v.helper <;> simp
theorem firstAddr_firstFailing (h : FirstFailing f xs x) : firstAddr f xs = some x.addr := by rw [firstAddr, find?_firstFailing h]; rfl
theorem firstAddr_eq_none_iff : firstAddr f xs = none ↔ NoneFails f xs := by
  rw [firstAddr, Option.map_eq_none_iff, find?_eq_none_iff_noneFails]
end

section
variable (agent access : Nat) {xs : List Acc} {x : Acc}

theorem gateTrap_misaligned (h : FirstFailing resMis xs x) : gateTrap agent access xs = some (.trap 0x03 0 x.addr) := by
  rw [gateTrap, firstAddr_firstFailing h]
theorem gateTrap_denied (hm : NoneFails resMis xs) (h : FirstFailing resProt xs x) :
    gateTrap agent access xs = some (protTrap agent access xs x) := by
  rw [gateTrap, firstAddr_eq_none_iff.2 hm, find?_firstFailing h]
theorem gateTrap_range (hm : NoneFails resMis xs) (hp : NoneFails resProt xs) (h : FirstFailing resRange xs x) :
    gateTrap agent access xs = some (.trap 0x04 0 x.addr) := by
  rw [gateTrap, firstAddr_eq_none_iff.2 hm, find?_eq_none_iff_noneFails.2 hp, firstAddr_firstFailing h]
theorem gateTrap_eq_none_iff : gateTrap agent access xs = none ↔ NoneFails resMis xs ∧ NoneFails resProt xs ∧ NoneFails resRange xs := by
  rw [← firstAddr_eq_none_iff, ← find?_eq_none_iff_noneFails, ← firstAddr_eq_none_iff (f := resRange)]
  unfold gateTrap
  cases firstAddr resMis xs with
  | some _ => simp
  | none =>
    cases xs.find? fun x => !x.helper && resProt x.res with
    | some _ => simp
    | none => cases firstAddr resRange xs <;> simp
end

theorem foldl_min_addr (ys : List Acc) (a : Nat) :
    (ys.foldl (fun m y => min m y.addr) a = a ∨ ∃ y ∈ ys, ys.foldl (fun m y => min m y.addr) a = y.addr) ∧
    ∀ y ∈ ys, ys.foldl (fun m y => min m y.addr) a ≤ y.addr := by
  have hle (ys : List Acc) (a : Nat) : ys.foldl (fun m y => min m y.addr) a ≤ a := by
    induction ys generalizing a with
    | nil => exact le_rfl
    | cons y t ih => exact (ih _).trans (Nat.min_le_left ..)
  induction ys generalizing a with
  | nil => exact ⟨.inl rfl, fun y hy => by cases hy⟩
  | cons y t ih =>
    obtain ⟨hat, hall⟩ := ih (min a y.addr)
    refine ⟨?_, fun v hv => ?_⟩
    · rcases hat with h | ⟨v, hv, h⟩
      · rcases Nat.le_total a y.addr with hay | hay
        · exact .inl (by rw [List.foldl_cons, h, Nat.min_eq_left hay])
        · exact .inr ⟨y, List.mem_cons_self, by rw [List.foldl_cons, h, Nat.min_eq_right hay]⟩
      · exact .inr ⟨v, List.mem_cons_of_mem y hv, h⟩
    · rcases List.mem_cons.1 hv with rfl | hv
      · exact (hle t _).trans (Nat.min_le_right ..)
      · exact hall v hv

/-- R314: the trap of an engine range names the lowest offset that offends. -/
theorem protTrap_engine (agent access : Nat) {xs : List Acc} {x : Acc} (hx : x ∈ xs) (hh : x.helper = false) (hr : x.res = .engine) :
    ∃ v ∈ xs, v.helper = false ∧ v.res = .engine ∧ (∀ v' ∈ xs, v'.helper = false → v'.res = .engine → v.addr ≤ v'.addr) ∧
      protTrap agent access xs x = .trap 0x02 0 v.addr := by
  have hoff {y : Acc} : y ∈ xs.filter (fun y => !y.helper && resEngine y.res) ↔ y ∈ xs ∧ y.helper = false ∧ y.res = .engine := by
    have he : resEngine y.res = true ↔ y.res = .engine := by cases y.res <;> simp [resEngine]
    simp only [List.mem_filter, Bool.and_eq_true, Bool.not_eq_true', he]
  obtain ⟨hat, hall⟩ := foldl_min_addr (xs.filter fun y => !y.helper && resEngine y.res) x.addr
  rw [protTrap, hr]
  rcases hat with h | ⟨v, hv, h⟩
  · rw [h] at hall ⊢
    exact ⟨x, hx, hh, hr, fun v' hv' hh' hr' => hall v' (hoff.2 ⟨hv', hh', hr'⟩), rfl⟩
  · rw [h] at hall ⊢
    obtain ⟨hmem, hvh, hvr⟩ := hoff.1 hv
    exact ⟨v, hmem, hvh, hvr, fun v' hv' hh' hr' => hall v' (hoff.2 ⟨hv', hh', hr'⟩), rfl⟩

/-! Where the translations leave the machine (R182, R351). -/
theorem resolve_openIssue (sp : Space) (w : Wave) (i : Nat) (cl : Bool) (access n a : Nat) (s : State) :
    resolve s sp (openIssue w i cl) access n a = resolve s sp w access n a := by
  cases sp with
  | global => simp only [resolve, coreOf_openIssue, clusterOf_openIssue, islandOf_openIssue, privileged_openIssue]
  | scratch => simp only [resolve, openIssue_group]
/-- R182: how an instruction issues is no matter to its checks. -/
theorem resolveLanes_opened (sp : Space) (w : Wave) (i : Nat) (cl : Bool) (access n : Nat) (l : List (Nat × Nat)) (s : State) :
    resolveLanes sp (openIssue w i cl) access n l s = resolveLanes sp w access n l s := by
  induction l generalizing s with
  | nil => rfl
  | cons x t ih => simp only [resolveLanes, resolve_openIssue, coreOf_openIssue, islandOf_openIssue, openIssue_helpers, ih]
theorem cachesOnly_resolve (sp : Space) (w : Wave) (access n a : Nat) (s : State) : CachesOnly s (resolve s sp w access n a).1 := by
  cases sp with
  | global => exact cachesOnly_resolveGlobal ..
  | scratch => exact cachesOnly_refl s
theorem cachesOnly_resolved (sp : Space) (w : Wave) (access n : Nat) (l : List (Nat × Nat)) (s : State) :
    CachesOnly s (resolveLanes sp w access n l s).1 := by
  induction l generalizing s with
  | nil => exact cachesOnly_refl s
  | cons x t ih => exact (cachesOnly_resolve ..).trans (ih _)
theorem length_resolveLanes (sp : Space) (w : Wave) (access n : Nat) (l : List (Nat × Nat)) (s : State) :
    (resolveLanes sp w access n l s).2.length = l.length := by
  induction l generalizing s with
  | nil => rfl
  | cons x t ih => exact congrArg (· + 1) (ih _)

/-! The scratchpad takes no translation (R167). -/
theorem resolveLanes_scratch_state (w : Wave) (access n : Nat) (l : List (Nat × Nat)) (s : State) :
    (resolveLanes .scratch w access n l s).1 = s := by
  induction l with
  | nil => rfl
  | cons x t ih => exact ih
theorem resMem_resolveSpad (g : Group) (n off : Nat) : resMem (resolveSpad g n off) = false := by
  unfold resolveSpad
  repeat' split
  all_goals rfl
theorem resMem_resolveLanes_scratch (w : Wave) (access n : Nat) (l : List (Nat × Nat)) (s : State) :
    ∀ x ∈ (resolveLanes .scratch w access n l s).2, resMem x.res = false := by
  induction l with
  | nil => intro x hx; cases hx
  | cons p t ih =>
    intro x hx
    rcases List.mem_cons.1 hx with rfl | hx
    · exact resMem_resolveSpad ..
    · exact ih x hx

/-! What an access comes to (R182, R195). -/
/-- R183: the addresses that are checked: a helper lane makes loads only. -/
def askers (w : Wave) (access : Nat) (addrs : List (Nat × Nat)) : List (Nat × Nat) :=
  if access = 0 then addrs else addrs.filter fun p => !mbit w.ctl.helpers p.1
theorem askers_openIssue (w : Wave) (i : Nat) (cl : Bool) (access : Nat) (addrs : List (Nat × Nat)) :
    askers (openIssue w i cl) access addrs = askers w access addrs := by simp only [askers, openIssue_helpers]

section
variable {c : Ctx} {s : State} {sp : Space} {access n : Nat} {addrs : List (Nat × Nat)} {go : State → List Acc → State} {p : State × List Acc}
  (hp : resolveLanes sp (waveAt s c.wv) access n (askers (waveAt s c.wv) access addrs) s = p)
include hp

theorem accessWith_eq : accessWith c s sp access n addrs go =
    if (firstAddr resMis p.2).isNone && walkDue (waveAt s c.wv) p.2 then walkPark p.1 c.wv
    else match gateTrap 0 access p.2 with
      | some e => (walkOver (if (firstAddr resMis p.2).isSome then s else p.1) c.wv, e)
      | none => match blockedOn (walkOver (if (firstAddr resMis p.2).isSome then s else p.1) c.wv) (coreOf (waveAt s c.wv)) p.2 with
        | some wt => (walkOver (if (firstAddr resMis p.2).isSome then s else p.1) c.wv, .wait wt)
        | none => settleFault 0 c access (p.2.filter fun x => resAbsent x.res && !x.helper)
            (go (walkOver (if (firstAddr resMis p.2).isSome then s else p.1) c.wv) (p.2.filter fun x => !(resAbsent x.res && !x.helper))) := by
  subst hp
  rfl

theorem accessWith_misaligned {x : Acc} (h : FirstFailing resMis p.2 x) :
    accessWith c s sp access n addrs go = (walkOver s c.wv, .trap 0x03 0 x.addr) := by
  simp [accessWith_eq hp, firstAddr_firstFailing h, gateTrap_misaligned 0 access h]

section
variable (hm : NoneFails resMis p.2)
include hm

theorem accessWith_walks (hw : walkDue (waveAt s c.wv) p.2 = true) : accessWith c s sp access n addrs go = walkPark p.1 c.wv := by
  simp [accessWith_eq hp, firstAddr_eq_none_iff.2 hm, hw]

variable (hw : walkDue (waveAt s c.wv) p.2 = false)
include hw

theorem accessWith_traps {e : Eff} (h : gateTrap 0 access p.2 = some e) : accessWith c s sp access n addrs go = (walkOver p.1 c.wv, e) := by
  simp [accessWith_eq hp, firstAddr_eq_none_iff.2 hm, hw, h]
end

/-- R182, R195: an access that passes every check and waits for nothing ends with its lanes' accesses, and a replay with it. -/
theorem accessWith_passes (h : passes p (coreOf (waveAt s c.wv)) = true) :
    accessWith c s sp access n addrs go = (onWave (go (walkOver p.1 c.wv) p.2) c.wv endReplay, .done) := by
  rw [passes, Bool.and_eq_true, Bool.and_eq_true, Bool.and_eq_true] at h
  obtain ⟨⟨⟨hgate, hwalked⟩, hblocked⟩, habsent⟩ := h
  have hchecks := (gateTrap_eq_none_iff 0 0).1 (Option.isNone_iff_eq_none.1 hgate)
  have hpresent : ∀ x ∈ p.2, ¬ (resAbsent x.res && !x.helper) = true := List.any_eq_false.1 (by simpa only [Bool.not_eq_true'] using habsent)
  have hdue : walkDue (waveAt s c.wv) p.2 = false := by
    rw [walkDue, Bool.and_eq_false_iff]
    exact .inr (by simpa only [Bool.not_eq_true'] using hwalked)
  have hfree : blockedOn (walkOver p.1 c.wv) (coreOf (waveAt s c.wv)) p.2 = none := by
    obtain ⟨ws, hover⟩ := walkOver_eq p.1 c.wv
    rw [hover]
    exact Option.isNone_iff_eq_none.1 hblocked
  have hout : p.2.filter (fun x => resAbsent x.res && !x.helper) = [] := List.filter_eq_nil_iff.2 hpresent
  have hin : p.2.filter (fun x => !(resAbsent x.res && !x.helper)) = p.2 :=
    List.filter_eq_self.2 fun x hx => by rw [Bool.eq_false_iff.2 (hpresent x hx)]; rfl
  rw [accessWith_eq hp, firstAddr_eq_none_iff.2 hchecks.1, hdue]
  simp only [(gateTrap_eq_none_iff 0 access).2 hchecks, Option.isNone_none, Bool.and_false, Bool.false_eq_true, if_false, Option.isSome_none, hfree,
    hout, hin]
  rfl
end

end Sys2Proof.Machine
end

section
/-!
The traps of the memory instructions (R182, R187, R314, R354, R395).
-/
namespace Sys2Proof.Machine

/-- R183, R187: the wave with other helper bits. -/
def helped (m : Mask) (w : Wave) : Wave := { w with ctl := { w.ctl with helpers := m } }

/-! What an instruction leaves of the wave that issues it. -/
/-- The registers and the window are as before, and split `sp` may go on from where it is. -/
structure KeepsIssuer (sp : Nat) (w z : Wave) : Prop where
  regs : z.regs = w.regs
  win : z.win = w.win
  length : z.ctl.splits.length = w.ctl.splits.length
  wait : z.ctl.wait = w.ctl.wait
  valid : (getSplit z sp).valid = (getSplit w sp).valid
  held : (getSplit z sp).held = (getSplit w sp).held
  pc : (getSplit z sp).pc = (getSplit w sp).pc

theorem KeepsIssuer.trans {sp : Nat} {w z v : Wave} (h : KeepsIssuer sp w z) (g : KeepsIssuer sp z v) : KeepsIssuer sp w v where
  regs := g.regs.trans h.regs
  win := g.win.trans h.win
  length := g.length.trans h.length
  wait := g.wait.trans h.wait
  valid := g.valid.trans h.valid
  held := g.held.trans h.held
  pc := g.pc.trans h.pc
theorem keepsIssuer_of_splits {sp : Nat} {w z : Wave} (hr : z.regs = w.regs) (hv : z.win = w.win) (hs : z.ctl.splits = w.ctl.splits)
    (hw : z.ctl.wait = w.ctl.wait) : KeepsIssuer sp w z := by
  have hg : getSplit z sp = getSplit w sp := by rw [getSplit, hs, getSplit]
  exact ⟨hr, hv, by rw [hs], hw, by rw [hg], by rw [hg], by rw [hg]⟩
theorem keepsIssuer_putSplit {sp : Nat} {w : Wave} {x : Split} (h : sp < w.ctl.splits.length) (hv : x.valid = (getSplit w sp).valid)
    (hh : x.held = (getSplit w sp).held) (hp : x.pc = (getSplit w sp).pc) : KeepsIssuer sp w (putSplit w sp x) := by
  have hg := getSplit_putSplit_self w sp x h
  exact ⟨rfl, rfl, putSplit_length .., rfl, by rw [hg, hv], by rw [hg, hh], by rw [hg, hp]⟩
theorem keepsIssuer_refl (sp : Nat) (w : Wave) : KeepsIssuer sp w w := keepsIssuer_of_splits rfl rfl rfl rfl
theorem keepsIssuer_helped (sp : Nat) (m : Mask) (w : Wave) : KeepsIssuer sp w (helped m w) := keepsIssuer_of_splits rfl rfl rfl rfl
theorem keepsIssuer_setWalked (sp : Nat) (v : Bool) (w : Wave) : KeepsIssuer sp w (setWalked v w) := keepsIssuer_of_splits rfl rfl rfl rfl
theorem keepsIssuer_openIssue {sp : Nat} {w : Wave} (h : sp < w.ctl.splits.length) (cl : Bool) : KeepsIssuer sp w (openIssue w sp cl) := by
  have hagain (z : Wave) : KeepsIssuer sp z { z with ctl := { z.ctl with again := false } } := keepsIssuer_of_splits rfl rfl rfl rfl
  cases cl with
  | false => exact hagain w
  | true => exact (keepsIssuer_putSplit (x := closeRegion (getSplit w sp)) h rfl rfl rfl).trans (hagain _)

/-- How an instruction asks for its access: the addresses to check and the machine that checks them, and what of the wave is put back after. -/
structure Request where
  space : Space
  access : Nat
  n : Nat
  addrs : List (Nat × Nat)
  source : State
  back : State → State

/-- The machine after the translations, and where the checks leave each lane. -/
def Request.lanes (q : Request) (wv : Nat) : State × List Acc := resolveLanes q.space (waveAt q.source wv) q.access q.n q.addrs q.source

theorem lanes_of_askers {q : Request} {s : State} {wv sp : Nat} {addrs : List (Nat × Nat)} (h : askers (waveAt q.source wv) q.access addrs = q.addrs) :
    resolveLanes q.space (waveAt q.source (seen s wv sp).wv) q.access q.n (askers (waveAt q.source (seen s wv sp).wv) q.access addrs) q.source =
      q.lanes wv := by
  rw [Request.lanes, ← h]
  rfl

/-- The effect of an instruction that issues is the access of a request, performed by `go`. -/
structure Makes (s : State) (wv sp : Nat) (u : Usage) (body : Ctx → State → State × Eff) (go : State → List Acc → State) (q : Request) : Prop where
  effect : ∃ addrs, askers (waveAt q.source wv) q.access addrs = q.addrs ∧
    body (seen s wv sp) (entered s wv sp u.closes) = (q.back (accessWith (seen s wv sp) q.source q.space q.access q.n addrs go).1,
      (accessWith (seen s wv sp) q.source q.space q.access q.n addrs go).2)
  source : ∃ m, tbGet? q.source.waves wv = some (helped m (openIssue (waveAt s wv) sp u.closes))
  back : ∀ t z, tbGet? t.waves wv = some z → ∃ m, tbGet? (q.back t).waves wv = some (helped m z)

section
variable {s : State} {wv sp : Nat} {y : Bool} {u : Usage} {body : Ctx → State → State × Eff} {go : State → List Acc → State} {q : Request}
  (h : ready s wv sp u = true) (hc : u.collective = false) (hq : Makes s wv sp u body go q)

include hq in
theorem Makes.walkDue (xs : List Acc) : walkDue (waveAt q.source wv) xs = (!(waveAt s wv).ctl.walked && xs.any fun x => x.walked) := by
  obtain ⟨m, hm⟩ := hq.source
  rw [waveAt_of_some hm, Machine.walkDue, helped, openIssue_walked]

include hq in
/-- What a walk or its end leaves of the wave: its marks. -/
theorem Makes.wave {t : State} (ht : CachesOnly q.source t) :
    ∃ v m, tbGet? (q.back (walkOver t wv)).waves wv = some (helped m (setWalked v (openIssue (waveAt s wv) sp u.closes))) := by
  obtain ⟨m, hm⟩ := hq.source
  rw [← ht.waves] at hm
  obtain ⟨v, hv⟩ := walkOver_get hm
  obtain ⟨m', hm'⟩ := hq.back _ _ hv
  exact ⟨v, m', hm'⟩

/-- R182, R395: the machine after a trap of an access: its entry, from the machine that the checks have left. -/
def accessTrap (s : State) (wv sp : Nat) (q : Request) (t : State) (code addr trans : Nat) : State :=
  settleSlots (takeTrap (q.back (walkOver t wv)) wv
    { split := sp, code := code, tpc := (getSplit (waveAt s wv) sp).pc, taddr := addr, trans := trans }) wv

include h hc hq

theorem issue_request {t : State} {e : Eff}
    (he : ∀ addrs, askers (waveAt q.source wv) q.access addrs = q.addrs →
      accessWith (seen s wv sp) q.source q.space q.access q.n addrs go = (t, e)) :
    issue s y u body = .next (finish (q.back t) wv sp y false e) := by
  obtain ⟨addrs, haddrs, hb⟩ := hq.effect
  rw [he addrs haddrs] at hb
  exact issue_effect h hc hb

omit hc in
theorem finish_accessTrap {t : State} (ht : CachesOnly q.source t) (code addr : Nat) :
    finish (q.back (walkOver t wv)) wv sp y false (.trap code 0 addr) = accessTrap s wv sp q t code addr 0 ∧
    ∀ trans, finish (q.back (walkOver t wv)) wv sp y false (.denied code trans addr) = accessTrap s wv sp q t code addr trans := by
  obtain ⟨-, -, -, h4, hlen, -⟩ := ready_iff.1 h
  obtain ⟨v, m, hw⟩ := hq.wave ht
  have hkeep := (keepsIssuer_openIssue (show sp < (waveAt s wv).ctl.splits.length by omega) u.closes).trans
    ((keepsIssuer_setWalked sp v _).trans (keepsIssuer_helped sp m _))
  have hpc : (getSplit (waveAt (q.back (walkOver t wv)) wv) sp).pc = (getSplit (waveAt s wv) sp).pc := by rw [waveAt_of_some hw, hkeep.pc]
  simp only [finish, hpc]
  exact ⟨rfl, fun _ => rfl⟩

theorem issue_misaligned {x : Acc} (hx : FirstFailing resMis (q.lanes wv).2 x) :
    issue s y u body = .next (accessTrap s wv sp q q.source 0x03 x.addr 0) := by
  have he := issue_request (y := y) h hc hq fun _ ha => accessWith_misaligned (p := q.lanes wv) (go := go) (lanes_of_askers ha) hx
  rw [he]
  exact congrArg _ (finish_accessTrap h hq (cachesOnly_refl _) ..).1

section
variable (hm : NoneFails resMis (q.lanes wv).2)
include hm

theorem issue_walks (hw : walkDue (waveAt q.source wv) (q.lanes wv).2 = true) : ∃ t, issue s y u body = .next t ∧
    (waveAt t wv).ctl.wait = .walk ∧ (waveAt t wv).regs = (waveAt s wv).regs ∧ (waveAt t wv).out = [] ∧
    (getSplit (waveAt t wv) sp).pc = (getSplit (waveAt s wv) sp).pc := by
  obtain ⟨-, -, -, h4, hlen, -, -, -, hout, -⟩ := ready_iff.1 h
  obtain ⟨addrs, haddrs, hb⟩ := hq.effect
  have hpark : walkPark (q.lanes wv).1 (seen s wv sp).wv = (onWave (q.lanes wv).1 wv (setWalked true), .wait .walk) := rfl
  rw [accessWith_walks (p := q.lanes wv) (lanes_of_askers haddrs) hm hw, hpark] at hb
  obtain ⟨m, hsource⟩ := hq.source
  have hlanes : (q.lanes wv).1.waves = q.source.waves := (cachesOnly_resolved ..).waves
  rw [← hlanes] at hsource
  obtain ⟨m', hz⟩ := hq.back _ _ (onWave_get hsource (setWalked true))
  obtain ⟨t, age, ht, hwave⟩ := issue_waits (y := y) h hc hb hz
  have hkeep := (keepsIssuer_openIssue (show sp < (waveAt s wv).ctl.splits.length by omega) u.closes).trans
    ((keepsIssuer_setWalked sp true _).trans (keepsIssuer_helped sp m' _))
  have hnone : (helped m' (setWalked true (openIssue (waveAt s wv) sp u.closes))).out = [] := (openIssue_out ..).trans hout
  refine ⟨t, ht, ?_⟩
  rw [hwave]
  exact ⟨rfl, hkeep.regs, hnone, hkeep.pc⟩

variable (hw : walkDue (waveAt q.source wv) (q.lanes wv).2 = false)
include hw

theorem issue_refused {e : Eff} (he : gateTrap 0 q.access (q.lanes wv).2 = some e) :
    issue s y u body = .next (finish (q.back (walkOver (q.lanes wv).1 wv)) wv sp y false e) :=
  issue_request h hc hq fun _ ha => accessWith_traps (p := q.lanes wv) (lanes_of_askers ha) hm hw he

theorem issue_denied {x : Acc} {r l : Nat} (hx : FirstFailing resProt (q.lanes wv).2 x) (hr : x.res = .prot r l) :
    issue s y u body = .next (accessTrap s wv sp q (q.lanes wv).1 0x02 x.addr (if l = 0 then 0 else transWord 0 q.access r l)) := by
  rw [issue_refused h hc hq hm hw (gateTrap_denied 0 q.access hm hx), protTrap, hr]
  obtain ⟨htrap, hdenied⟩ := finish_accessTrap (y := y) h hq (t := (q.lanes wv).1) (cachesOnly_resolved ..) 0x02 x.addr
  by_cases hl : l = 0
  · simp only [if_pos hl, htrap]
  · simp only [if_neg hl, hdenied]

theorem issue_engine {x : Acc} (hx : FirstFailing resProt (q.lanes wv).2 x) (hr : x.res = .engine) :
    ∃ v ∈ (q.lanes wv).2, v.helper = false ∧ v.res = .engine ∧
      (∀ v' ∈ (q.lanes wv).2, v'.helper = false → v'.res = .engine → v.addr ≤ v'.addr) ∧
      issue s y u body = .next (accessTrap s wv sp q (q.lanes wv).1 0x02 v.addr 0) := by
  obtain ⟨l, r, hxs, -, hh, -⟩ := id hx
  have hmem : x ∈ (q.lanes wv).2 := by rw [hxs]; exact List.mem_append_right l List.mem_cons_self
  obtain ⟨v, hv, hvh, hvr, hleast, htrap⟩ := protTrap_engine 0 q.access hmem hh hr
  refine ⟨v, hv, hvh, hvr, hleast, ?_⟩
  rw [issue_refused h hc hq hm hw (gateTrap_denied 0 q.access hm hx), htrap]
  exact congrArg _ (finish_accessTrap h hq (cachesOnly_resolved ..) ..).1

theorem issue_outside {x : Acc} (hp : NoneFails resProt (q.lanes wv).2) (hx : FirstFailing resRange (q.lanes wv).2 x) :
    issue s y u body = .next (accessTrap s wv sp q (q.lanes wv).1 0x04 x.addr 0) := by
  rw [issue_refused h hc hq hm hw (gateTrap_range 0 q.access hm hp hx)]
  exact congrArg _ (finish_accessTrap h hq (cachesOnly_resolved ..) ..).1
end
end

/-- R182, R314, R354: in the order of the rule, the first check that fails decides what the issue of an access leaves. -/
def ChecksInOrder (s : State) (wv sp : Nat) (o : Result') (q : Request) : Prop :=
  let xs := (q.lanes wv).2
  let held := !(waveAt s wv).ctl.walked && xs.any fun x => x.walked
  (∀ x, FirstFailing resMis xs x → o = .next (accessTrap s wv sp q q.source 0x03 x.addr 0)) ∧
  (NoneFails resMis xs → held = true → ∃ t, o = .next t ∧ (waveAt t wv).ctl.wait = .walk ∧ (waveAt t wv).regs = (waveAt s wv).regs ∧
    (waveAt t wv).out = [] ∧ (getSplit (waveAt t wv) sp).pc = (getSplit (waveAt s wv) sp).pc) ∧
  (∀ x r l, NoneFails resMis xs → held = false → FirstFailing resProt xs x → x.res = .prot r l →
    o = .next (accessTrap s wv sp q (q.lanes wv).1 0x02 x.addr (if l = 0 then 0 else transWord 0 q.access r l))) ∧
  (∀ x, NoneFails resMis xs → held = false → FirstFailing resProt xs x → x.res = .engine → ∃ v ∈ xs, v.helper = false ∧ v.res = .engine ∧
    (∀ v' ∈ xs, v'.helper = false → v'.res = .engine → v.addr ≤ v'.addr) ∧ o = .next (accessTrap s wv sp q (q.lanes wv).1 0x02 v.addr 0)) ∧
  (∀ x, NoneFails resMis xs → held = false → NoneFails resProt xs → FirstFailing resRange xs x →
    o = .next (accessTrap s wv sp q (q.lanes wv).1 0x04 x.addr 0))

theorem checksInOrder {s : State} {wv sp : Nat} {y : Bool} {u : Usage} {body : Ctx → State → State × Eff} {go : State → List Acc → State}
    {q : Request} (h : ready s wv sp u = true) (hc : u.collective = false) (hq : Makes s wv sp u body go q) :
    ChecksInOrder s wv sp (issue s y u body) q := by
  unfold ChecksInOrder
  simp only [← hq.walkDue]
  exact ⟨fun x => issue_misaligned h hc hq, issue_walks h hc hq, fun x r l hm hw hx hr => issue_denied h hc hq hm hw hx hr,
    fun x hm hw hx hr => issue_engine h hc hq hm hw hx hr, fun x hm hw hp hx => issue_outside h hc hq hm hw hp hx⟩

/-! The requests. -/
section
variable (s : State) (wv sp : Nat) (cl : Bool)

/-- The request of a vector instruction: the addresses of its lanes. -/
def vectorRequest (space : Space) (access n : Nat) (a : VReg) (b : SReg) : Request where
  space := space
  access := access
  n := n
  addrs := askers (waveAt s wv) access (laneAddrs (seen s wv sp) a b)
  source := entered s wv sp cl
  back := id
/-- R187: the request of the scalar unit: one address, which is no lane's. -/
def scalarRequest (access n va : Nat) : Request where
  space := .global
  access := access
  n := n
  addrs := [(0, va)]
  source := onWave (entered s wv sp false) wv (helped ((waveAt s wv).ctl.helpers &&& ~~~ 1#128))
  back t := onWave t wv (helped (waveAt s wv).ctl.helpers)

variable {s wv sp cl}

theorem makes_vector {u : Usage} {body : Ctx → State → State × Eff} {go : State → List Acc → State} {space : Space} {access n : Nat} {a : VReg}
    {b : SReg} (hb : body (seen s wv sp) (entered s wv sp u.closes) =
      accessWith (seen s wv sp) (entered s wv sp u.closes) space access n (laneAddrs (seen s wv sp) a b) go) :
    Makes s wv sp u body go (vectorRequest s wv sp u.closes space access n a b) where
  effect := ⟨laneAddrs (seen s wv sp) a b, by rw [vectorRequest, entered_wave, askers_openIssue], hb⟩
  source := ⟨(waveAt s wv).ctl.helpers, by rw [vectorRequest, entered_get, ← openIssue_helpers (waveAt s wv) sp u.closes]; rfl⟩
  back _ z hz := ⟨z.ctl.helpers, hz⟩

/-- The machine on which the one address of the scalar unit is checked. -/
theorem scalarRequest_get (access n va : Nat) : tbGet? (scalarRequest s wv sp access n va).source.waves wv =
    some (helped ((waveAt s wv).ctl.helpers &&& ~~~ 1#128) (openIssue (waveAt s wv) sp false)) := onWave_get (entered_get ..) _

theorem makes_scalar {u : Usage} {go : State → List Acc → State} {access n va : Nat} {body : Ctx → State → State × Eff} (hu : u.closes = false)
    (hb : body (seen s wv sp) (entered s wv sp u.closes) = asScalar (entered s wv sp false) wv fun t =>
      accessWith (seen s wv sp) t .global access n [(0, va)] go) :
    Makes s wv sp u body go (scalarRequest s wv sp access n va) where
  effect := by
    refine ⟨[(0, va)], ?_, ?_⟩
    · have hbit (m : Mask) : mbit (m &&& ~~~ 1#128) 0 = false := by simp [mbit]
      rw [waveAt_of_some (scalarRequest_get access n va), askers, helped]
      split
      · rfl
      · exact List.filter_eq_self.2 fun p hp => by rw [List.mem_singleton.1 hp, hbit]; rfl
    · have hh : (waveAt (entered s wv sp false) wv).ctl.helpers = (waveAt s wv).ctl.helpers := by rw [entered_wave, openIssue_helpers]
      rw [hb, asScalar, hh]
      rfl
  source := ⟨_, by rw [hu]; exact scalarRequest_get ..⟩
  back _ _ hz := ⟨_, onWave_get hz _⟩
end

end Sys2Proof.Machine
end

section
/-!
The effects of the memory instructions (R184 to R188, R190, R205, R206), as the checks of an access and what its lanes then do.
-/
namespace Sys2Proof.Machine

/-- R94: the wave as the instruction leaves it, with a pending result unless no lane has read. -/
def delivered (wv : Nat) (s : State) (w : Wave) (vals : List (Nat × Nat × Nat)) (r : Result) : State :=
  if vals.isEmpty then putWave s wv w else pushResult (putWave s wv w) wv r

/-! Loads (R184, R188, R206). -/
section
variable (space : Space) (d a : VReg) (b : SReg) (z : Nat) (sync : Bool) (c : Ctx) (s : State) (xs : List Acc)

def loadLevel : Nat := if sync then scopeLevel (modeSC c.split.mode) else 0
/-- What comes before the reads: the invalidation of an acquire, or the conflicts of a scratchpad access. -/
def loadStart : State :=
  if sync then acquireInvalidate s (coreOf (waveAt s c.wv)) (modeSC c.split.mode)
  else if space = .scratch then countConflicts s (waveAt s c.wv) (accBytes z) xs else s
def loadReads : State × List (Nat × Nat × Nat) :=
  readAll c (coreOf (waveAt s c.wv)) (islandOf s (waveAt s c.wv)) (accBytes z) (loadLevel sync c) xs (loadStart space z sync c s xs)
/-- What comes after the reads: the promotion of an acquire at SC 7. -/
def loadMoved : State :=
  if sync ∧ modeSC c.split.mode = 7 then
    (accLines xs).foldl (fun t l => promote t l (coreOf (waveAt s c.wv)) (islandOf s (waveAt s c.wv))) (loadReads space z sync c s xs).1
  else (loadReads space z sync c s xs).1
/-- The wave that has noted its reads, and whether its acquire repeats the previous one. -/
def loadNoted (w : Wave) : Wave × Bool :=
  if sync then noteAcquire ((loadReads space z sync c s xs).2.map fun v => (v.1, acqAddr space v.2.1, extend z v.2.2))
    (xs.length = (laneAddrs c a b).length) (noteReads w c.sp (accKeys xs))
  else (noteReads w c.sp (accKeys xs), false)
/-- The lanes of a vector load. -/
def loadLanes : State :=
  let n := loadNoted space a b z sync c s xs (waveAt (loadMoved space z sync c s xs) c.wv)
  delivered c.wv (loadMoved space z sync c s xs) n.1 (loadReads space z sync c s xs).2
    { vecResult n.1 c.split.frame d.val (memRun z) ((loadReads space z sync c s xs).2.map fun v => (v.1, extend z v.2.2)) with
      repeats := n.2
      imprecise := poisonEvents (loadLevel sync c) (loadStart space z sync c s xs) c (coreOf (waveAt s c.wv)) (accBytes z) xs
      reads := linkEvents s c xs }
theorem loadBody_eq : loadBody space d a b z sync c s =
    accessWith c s space 0 (accBytes z) (laneAddrs c a b) (loadLanes space d a b z sync c) := rfl
end

/-! Stores (R185, R188, R205). -/
section
variable (space : Space) (d a : VReg) (b : SReg) (z : Nat) (rel : Bool) (c : Ctx) (s : State) (xs : List Acc)

/-- What comes before the writes: the push of a release, or the conflicts of a scratchpad access. -/
def storeStart : State :=
  if rel then releasePush s (coreOf (waveAt s c.wv)) (islandOf s (waveAt s c.wv)) (modeSC c.split.mode)
  else if space = .scratch then countConflicts s (waveAt s c.wv) (accBytes z) xs else s
def storeLevel : Nat := if rel then scopeLevel (modeSC c.split.mode) else 0
/-- The lanes' writes in order, their release records, and the poison that they clear. -/
def storeMoved : State :=
  clearCovered (storeLevel rel c) (coreOf (waveAt s c.wv))
    ((accLines xs).foldl (recordStore (waveAt s c.wv).fenced (if rel then some (modeSC c.split.mode) else none) (coreOf (waveAt s c.wv)))
      (xs.foldl (fun t x => writeAcc c.wv (coreOf (waveAt s c.wv)) (islandOf s (waveAt s c.wv)) (storeLevel rel c)
        (rel && modeSC c.split.mode == 7) (leBytes (accBytes z) (laneData c d (memRun z) x.lane)) t x) (storeStart space z rel c s xs)))
    (accBytes z) xs
/-- The lanes of a vector store. -/
def storeLanes : State := onWave (storeMoved space d z rel c s xs) c.wv fun w => noteWrites w c.sp (accKeys xs)
theorem storeBody_eq (h : rel = true → releaseClear s c.wv = true) : storeBody space d a b z rel c s =
    accessWith c s space 1 (accBytes z) (laneAddrs c a b) (storeLanes space d z rel c) := by
  have hno : ¬ (rel && !releaseClear s c.wv) = true := by
    cases rel with
    | false => simp
    | true => simp [h]
  exact if_neg hno
end

/-! The scalar unit (R187). -/
section
variable (d : SReg) (z : Nat) (c : Ctx) (s : State) (xs : List Acc)

def scalarReads : State × List (Nat × Nat × Nat) :=
  readAll c (coreOf (waveAt s c.wv)) (islandOf s (waveAt s c.wv)) (accBytes z) 0 xs s
/-- The access of LDU. -/
def lduLanes : State :=
  let t := onWave (scalarReads z c s xs).1 c.wv fun w => noteReads w c.sp (accKeys xs)
  if (scalarReads z c s xs).2.isEmpty then t
  else pushResult t c.wv {
    scalars := [d.val], sca := (scalarReads z c s xs).2.map fun v => (d.val, BitVec.ofNat 64 (extendTo 64 z v.2.2))
    imprecise := noLanes (poisonEvents 0 s c (coreOf (waveAt s c.wv)) (accBytes z) xs), reads := noLanes (linkEvents s c xs) }
def stuMoved : State :=
  (accLines xs).foldl (recordStore (waveAt s c.wv).fenced none (coreOf (waveAt s c.wv)))
    (xs.foldl (fun t x => writeAcc c.wv (coreOf (waveAt s c.wv)) (islandOf t (waveAt s c.wv)) 0 false (leBytes (accBytes z) (sca c d).toNat) t x) s)
/-- The access of STU. -/
def stuLanes : State := onWave (stuMoved d z c s xs) c.wv fun w => noteWrites w c.sp (accKeys xs)
end

/-! Atomics (R190, R191). -/
section
variable (space : Space) (d a : VReg) (b : SReg) (ord : Nat) (wide : Bool) (c : Ctx) (s : State) (xs : List Acc)

def atomScope : Nat := if space = .scratch then fenceScope (modeSC c.split.mode) else modeSC c.split.mode
/-- What comes before the lanes: conflicts, the push of a release, the invalidation of an acquire. -/
def atomStart : State :=
  let s0 := if space = .scratch then countConflicts s (waveAt s c.wv) (4 * atomWidth wide) xs else s
  let s1 := if releases ord then releasePush s0 (coreOf (waveAt s c.wv)) (islandOf s (waveAt s c.wv)) (atomScope space c) else s0
  if acquires ord then acquireInvalidate s1 (coreOf (waveAt s c.wv)) (atomScope space c) else s1
def atomActs : State × List (Nat × Nat × Nat) :=
  atomAll c (coreOf (waveAt s c.wv)) (islandOf s (waveAt s c.wv)) (modeET c.split.mode) (modeAO c.split.mode) wide d
    (scopeLevel (atomScope space c)) (atomScope space c == 7) xs (atomStart space ord wide c s xs)
/-- The lanes in order, the promotion, the release records, and the poison that they clear. -/
def atomMoved : State :=
  let lead := if atomScope space c = 7 then
      (accLines xs).foldl (fun t l => promote t l (coreOf (waveAt s c.wv)) (islandOf s (waveAt s c.wv))) (atomActs space d ord wide c s xs).1
    else (atomActs space d ord wide c s xs).1
  clearCovered (scopeLevel (atomScope space c)) (coreOf (waveAt s c.wv))
    ((accLines xs).foldl (recordStore (waveAt s c.wv).fenced (if releases ord then some (atomScope space c) else none) (coreOf (waveAt s c.wv))) lead)
    (4 * atomWidth wide) xs
/-- The wave that has noted its acquire, and whether that repeats the previous one. -/
def atomNoted (w : Wave) : Wave × Bool :=
  let lanes := (laneAddrs c a b).partition fun p => !mbit (waveAt s c.wv).ctl.helpers p.1
  if acquires ord then noteAcquire (((atomActs space d ord wide c s xs).2 ++ lanes.2.map fun (p : Nat × Nat) => (p.1, p.2, 0)).map
    fun (v : Nat × Nat × Nat) => (v.1, acqAddr space v.2.1, v.2.2)) (xs.length = lanes.1.length) w
  else (w, false)
/-- The lanes of an atomic. -/
def atomLanes : State :=
  let n := atomNoted space d a b ord wide c s xs (waveAt (atomMoved space d ord wide c s xs) c.wv)
  delivered c.wv (atomMoved space d ord wide c s xs) n.1 (atomActs space d ord wide c s xs).2
    { vecResult n.1 c.split.frame d.val (atomWidth wide) ((atomActs space d ord wide c s xs).2.map fun v => (v.1, v.2.2)) with
      repeats := n.2
      imprecise := poisonEvents (scopeLevel (atomScope space c)) (atomStart space ord wide c s xs) c (coreOf (waveAt s c.wv)) (4 * atomWidth wide) xs
      reads := linkEvents s c xs }
theorem atomBody_eq (h : releases ord = true → releaseClear s c.wv = true) : atomBody space d a b ord wide c s =
    accessWith c s space 2 (4 * atomWidth wide) (laneAddrs c a b) (atomLanes space d a b ord wide c) := by
  have hno : ¬ (releases ord && !releaseClear s c.wv) = true := by
    cases hrel : releases ord with
    | false => simp
    | true => simp [h hrel]
  exact if_neg hno
end

end Sys2Proof.Machine
end

section
/-!
The checks of each memory instruction (R182, R187, R314, R354).
-/
namespace Sys2Proof.Machine

/-- R181: the one address of the scalar unit. -/
def scalarVa (w : Wave) (a : SReg) (z : Nat) (i : BitVec 6) : Nat := ((((sget w a.val).toNat : Int) + i.toInt * (accBytes z : Nat)) % 2 ^ 64).toNat
theorem scalarAddr_seen (s : State) (wv sp : Nat) (a : SReg) (z : Nat) (i : BitVec 6) :
    scalarAddr (seen s wv sp) a z i = [(0, scalarVa (waveAt s wv) a z i)] := by
  rw [scalarAddr, wrapTo, scalarVa]
  norm_cast

theorem releases_iff {ord : Nat} : releases ord = true ↔ ord = 2 ∨ ord = 3 := by simp [releases]
theorem acquires_iff {ord : Nat} : acquires ord = true ↔ ord = 1 ∨ ord = 3 := by simp [acquires]

section
variable {s : State} {wv sp : Nat} (y : Bool) (d a : VReg) (b : SReg) {z : Fin 8} {space : Space}

theorem checksInOrder_load {sync : Bool} (h : ready s wv sp (useLoad d a b (memRun z.val)) = true) :
    ChecksInOrder s wv sp (issue s y (useLoad d a b (memRun z.val)) (loadBody space d a b z.val sync))
      (vectorRequest s wv sp false space 0 (accBytes z.val) a b) :=
  checksInOrder h rfl (makes_vector (loadBody_eq ..))
theorem checksInOrder_store {rel cl : Bool} (hrel : rel = true → releaseClear s wv = true)
    (h : ready s wv sp { useStore d a b (memRun z.val) with closes := cl } = true) :
    ChecksInOrder s wv sp (issue s y { useStore d a b (memRun z.val) with closes := cl } (storeBody space d a b z.val rel))
      (vectorRequest s wv sp cl space 1 (accBytes z.val) a b) :=
  checksInOrder h rfl (makes_vector (storeBody_eq _ _ _ _ _ _ _ _ fun hr => (releaseClear_entered ..).trans (hrel hr)))
theorem checksInOrder_atom {ord : Fin 4} {wide : Bool} {m : Lane} (hrel : ord.val = 2 ∨ ord.val = 3 → releaseClear s wv = true)
    (h : ready s wv sp (useAtom m d a b wide) = true) :
    ChecksInOrder s wv sp (issue s y (useAtom m d a b wide) (atomBody space d a b ord.val wide))
      (vectorRequest s wv sp true space 2 (4 * atomWidth wide) a b) :=
  checksInOrder h rfl (makes_vector (atomBody_eq _ _ _ _ _ _ _ _ fun hr => (releaseClear_entered ..).trans (hrel (releases_iff.1 hr))))
end

section
variable {s : State} {wv sp : Nat} (y : Bool) (d a : SReg) (z : Fin 8) (i : BitVec 6)

/-- R187: LDU makes the access of its one address. -/
theorem makes_ldu : Makes s wv sp (useSS d a) (fun c s => asScalar s c.wv fun t =>
      accessWith c t .global 0 (accBytes z.val) (scalarAddr c a z.val i) (lduLanes d z.val c))
    (lduLanes d z.val (seen s wv sp)) (scalarRequest s wv sp 0 (accBytes z.val) (scalarVa (waveAt s wv) a z.val i)) :=
  makes_scalar rfl (by rw [← scalarAddr_seen]; rfl)
theorem makes_stu : Makes s wv sp { sr := [d.val, a.val] } (fun c s => asScalar s c.wv fun t =>
      accessWith c t .global 1 (accBytes z.val) (scalarAddr c a z.val i) (stuLanes d z.val c))
    (stuLanes d z.val (seen s wv sp)) (scalarRequest s wv sp 1 (accBytes z.val) (scalarVa (waveAt s wv) a z.val i)) :=
  makes_scalar rfl (by rw [← scalarAddr_seen]; rfl)
theorem exec_ldu : exec (.ldu y d a z i) s = issue s y (useSS d a) (fun c s => asScalar s c.wv fun t =>
    accessWith c t .global 0 (accBytes z.val) (scalarAddr c a z.val i) (lduLanes d z.val c)) := rfl
theorem exec_stu : exec (.stu y d a z i) s = issue s y { sr := [d.val, a.val] } (fun c s => asScalar s c.wv fun t =>
    accessWith c t .global 1 (accBytes z.val) (scalarAddr c a z.val i) (stuLanes d z.val c)) := rfl
end

section
variable {s : State} {wv sp : Nat} (h : s.cur = some (wv, sp)) (y : Bool) (d a : VReg) (b : SReg)
include h
/-- R399: a release at system scope closes the region. -/
theorem exec_strel (z : Fin 8) : exec (.strel y d a b z) s =
    issue s y { useStore d a b (memRun z.val) with closes := modeSC (seen s wv sp).split.mode == 6 } (storeBody .global d a b z.val true) := by
  have he : exec (.strel y d a b z) s = execStrel y d a b z s := rfl
  rw [he, execStrel, curMode_seen h]
theorem exec_atom (ord : Fin 4) (wide : Bool) : exec (.atom y d a b ord wide) s =
    issue s y (useAtom (seen s wv sp).split.mode d a b wide) (atomBody .global d a b ord.val wide) := by
  have he : exec (.atom y d a b ord wide) s = execAtom y d a b ord wide s := rfl
  rw [he, execAtom, curMode_seen h]
theorem exec_atoms (ord : Fin 4) (wide : Bool) : exec (.atoms y d a b ord wide) s =
    issue s y (useAtom (seen s wv sp).split.mode d a b wide) (atomBody .scratch d a b ord.val wide) := by
  have he : exec (.atoms y d a b ord wide) s = execAtoms y d a b ord wide s := rfl
  rw [he, execAtoms, curMode_seen h]
end

/-- Settles O25: every memory instruction makes its access through the same checks, whose outcomes `checksInOrder` gives. -/
theorem accessTraps : Obligations.AccessTraps := by
  unfold Obligations.AccessTraps
  intro y d a b q r z ord wide o s wv sp w c n first never checks vector scalar load store atom
  have hvector {i : Instr} {u : Usage} {space : Space} {access n : Nat}
      (hi : ready s wv sp u = true → ChecksInOrder s wv sp (exec i s) (vectorRequest s wv sp u.closes space access n a b)) :
      vector i u space access n := hi
  have hscalar {i : Instr} {u : Usage} {access : Nat} (hi : ready s wv sp u = true →
      ChecksInOrder s wv sp (exec i s) (scalarRequest s wv sp access n (scalarVa w r z.val o))) : scalar i u access := hi
  have hwidth : (if wide then 8 else 4) = 4 * atomWidth wide := by cases wide <;> rfl
  rw [hwidth]
  refine ⟨hvector (checksInOrder_load y d a b), hvector (checksInOrder_load y d a b), hvector (checksInOrder_load y d a b),
    hvector (checksInOrder_store y d a b nofun), hvector (checksInOrder_store y d a b nofun),
    fun hrel => hvector fun h => ?strel, fun hrel => ⟨hvector fun h => ?atom, hvector fun h => ?atoms⟩, hscalar fun h => ?ldu, hscalar fun h => ?stu⟩
  case strel =>
    rw [exec_strel (ready_iff.1 h).2.1]
    exact checksInOrder_store y d a b (fun _ => hrel) h
  case atom =>
    rw [exec_atom (ready_iff.1 h).2.1]
    exact checksInOrder_atom y d a b hrel h
  case atoms =>
    rw [exec_atoms (ready_iff.1 h).2.1]
    exact checksInOrder_atom y d a b hrel h
  case ldu =>
    rw [exec_ldu]
    exact checksInOrder h rfl (makes_ldu ..)
  case stu =>
    rw [exec_stu]
    exact checksInOrder h rfl (makes_stu ..)

end Sys2Proof.Machine
end

section
/-!
What follows an access that passes its checks and waits for nothing (R94, R95, R182, R195).
-/
namespace Sys2Proof.Machine

/-! The wave that issues. -/
theorem keepsIssuer_noteReads {sp : Nat} {w : Wave} (h : sp < w.ctl.splits.length) (keys : List Nat) : KeepsIssuer sp w (noteReads w sp keys) := by
  unfold noteReads
  dsimp only
  split
  · exact keepsIssuer_putSplit h rfl rfl rfl
  · exact keepsIssuer_refl sp w
theorem keepsIssuer_noteWrites {sp : Nat} {w : Wave} (h : sp < w.ctl.splits.length) (keys : List Nat) : KeepsIssuer sp w (noteWrites w sp keys) := by
  unfold noteWrites
  dsimp only
  split
  · exact keepsIssuer_putSplit h rfl rfl rfl
  · exact keepsIssuer_refl sp w
theorem keepsIssuer_commits (sp : Nat) (n : Nat) (w : Wave) : KeepsIssuer sp w { w with commits := n } := keepsIssuer_of_splits rfl rfl rfl rfl
theorem keepsIssuer_endReplay (sp : Nat) (w : Wave) : KeepsIssuer sp w (endReplay w) := by
  unfold endReplay
  split
  · exact keepsIssuer_of_splits rfl rfl rfl rfl
  · exact keepsIssuer_refl sp w
theorem keepsIssuer_noteAcquire (sp : Nat) (vals : List (Nat × Nat × Nat)) (whole : Bool) (w : Wave) : KeepsIssuer sp w (noteAcquire vals whole w).1 := by
  unfold noteAcquire
  dsimp only
  split
  · exact keepsIssuer_of_splits rfl rfl rfl rfl
  · exact keepsIssuer_of_splits rfl rfl rfl rfl
theorem noteReads_out (w : Wave) (sp : Nat) (keys : List Nat) : (noteReads w sp keys).out = w.out := by
  unfold noteReads
  dsimp only
  split <;> rfl
theorem noteWrites_out (w : Wave) (sp : Nat) (keys : List Nat) : (noteWrites w sp keys).out = w.out := by
  unfold noteWrites
  dsimp only
  split <;> rfl
theorem noteWrites_evt (w : Wave) (sp : Nat) (keys : List Nat) : (noteWrites w sp keys).evt = w.evt := by
  unfold noteWrites
  dsimp only
  split <;> rfl
theorem noteAcquire_out (vals : List (Nat × Nat × Nat)) (whole : Bool) (w : Wave) : (noteAcquire vals whole w).1.out = w.out := by
  unfold noteAcquire
  dsimp only
  split <;> rfl
theorem endReplay_out (w : Wave) : (endReplay w).out = w.out := by
  unfold endReplay
  split <;> rfl
/-- The registers that a result names depend on the window alone. -/
theorem vecResult_congr {w z : Wave} (h : z.win = w.win) (f : Frame) (d run : Nat) (vals : List (Nat × Nat)) :
    vecResult z f d run vals = vecResult w f d run vals := by
  have hrow (k : Nat) : rowOf z f (d + k) = rowOf w f (d + k) := by simp only [rowOf, ringRow, h]
  simp only [vecResult, hrow]

/-! The pending result (R94). -/
section
variable (wv : Nat) (s : State) (w : Wave) (vals : List (Nat × Nat × Nat)) (r : Result)

/-- The results that the instruction adds. -/
def addedResults : List Result := if vals.isEmpty then [] else [{ r with id := s.nextId }]
theorem map_addedResults {β : Type} {f : Result → β} (hf : ∀ i, f { r with id := i } = f r) :
    (addedResults s vals r).map f = if vals = [] then [] else [f r] := by
  unfold addedResults
  cases vals with
  | nil => rfl
  | cons v t => exact congrArg (fun x => [x]) (hf s.nextId)
/-- The wave with further pending results. -/
def gains (rs : List Result) (w : Wave) : Wave := { w with out := w.out ++ rs }
theorem keepsIssuer_gains (sp : Nat) (rs : List Result) (w : Wave) : KeepsIssuer sp w (gains rs w) := keepsIssuer_of_splits rfl rfl rfl rfl
theorem delivered_get : tbGet? (delivered wv s w vals r).waves wv = some (gains (addedResults s vals r) w) := by
  unfold delivered addedResults gains
  split
  · rw [List.append_nil, putWave_waves, tbGet?_tbPut_self]
  · exact onWave_get (s := { putWave s wv w with nextId := s.nextId + 1 }) tbGet?_tbPut_self _
theorem sameOutside_delivered : SameOutside wv s (delivered wv s w vals r) := by
  unfold delivered
  split
  · exact sameOutside_putWave ..
  · refine (sameOutside_putWave wv s w).trans (SameOutside.trans ?_ (sameOutside_onWave ..))
    exact ⟨fun _ _ => rfl, rfl, rfl, rfl, rfl, rfl, rfl⟩
theorem delivered_quarters : (delivered wv s w vals r).quarters = s.quarters := by
  unfold delivered
  split
  · rfl
  · exact onWave_quarters (putWave { s with nextId := s.nextId + 1 } wv w) wv _
end

/-! The machine on which the lanes of an access act (R182). -/
/-- `t` is `s` as the instruction of split `sp` of wave `wv` acts on it: the wave may go on as it issued, and no other wave has changed. -/
structure ActsFor (s : State) (wv sp : Nat) (cl : Bool) (t : State) : Prop where
  resident : tbGet? t.waves wv = some (waveAt t wv)
  keeps : KeepsIssuer sp (openIssue (waveAt s wv) sp cl) (waveAt t wv)
  out : (waveAt t wv).out = (waveAt s wv).out
  group : (waveAt t wv).group = (waveAt s wv).group
  quarter : (waveAt t wv).quarter = (waveAt s wv).quarter
  width : (waveAt t wv).width = (waveAt s wv).width
  fenced : (waveAt t wv).fenced = (waveAt s wv).fenced
  others : ∀ k, k ≠ wv → waveAt t k = waveAt s k
  quarters : t.quarters = s.quarters
  groups : t.groups = s.groups
  launches : t.launches = s.launches

theorem islandOf_congr {s t : State} (hg : t.groups = s.groups) (hl : t.launches = s.launches) (w : Wave) : islandOf t w = islandOf s w := by
  simp only [islandOf, launchOf, launchAt, groupAt, hg, hl]
/-- A fold of accesses acts for one island throughout. -/
theorem foldl_islandOf {α : Type} {f : Nat → State → α → State} (hf : ∀ i t x, (f i t x).groups = t.groups ∧ (f i t x).launches = t.launches)
    (w : Wave) (l : List α) (s : State) : l.foldl (fun t x => f (islandOf t w) t x) s = l.foldl (f (islandOf s w)) s := by
  induction l generalizing s with
  | nil => rfl
  | cons x t ih =>
    obtain ⟨hg, hl⟩ := hf (islandOf s w) s x
    rw [List.foldl_cons, List.foldl_cons, ih, islandOf_congr hg hl]
theorem openIssue_fenced (w : Wave) (i : Nat) (cl : Bool) : (openIssue w i cl).fenced = w.fenced := by cases cl <;> rfl
theorem walkOver_islands (s : State) (wv : Nat) : (walkOver s wv).islands = s.islands := by
  obtain ⟨ws, h⟩ := walkOver_eq s wv
  rw [h]

theorem actsFor_entered (s : State) (wv sp : Nat) (cl : Bool) : ActsFor s wv sp cl (entered s wv sp cl) := by
  have hwave := entered_wave s wv sp cl
  refine ⟨by rw [hwave, entered_get], ?_, ?_, ?_, ?_, ?_, ?_, (sameOutside_putWave wv { s with free := s.free + 2 } _).waves, rfl, rfl, rfl⟩
  · rw [hwave]; exact keepsIssuer_refl ..
  · rw [hwave, openIssue_out]
  · rw [hwave, openIssue_group]
  · rw [hwave, openIssue_quarter]
  · rw [hwave, openIssue_width]
  · rw [hwave, openIssue_fenced]

section
variable {s : State} {wv sp : Nat} {cl : Bool} {t : State} (h : ActsFor s wv sp cl t)
include h

/-- An update of the wave that the end of an instruction does not look at. -/
theorem ActsFor.onWave {f : Wave → Wave} (hf : ∀ w, KeepsIssuer sp w (f w) ∧ (f w).out = w.out ∧ (f w).group = w.group ∧ (f w).quarter = w.quarter ∧
    (f w).width = w.width ∧ (f w).fenced = w.fenced) : ActsFor s wv sp cl (onWave t wv f) := by
  obtain ⟨hkeeps, hout, hgroup, hquarter, hwidth, hfenced⟩ := hf (waveAt t wv)
  have hget := onWave_get h.resident f
  have houtside := sameOutside_onWave t wv f
  have hwave := waveAt_of_some hget
  refine ⟨by rw [hwave, hget], ?_, ?_, ?_, ?_, ?_, ?_, fun k hk => (houtside.waves k hk).trans (h.others k hk), (onWave_quarters ..).trans h.quarters,
    houtside.groups.trans h.groups, houtside.launches.trans h.launches⟩
  all_goals rw [hwave]
  · exact h.keeps.trans hkeeps
  · exact hout.trans h.out
  · exact hgroup.trans h.group
  · exact hquarter.trans h.quarter
  · exact hwidth.trans h.width
  · exact hfenced.trans h.fenced
theorem ActsFor.helped (m : Mask) : ActsFor s wv sp cl (Machine.onWave t wv (helped m)) :=
  h.onWave fun w => ⟨keepsIssuer_helped sp m w, rfl, rfl, rfl, rfl, rfl⟩
theorem ActsFor.walkOver : ActsFor s wv sp cl (walkOver t wv) := by
  unfold Machine.walkOver
  split
  · exact h.onWave fun w => ⟨keepsIssuer_setWalked sp false w, rfl, rfl, rfl, rfl, rfl⟩
  · exact h
theorem ActsFor.accesses {m : State} (hm : AccessesOnly wv t m) : ActsFor s wv sp cl m := by
  obtain ⟨n, hn⟩ := hm.wave _ h.resident
  have hwave := waveAt_of_some hn
  refine ⟨by rw [hwave, hn], ?_, ?_, ?_, ?_, ?_, ?_, fun k hk => (hm.others k hk).trans (h.others k hk), hm.quarters.trans h.quarters,
    hm.groups.trans h.groups, hm.launches.trans h.launches⟩
  all_goals rw [hwave]
  · exact h.keeps.trans (keepsIssuer_commits ..)
  · exact h.out
  · exact h.group
  · exact h.quarter
  · exact h.width
  · exact h.fenced
/-- R182: after the translations, and with no walk to wait for. -/
theorem ActsFor.checked (space : Space) (w : Wave) (access n : Nat) (addrs : List (Nat × Nat)) :
    ActsFor s wv sp cl (Machine.walkOver (resolveLanes space w access n addrs t).1 wv) :=
  (h.accesses ((cachesOnly_resolved ..).accesses wv)).walkOver

theorem ActsFor.core : coreOf (waveAt t wv) = coreOf (waveAt s wv) := by rw [coreOf, h.quarter, coreOf]
theorem ActsFor.island (r : State) : Machine.islandOf r (waveAt t wv) = Machine.islandOf r (waveAt s wv) := by
  rw [Machine.islandOf, launchOf, h.group, Machine.islandOf, launchOf]
theorem ActsFor.islandOf (w : Wave) : islandOf t w = Machine.islandOf s w := islandOf_congr h.groups h.launches w
theorem ActsFor.conflicts (r : State) (n : Nat) (xs : List Acc) : countConflicts r (waveAt t wv) n xs = countConflicts r (waveAt s wv) n xs := by
  simp only [countConflicts, h.core, h.group, h.width]
/-- R95: of an instruction that is ready, the split entry is there. -/
theorem ActsFor.split (hsp : sp < (waveAt s wv).ctl.splits.length) : sp < (waveAt t wv).ctl.splits.length := by
  rwa [h.keeps.length, openIssue_length]
/-- R94: what a wave's registers are waits for the result. -/
theorem ActsFor.regs (k : Nat) : (waveAt t k).regs = (waveAt s k).regs ∧ (waveAt t k).out = (waveAt s k).out := by
  by_cases hk : k = wv
  · rw [hk, h.keeps.regs, openIssue_regs]
    exact ⟨rfl, h.out⟩
  · rw [h.others k hk]
    exact ⟨rfl, rfl⟩
end

/-! The end of the instruction (R95). -/
/-- What an instruction whose effect leaves `r`, with its wave as `z`, leaves as `t`. -/
structure Completes (s : State) (wv sp : Nat) (y : Bool) (r : State) (z : Wave) (t : State) : Prop where
  outside : SameOutside wv r t
  quarters : y = false → t.quarters = r.quarters
  regs : (waveAt t wv).regs = (waveAt s wv).regs
  win : (waveAt t wv).win = (waveAt s wv).win
  out : (waveAt t wv).out = z.out
  helpers : (waveAt t wv).ctl.helpers = z.ctl.helpers
  pc : (getSplit (waveAt t wv) sp).pc = ((getSplit (waveAt s wv) sp).pc + 4) % 2 ^ 57

section
variable {s : State} {wv sp : Nat} {y : Bool} {u : Usage} {body : Ctx → State → State × Eff} (h : ready s wv sp u = true) (hc : u.collective = false)
include h hc

theorem issue_completes {r : State} {z : Wave} (hb : body (seen s wv sp) (entered s wv sp u.closes) = (r, .done))
    (hz : tbGet? r.waves wv = some z) (hk : KeepsIssuer sp (openIssue (waveAt s wv) sp u.closes) z) :
    ∃ t, issue s y u body = .next t ∧ Completes s wv sp y r z t := by
  obtain ⟨-, -, -, h4, hlen, hvalid, hheld, hwait, -⟩ := ready_iff.1 h
  have hkeep := (keepsIssuer_openIssue (show sp < (waveAt s wv).ctl.splits.length by omega) u.closes).trans hk
  have hwave := waveAt_of_some hz
  have hsteady : steady r wv sp = true := by
    rw [steady_iff, hwave]
    exact ⟨by rw [hz]; rfl, hkeep.length.trans hlen, hkeep.valid.trans hvalid, hkeep.held.trans hheld, hkeep.wait.trans hwait⟩
  obtain ⟨houtside, age, hover⟩ := finish_done_over (y := y) (coll := false) h4 hsteady nofun
  have hsplit := getSplit_overWave (w := z) y age (show sp < z.ctl.splits.length by rw [hkeep.length]; omega)
  refine ⟨_, issue_effect h hc hb, ?_⟩
  rw [hwave] at hover
  refine ⟨houtside, fun hy => ?_, ?_, ?_, ?_, ?_, ?_⟩
  · rw [finish_done (coll := false) h4 hsteady nofun (.inl hy)]
    rfl
  · rw [hover]; exact hkeep.regs
  · rw [hover]; exact hkeep.win
  · rw [hover]; rfl
  · rw [hover]; rfl
  · rw [hover, hsplit, ← hkeep.pc]; rfl

/-- A vector access that passes: its lanes act, and the instruction is over. -/
theorem vector_completes {go : State → List Acc → State} {space : Space} {access n : Nat} {addrs who : List (Nat × Nat)} {p : State × List Acc} {z : Wave}
    (hb : body (seen s wv sp) (entered s wv sp u.closes) = accessWith (seen s wv sp) (entered s wv sp u.closes) space access n addrs go)
    (hwho : askers (waveAt s wv) access addrs = who)
    (hp : resolveLanes space (waveAt s wv) access n who (entered s wv sp u.closes) = p) (hpass : passes p (coreOf (waveAt s wv)) = true)
    (hz : tbGet? (go (walkOver p.1 wv) p.2).waves wv = some z) (hk : KeepsIssuer sp (openIssue (waveAt s wv) sp u.closes) z) :
    body (seen s wv sp) (entered s wv sp u.closes) = (onWave (go (walkOver p.1 wv) p.2) wv endReplay, .done) ∧
    ∃ t, issue s y u body = .next t ∧ Completes s wv sp y (go (walkOver p.1 wv) p.2) z t := by
  have hw : waveAt (entered s wv sp u.closes) (seen s wv sp).wv = openIssue (waveAt s wv) sp u.closes := entered_wave ..
  have hlanes : resolveLanes space (waveAt (entered s wv sp u.closes) (seen s wv sp).wv) access n
      (askers (waveAt (entered s wv sp u.closes) (seen s wv sp).wv) access addrs) (entered s wv sp u.closes) = p := by
    rw [hw, askers_openIssue, hwho, resolveLanes_opened, hp]
  have hdone := hb.trans (accessWith_passes hlanes (by rw [hw, coreOf_openIssue, hpass]))
  obtain ⟨t, ht, hcomp⟩ := issue_completes (y := y) h hc hdone (onWave_get hz endReplay) (hk.trans (keepsIssuer_endReplay sp z))
  refine ⟨hdone, t, ht, (sameOutside_onWave ..).trans hcomp.outside, fun hy => (hcomp.quarters hy).trans (onWave_quarters ..), hcomp.regs, hcomp.win,
    hcomp.out.trans (endReplay_out z), hcomp.helpers.trans ?_, hcomp.pc⟩
  unfold endReplay
  split <;> rfl

/-- R94: what an instruction whose lanes `who` read leaves: a pending result `r`, on the machine `m` that their accesses have left. -/
structure Delivers (s : State) (wv sp : Nat) (y : Bool) (who : List (Nat × Nat)) (m : State) (r : Result) (t : State) : Prop where
  outside : SameOutside wv m t
  quarters : y = false → t.quarters = m.quarters
  regs : (waveAt t wv).regs = (waveAt s wv).regs
  win : (waveAt t wv).win = (waveAt s wv).win
  out : (waveAt t wv).out.map (fun r => (r.rows, r.keys, r.vec)) = if who = [] then [] else [(r.rows, r.keys, r.vec)]
  pc : (getSplit (waveAt t wv) sp).pc = ((getSplit (waveAt s wv) sp).pc + 4) % 2 ^ 57

theorem vector_delivers {go : State → List Acc → State} {space : Space} {access n : Nat} {addrs who : List (Nat × Nat)} {p : State × List Acc}
    {m : State} {note : Wave → Wave} {vals : List (Nat × Nat × Nat)} {r : Result} {f : Frame} {d run : Nat} {elems : List (Nat × Nat)}
    (hb : body (seen s wv sp) (entered s wv sp u.closes) = accessWith (seen s wv sp) (entered s wv sp u.closes) space access n addrs go)
    (hwho : askers (waveAt s wv) access addrs = who)
    (hp : resolveLanes space (waveAt s wv) access n who (entered s wv sp u.closes) = p) (hpass : passes p (coreOf (waveAt s wv)) = true)
    (hgo : go (walkOver p.1 wv) p.2 = delivered wv m (note (waveAt m wv)) vals r) (hm : AccessesOnly wv (walkOver p.1 wv) m)
    (hnote : ∀ w : Wave, sp < w.ctl.splits.length → KeepsIssuer sp w (note w) ∧ (note w).out = w.out) (hvals : vals.length = p.2.length)
    (hr : (r.rows, r.keys, r.vec) = ((vecResult (note (waveAt m wv)) f d run elems).rows, (vecResult (note (waveAt m wv)) f d run elems).keys,
      (vecResult (note (waveAt m wv)) f d run elems).vec)) :
    ∃ t, issue s y u body = .next t ∧ Delivers s wv sp y who m (vecResult (waveAt s wv) f d run elems) t := by
  obtain ⟨-, -, -, h4, hlen, -, -, -, hout, -⟩ := ready_iff.1 h
  have hacts : ActsFor s wv sp u.closes m := by
    subst hp
    exact ((actsFor_entered ..).checked ..).accesses hm
  obtain ⟨hnoted, hnotedOut⟩ := hnote (waveAt m wv) (hacts.split (by omega))
  have hlanes : vals = [] ↔ who = [] := by
    rw [← List.length_eq_zero_iff, ← List.length_eq_zero_iff, hvals, ← hp, length_resolveLanes]
  have hget := delivered_get wv m (note (waveAt m wv)) vals r
  rw [← hgo] at hget
  obtain ⟨-, t, ht, hcomp⟩ := vector_completes (y := y) h hc hb hwho hp hpass hget ((hacts.keeps.trans hnoted).trans (keepsIssuer_gains ..))
  refine ⟨t, ht, ?_, fun hy => (hcomp.quarters hy).trans ?_, hcomp.regs, hcomp.win, ?_, hcomp.pc⟩
  · have hdelivered := sameOutside_delivered wv m (note (waveAt m wv)) vals r
    rw [← hgo] at hdelivered
    exact hdelivered.trans hcomp.outside
  · rw [hgo, delivered_quarters]
  · rw [hcomp.out, gains, hnotedOut, hacts.out, hout, List.nil_append, map_addedResults _ _ _ fun _ => rfl, hr,
      vecResult_congr (hnoted.win.trans (hacts.keeps.win.trans (openIssue_win ..)))]
    simp only [hlanes]
end

end Sys2Proof.Machine
end

section
/-!
The vector loads (R184, R188, R206).
-/
namespace Sys2Proof.Machine

section
variable (space : Space) (a : VReg) (b : SReg) (z : Nat) (sync : Bool) (c : Ctx) (s : State) (xs : List Acc)

theorem cachesOnly_loadStart : CachesOnly s (loadStart space z sync c s xs) := by
  unfold loadStart
  split
  · exact cachesOnly_acquireInvalidate ..
  split
  · exact cachesOnly_countConflicts ..
  · exact cachesOnly_refl s
theorem cachesOnly_loadMoved : CachesOnly s (loadMoved space z sync c s xs) := by
  have hreads := (cachesOnly_loadStart space z sync c s xs).trans (cachesOnly_readAll c (coreOf (waveAt s c.wv)) (islandOf s (waveAt s c.wv))
    (accBytes z) (loadLevel sync c) xs _)
  unfold loadMoved
  split
  · exact hreads.trans (cachesOnly_foldl (fun _ _ => cachesOnly_promote ..) _ _)
  · exact hreads
theorem loadNoted_keeps (w : Wave) (h : c.sp < w.ctl.splits.length) : KeepsIssuer c.sp w (loadNoted space a b z sync c s xs w).1 ∧
    (loadNoted space a b z sync c s xs w).1.out = w.out := by
  have hreads := keepsIssuer_noteReads h (accKeys xs)
  have hout := noteReads_out w c.sp (accKeys xs)
  unfold loadNoted
  split
  · exact ⟨hreads.trans (keepsIssuer_noteAcquire ..), (noteAcquire_out ..).trans hout⟩
  · exact ⟨hreads, hout⟩
end

section
variable {s : State} {wv sp : Nat} (y : Bool) (d a : VReg) (b : SReg) {z : Fin 8} (space : Space) (sync : Bool)

/-- The lanes of a load, and where their checks leave them. -/
def loadChecked (s : State) (wv sp : Nat) (a : VReg) (b : SReg) (z : Nat) (space : Space) : State × List Acc :=
  resolveLanes space (waveAt s wv) 0 (accBytes z) (laneAddrs (seen s wv sp) a b) (entered s wv sp false)

theorem loadChecked_acts (s : State) (wv sp : Nat) (a : VReg) (b : SReg) (z : Nat) (space : Space) :
    ActsFor s wv sp false (walkOver (loadChecked s wv sp a b z space).1 wv) := (actsFor_entered ..).checked ..

/-- What the lanes of a load read. -/
theorem loadReads_checked : loadReads space z.val sync (seen s wv sp) (walkOver (loadChecked s wv sp a b z.val space).1 wv)
      (loadChecked s wv sp a b z.val space).2 =
    readAll (seen s wv sp) (coreOf (waveAt s wv)) (islandOf s (waveAt s wv)) (accBytes z.val) (loadLevel sync (seen s wv sp))
      (loadChecked s wv sp a b z.val space).2
      (if sync then acquireInvalidate (walkOver (loadChecked s wv sp a b z.val space).1 wv) (coreOf (waveAt s wv)) (modeSC (seen s wv sp).split.mode)
       else if space = .scratch then
         countConflicts (walkOver (loadChecked s wv sp a b z.val space).1 wv) (waveAt s wv) (accBytes z.val) (loadChecked s wv sp a b z.val space).2
       else walkOver (loadChecked s wv sp a b z.val space).1 wv) := by
  have hwv : (seen s wv sp).wv = wv := rfl
  have hacts := loadChecked_acts s wv sp a b z.val space
  simp only [loadReads, loadStart, hwv, hacts.core, hacts.island, hacts.islandOf, hacts.conflicts]

/-- R94, R184: the pending result of a load. -/
theorem load_delivers (h : ready s wv sp (useLoad d a b (memRun z.val)) = true)
    (hp : passes (loadChecked s wv sp a b z.val space) (coreOf (waveAt s wv)) = true) :
    let p := loadChecked s wv sp a b z.val space
    let q := loadReads space z.val sync (seen s wv sp) (walkOver p.1 wv) p.2
    ∃ t, issue s y (useLoad d a b (memRun z.val)) (loadBody space d a b z.val sync) = .next t ∧
      Delivers s wv sp y (laneAddrs (seen s wv sp) a b) (loadMoved space z.val sync (seen s wv sp) (walkOver p.1 wv) p.2)
        (vecResult (waveAt s wv) (seen s wv sp).split.frame d.val (memRun z.val) (q.2.map fun v => (v.1, extend z.val v.2.2))) t := by
  intro p q
  have hmoved := cachesOnly_loadMoved space z.val sync (seen s wv sp) (walkOver p.1 wv) p.2
  exact vector_delivers (y := y) (m := loadMoved space z.val sync (seen s wv sp) (walkOver p.1 wv) p.2)
    (note := fun w => (loadNoted space a b z.val sync (seen s wv sp) (walkOver p.1 wv) p.2 w).1) (vals := q.2) h rfl (loadBody_eq ..) rfl
    (p := p) rfl hp rfl (hmoved.accesses wv) (loadNoted_keeps space a b z.val sync (seen s wv sp) (walkOver p.1 wv) p.2) (length_readAll ..) rfl
end

/-- A load's machine moves only what its accesses move. -/
theorem loadMoved_fields (s : State) (wv sp : Nat) (a : VReg) (b : SReg) (z : Nat) (space : Space) (sync : Bool) (m : State)
    (hm : loadMoved space z sync (seen s wv sp) (walkOver (loadChecked s wv sp a b z space).1 wv) (loadChecked s wv sp a b z space).2 = m) :
    m.quarters = s.quarters ∧ m.islands = s.islands ∧ ∀ k, k ≠ wv → waveAt m k = waveAt s k := by
  subst hm
  have hmoved := cachesOnly_loadMoved space z sync (seen s wv sp) (walkOver (loadChecked s wv sp a b z space).1 wv) (loadChecked s wv sp a b z space).2
  have hacts := (loadChecked_acts s wv sp a b z space).accesses (hmoved.accesses wv)
  exact ⟨hacts.quarters, hmoved.islands.trans ((walkOver_islands ..).trans (cachesOnly_resolved ..).islands), hacts.others⟩

/-- The reads of a scratchpad move no byte of it, and nothing else. -/
theorem loadMoved_scratch {s : State} {wv sp : Nat} {a : VReg} {b : SReg} {z : Fin 8} {m : State}
    (hm : loadMoved .scratch z.val false (seen s wv sp) (walkOver (loadChecked s wv sp a b z.val .scratch).1 wv)
      (loadChecked s wv sp a b z.val .scratch).2 = m) :
    m.dev = s.dev ∧ m.clusters = s.clusters ∧ ∀ k, (coreAt m k).spad = (coreAt s k).spad ∧ (coreAt m k).l1 = (coreAt s k).l1 := by
  obtain ⟨ws, hover⟩ := walkOver_eq (loadChecked s wv sp a b z.val .scratch).1 wv
  have hstate : (loadChecked s wv sp a b z.val .scratch).1 = entered s wv sp false := resolveLanes_scratch_state ..
  have hmoved : m = countConflicts (walkOver (loadChecked s wv sp a b z.val .scratch).1 wv) (waveAt s wv) (accBytes z.val)
      (loadChecked s wv sp a b z.val .scratch).2 := by
    rw [← hm, loadMoved, if_neg nofun, loadReads_checked]
    exact readAll_state (fun x hx => resMem_resolveLanes_scratch _ _ _ _ _ x hx) ..
  rw [hmoved, hover, hstate]
  refine ⟨rfl, rfl, fun k => ?_⟩
  by_cases hk : k = coreOf (waveAt s wv)
  · rw [hk, countConflicts, coreAt_putCore]
    exact ⟨rfl, rfl⟩
  · rw [countConflicts, coreAt_putCore_ne _ _ _ _ hk]
    exact ⟨rfl, rfl⟩

/-- Settles O22: the three loads are one access, whose lanes read at the level of the instruction. -/
theorem loadInstructions : Obligations.LoadInstructions := by
  unfold Obligations.LoadInstructions
  intro y d a b z s wv sp u c w n sc loads same
  have hloads {i : Instr} {space : Space} (sync : Bool) {level : Nat} {before : State → List Acc → State} {left : State → State → Prop}
      (hi : exec i s = issue s y u (loadBody space d a b z.val sync))
      (hbefore : ∀ t xs, before t xs = if sync then acquireInvalidate t (coreOf w) sc else if space = .scratch then countConflicts t w n xs else t)
      (hleft : ∀ m t, loadMoved space z.val sync c (walkOver (loadChecked s wv sp a b z.val space).1 wv) (loadChecked s wv sp a b z.val space).2 = m →
        SameOutside wv m t →
        left (loadReads space z.val sync c (walkOver (loadChecked s wv sp a b z.val space).1 wv) (loadChecked s wv sp a b z.val space).2).1 t)
      (hlevel : loadLevel sync c = level) : loads i space level before left := by
    subst hlevel
    have hreads : loadReads space z.val sync c (walkOver (loadChecked s wv sp a b z.val space).1 wv) (loadChecked s wv sp a b z.val space).2 =
        readAll c (coreOf w) (islandOf s w) n (loadLevel sync c) (resolveLanes space w 0 n (laneAddrs c a b) (entered s wv sp false)).2
          (before (walkOver (resolveLanes space w 0 n (laneAddrs c a b) (entered s wv sp false)).1 wv)
            (resolveLanes space w 0 n (laneAddrs c a b) (entered s wv sp false)).2) := by
      rw [hbefore]
      exact loadReads_checked ..
    show ready s wv sp u = true → passes (loadChecked s wv sp a b z.val space) (coreOf w) = true → _
    intro h hp
    obtain ⟨t, ht, hdel⟩ := load_delivers y d a b space sync h hp
    obtain ⟨hquarters, hislands, hothers⟩ := loadMoved_fields s wv sp a b z.val space sync _ rfl
    rw [← hreads, hi]
    exact ⟨t, ht, hdel.out, hdel.regs, hdel.win, hdel.pc, fun k hk => (hdel.outside.waves k hk).trans (hothers k hk),
      hdel.outside.islands.trans hislands, fun hy => (hdel.quarters hy).trans hquarters, hleft _ t rfl hdel.outside⟩
  have hplain {space : Space} {m t : State} (hm : loadMoved space z.val false c (walkOver (loadChecked s wv sp a b z.val space).1 wv)
      (loadChecked s wv sp a b z.val space).2 = m) (ht : SameOutside wv m t) :
      same (loadReads space z.val false c (walkOver (loadChecked s wv sp a b z.val space).1 wv) (loadChecked s wv sp a b z.val space).2).1 t := by
    rw [loadMoved, if_neg nofun] at hm
    rw [hm]
    exact ⟨ht.dev, ht.cores, ht.clusters⟩
  clear_value loads
  refine ⟨hloads false rfl (fun _ _ => rfl) (fun m t => hplain) rfl,
    hloads false rfl (fun _ _ => rfl) (fun m t hm ht => ?lds) rfl,
    hloads true rfl (fun _ _ => rfl) (fun m t hm ht hsc => ?lda) rfl⟩
  case lds =>
    obtain ⟨hdev, hclusters, hcores⟩ := loadMoved_scratch hm
    refine ⟨ht.dev.trans hdev, ht.clusters.trans hclusters, ?_⟩
    simpa only [coreAt, ht.cores] using hcores
  case lda =>
    rw [loadMoved, if_neg fun h7 => hsc h7.2] at hm
    rw [hm]
    exact ⟨ht.dev, ht.cores, ht.clusters⟩

end Sys2Proof.Machine
end

section
/-!
The vector stores (R185, R188, R205).
-/
namespace Sys2Proof.Machine

theorem KeepsIssuer.goesOn {sp : Nat} {w z : Wave} (h : KeepsIssuer sp w z) (ho : z.out = w.out) : GoesOnLike sp w z :=
  ⟨h.length, h.valid, h.held, h.wait, ho⟩
theorem onWave_onWave (s : State) (wv : Nat) (f g : Wave → Wave) : onWave (onWave s wv f) wv g = onWave s wv fun w => g (f w) := by
  cases hw : tbGet? s.waves wv with
  | none =>
    have hnone (f : Wave → Wave) : onWave s wv f = s := by simp only [onWave, hw]
    rw [hnone, hnone, hnone]
  | some w => rw [onWave_of_get hw, onWave_of_get hw, onWave_of_get (w := f w) tbGet?_tbPut_self, putWave_putWave]
/-- R195, R400: the end of a replay does not depend on the writes that are noted. -/
theorem endReplay_noteWrites (w : Wave) (sp : Nat) (keys : List Nat) : endReplay (noteWrites w sp keys) =
    if w.evt.replaying then
      { noteWrites w sp keys with evt := { (noteWrites w sp keys).evt with replay := 0, replaying := false } }
    else noteWrites w sp keys := by rw [endReplay, noteWrites_evt]

section
variable (space : Space) (d : VReg) (z : Nat) (rel : Bool) (c : Ctx) (s : State) (xs : List Acc)

theorem cachesOnly_storeStart : CachesOnly s (storeStart space z rel c s xs) := by
  unfold storeStart
  split
  · exact cachesOnly_releasePush ..
  split
  · exact cachesOnly_countConflicts ..
  · exact cachesOnly_refl s
theorem accessesOnly_storeMoved : AccessesOnly c.wv s (storeMoved space d z rel c s xs) := by
  have hwrites := ((cachesOnly_storeStart space z rel c s xs).accesses c.wv).trans (accessesOnly_foldl (fun t x =>
    accessesOnly_writeAcc c.wv (coreOf (waveAt s c.wv)) (islandOf s (waveAt s c.wv)) (storeLevel rel c) (rel && modeSC c.split.mode == 7)
      (leBytes (accBytes z) (laneData c d (memRun z) x.lane)) t x) xs _)
  exact hwrites.trans (((cachesOnly_foldl (fun _ _ => cachesOnly_recordStore ..) _ _).trans (cachesOnly_clearCovered ..)).accesses c.wv)
end

section
variable {s : State} {wv sp : Nat} (y : Bool) (d a : VReg) (b : SReg) {z : Fin 8} (space : Space) {rel cl : Bool}

/-- The lanes of a store, and where their checks leave them. -/
def storeChecked (s : State) (wv sp : Nat) (cl : Bool) (a : VReg) (b : SReg) (z : Nat) (space : Space) : State × List Acc :=
  resolveLanes space (waveAt s wv) 1 (accBytes z) ((laneAddrs (seen s wv sp) a b).filter fun p => !mbit (waveAt s wv).ctl.helpers p.1)
    (entered s wv sp cl)

theorem storeChecked_acts (s : State) (wv sp : Nat) (cl : Bool) (a : VReg) (b : SReg) (z : Nat) (space : Space) :
    ActsFor s wv sp cl (walkOver (storeChecked s wv sp cl a b z space).1 wv) := (actsFor_entered ..).checked ..

/-- What comes before the lanes' writes. -/
theorem storeStart_checked {p : State × List Acc} (hp : storeChecked s wv sp cl a b z.val space = p) :
    storeStart space z.val rel (seen s wv sp) (walkOver p.1 wv) p.2 =
    if rel then releasePush (walkOver p.1 wv) (coreOf (waveAt s wv)) (islandOf (walkOver p.1 wv) (waveAt s wv)) (modeSC (seen s wv sp).split.mode)
    else if space = .scratch then countConflicts (walkOver p.1 wv) (waveAt s wv) (accBytes z.val) p.2 else walkOver p.1 wv := by
  have hwv : (seen s wv sp).wv = wv := rfl
  subst hp
  have hacts := storeChecked_acts s wv sp cl a b z.val space
  simp only [storeStart, hwv, hacts.core, hacts.island, hacts.conflicts]
/-- What the lanes of a store leave, from the machine that the checks leave. -/
theorem storeMoved_checked {p : State × List Acc} (hp : storeChecked s wv sp cl a b z.val space = p) :
    storeMoved space d z.val rel (seen s wv sp) (walkOver p.1 wv) p.2 =
    clearCovered (storeLevel rel (seen s wv sp)) (coreOf (waveAt s wv))
      ((accLines p.2).foldl (recordStore (waveAt s wv).fenced (if rel then some (modeSC (seen s wv sp).split.mode) else none) (coreOf (waveAt s wv)))
        (p.2.foldl (fun t x => writeAcc wv (coreOf (waveAt s wv)) (islandOf t (waveAt s wv)) (storeLevel rel (seen s wv sp))
          (rel && modeSC (seen s wv sp).split.mode == 7) (leBytes (accBytes z.val) (laneData (seen s wv sp) d (memRun z.val) x.lane)) t x)
          (storeStart space z.val rel (seen s wv sp) (walkOver p.1 wv) p.2)))
      (accBytes z.val) p.2 := by
  have hwv : (seen s wv sp).wv = wv := rfl
  have hstart := cachesOnly_storeStart space z.val rel (seen s wv sp) (walkOver p.1 wv) p.2
  subst hp
  have hacts := storeChecked_acts s wv sp cl a b z.val space
  rw [foldl_islandOf (f := fun i t (x : Acc) => writeAcc wv (coreOf (waveAt s wv)) i (storeLevel rel (seen s wv sp))
    (rel && modeSC (seen s wv sp).split.mode == 7) (leBytes (accBytes z.val) (laneData (seen s wv sp) d (memRun z.val) x.lane)) t x)
    fun i t x => ⟨(accessesOnly_writeAcc ..).groups, (accessesOnly_writeAcc ..).launches⟩, islandOf_congr hstart.groups hstart.launches]
  simp only [storeMoved, hwv, hacts.core, hacts.island, hacts.fenced]

/-- R185: a store is over when its lanes have written; it leaves no result. -/
theorem store_completes (h : ready s wv sp { useStore d a b (memRun z.val) with closes := cl } = true)
    (hrel : rel = true → releaseClear s wv = true) {p : State × List Acc} (hp : storeChecked s wv sp cl a b z.val space = p)
    (hpass : passes p (coreOf (waveAt s wv)) = true) {m : State}
    (hm : storeMoved space d z.val rel (seen s wv sp) (walkOver p.1 wv) p.2 = m) :
    issue s y { useStore d a b (memRun z.val) with closes := cl } (storeBody space d a b z.val rel) =
      .next (stepped (onWave m wv fun w => endReplay (noteWrites w sp (accKeys p.2))) wv sp) ∧
    ∀ k, (waveAt m k).regs = (waveAt s k).regs ∧ (waveAt m k).out = (waveAt s k).out := by
  obtain ⟨-, -, -, h4, hlen, -⟩ := ready_iff.1 h
  have hacts : ActsFor s wv sp cl m := by
    subst hp hm
    exact (storeChecked_acts ..).accesses (accessesOnly_storeMoved space d z.val rel (seen s wv sp) _ _)
  have hlanes : storeLanes space d z.val rel (seen s wv sp) (walkOver p.1 wv) p.2 = onWave m wv fun w => noteWrites w sp (accKeys p.2) := by
    rw [← hm]
    rfl
  have hnoted := hacts.keeps.trans (keepsIssuer_noteWrites (hacts.split (by omega)) (accKeys p.2))
  have hget : tbGet? (storeLanes space d z.val rel (seen s wv sp) (walkOver p.1 wv) p.2).waves wv = some (noteWrites (waveAt m wv) sp (accKeys p.2)) := by
    rw [hlanes, onWave_get hacts.resident]
  obtain ⟨hb, -⟩ := vector_completes (y := y) h rfl
    (storeBody_eq space d a b z.val rel _ _ fun hr => (releaseClear_entered ..).trans (hrel hr)) rfl hp hpass hget hnoted
  rw [hlanes, onWave_onWave] at hb
  have hgoes : GoesOnLike sp (openIssue (waveAt s wv) sp cl) (endReplay (noteWrites (waveAt m wv) sp (accKeys p.2))) :=
    (hnoted.trans (keepsIssuer_endReplay ..)).goesOn (by rw [endReplay_out, noteWrites_out, hacts.out, openIssue_out])
  exact ⟨issue_over h rfl hb (onWave_get hacts.resident _) hgoes, hacts.regs⟩
end

/-- Settles O23: the three stores are one access, whose lanes write at the level of the instruction; a release is made at its issue (log 10). -/
theorem storeInstructions : Obligations.StoreInstructions := by
  unfold Obligations.StoreInstructions
  intro y d a b z s wv sp c w n sc data stores u
  have hstores {i : Instr} {space : Space} {cl : Bool} (rel : Bool) {level : Nat} {prom : Bool} {before : State → List Acc → State}
      {record : Option Nat}
      (hi : s.cur = some (wv, sp) → exec i s = issue s y { u with closes := cl } (storeBody space d a b z.val rel))
      (hrel : rel = true → releaseClear s wv = true)
      (hbefore : ∀ t xs, before t xs = if rel then releasePush t (coreOf w) (islandOf t w) sc
        else if space = .scratch then countConflicts t w n xs else t)
      (hlevel : level = storeLevel rel c) (hprom : prom = (rel && sc == 7)) (hrecord : record = if rel then some sc else none) :
      stores i { u with closes := cl } space level prom before record := by
    subst hlevel hprom hrecord
    intro h (hp : passes (storeChecked s wv sp cl a b z.val space) (coreOf w) = true)
    rw [hi (ready_iff.1 h).2.1]
    have hmoved := storeMoved_checked (s := s) (wv := wv) (sp := sp) d a b (z := z) space (rel := rel) (cl := cl) rfl
    rw [storeStart_checked a b space rfl, ← hbefore] at hmoved
    obtain ⟨hissue, hwaves⟩ := store_completes y d a b space h hrel rfl hp hmoved
    simp only [endReplay_noteWrites] at hissue
    exact ⟨hissue, hwaves⟩
  clear_value stores
  refine ⟨hstores false (fun _ => rfl) nofun (fun _ _ => rfl) rfl rfl rfl, hstores false (fun _ => rfl) nofun (fun _ _ => rfl) rfl rfl rfl,
    fun hclear => hstores true (fun hcur => exec_strel hcur y d a b z) (fun _ => hclear) (fun _ _ => rfl) rfl (Bool.true_and _).symm rfl⟩

end Sys2Proof.Machine
end

section
/-!
The scalar unit's load and store (R187).
-/
namespace Sys2Proof.Machine

section
variable {s : State} {wv sp : Nat} {y : Bool} {u : Usage} {body : Ctx → State → State × Eff} {go : State → List Acc → State} {access n va : Nat}

/-- The machine on which the one access of the scalar unit acts. -/
theorem scalarRequest_acts (s : State) (wv sp access n va : Nat) :
    ActsFor s wv sp false (walkOver ((scalarRequest s wv sp access n va).lanes wv).1 wv) := ((actsFor_entered ..).helped _).checked ..

/-- A scalar access that passes: it acts, its wave has its helper bits back, and the instruction is over. -/
theorem scalar_completes (h : ready s wv sp u = true) (hc : u.collective = false) (hu : u.closes = false)
    (hq : Makes s wv sp u body go (scalarRequest s wv sp access n va)) {p : State × List Acc} (hp : (scalarRequest s wv sp access n va).lanes wv = p)
    (hpass : passes p (coreOf (waveAt s wv)) = true) {z : Wave} (hz : tbGet? (go (walkOver p.1 wv) p.2).waves wv = some z)
    (hk : KeepsIssuer sp (openIssue (waveAt s wv) sp false) z) :
    ∃ t, issue s y u body = .next t ∧ Completes s wv sp y (go (walkOver p.1 wv) p.2) (helped (waveAt s wv).ctl.helpers z) t := by
  subst hp
  obtain ⟨addrs, haddrs, hb⟩ := hq.effect
  have hcore : coreOf (waveAt (scalarRequest s wv sp access n va).source (seen s wv sp).wv) = coreOf (waveAt s wv) :=
    ((actsFor_entered s wv sp false).helped _).core
  rw [accessWith_passes (p := (scalarRequest s wv sp access n va).lanes wv) (lanes_of_askers haddrs) (by rw [hcore, hpass])] at hb
  have hend := onWave_get hz endReplay
  obtain ⟨t, ht, hcomp⟩ := issue_completes (y := y) h hc hb (onWave_get hend (helped (waveAt s wv).ctl.helpers))
    (by rw [hu]; exact (hk.trans (keepsIssuer_endReplay ..)).trans (keepsIssuer_helped ..))
  refine ⟨t, ht, ((sameOutside_onWave ..).trans (sameOutside_onWave ..)).trans hcomp.outside,
    fun hy => (hcomp.quarters hy).trans ((onWave_quarters ..).trans (onWave_quarters ..)), hcomp.regs, hcomp.win, hcomp.out.trans (endReplay_out z),
    hcomp.helpers, hcomp.pc⟩
end

section
variable (d : SReg) (z : Nat) (c : Ctx) (s : State) (xs : List Acc)

theorem cachesOnly_scalarReads : CachesOnly s (scalarReads z c s xs).1 := cachesOnly_readAll ..
theorem accessesOnly_stuMoved : AccessesOnly c.wv s (stuMoved d z c s xs) :=
  (accessesOnly_foldl (fun t x => accessesOnly_writeAcc c.wv (coreOf (waveAt s c.wv)) (islandOf t (waveAt s c.wv)) 0 false
    (leBytes (accBytes z) (sca c d).toNat) t x) xs s).trans ((cachesOnly_foldl (fun _ _ => cachesOnly_recordStore ..) _ _).accesses c.wv)
/-- The result of LDU, and the wave that waits for it. -/
def lduResult : Result where
  scalars := [d.val]
  sca := (scalarReads z c s xs).2.map fun v => (d.val, BitVec.ofNat 64 (extendTo 64 z v.2.2))
  imprecise := noLanes (poisonEvents 0 s c (coreOf (waveAt s c.wv)) (accBytes z) xs)
  reads := noLanes (linkEvents s c xs)
theorem lduLanes_eq {w : Wave} (h : tbGet? (scalarReads z c s xs).1.waves c.wv = some w) : lduLanes d z c s xs =
    delivered c.wv (scalarReads z c s xs).1 (noteReads w c.sp (accKeys xs)) (scalarReads z c s xs).2 (lduResult d z c s xs) := by
  rw [lduLanes, onWave_of_get h]
  rfl
end

section
variable {s : State} {wv sp : Nat} (y : Bool) (d a : SReg) (z : Fin 8) (i : BitVec 6) {p : State × List Acc}

/-- R187, R94: LDU leaves the machine of its read, and a result for its scalar. -/
theorem ldu_completes (h : ready s wv sp (useSS d a) = true)
    (hp : (scalarRequest s wv sp 0 (accBytes z.val) (scalarVa (waveAt s wv) a z.val i)).lanes wv = p) (hpass : passes p (coreOf (waveAt s wv)) = true)
    {q : State × List (Nat × Nat × Nat)} (hq : scalarReads z.val (seen s wv sp) (walkOver p.1 wv) p.2 = q) :
    ∃ t w, exec (.ldu y d a z i) s = .next t ∧ Completes s wv sp y q.1 (helped (waveAt s wv).ctl.helpers w) t ∧
      w.out = addedResults q.1 q.2 (lduResult d z.val (seen s wv sp) (walkOver p.1 wv) p.2) := by
  obtain ⟨-, -, -, h4, hlen, -, -, -, hout, -⟩ := ready_iff.1 h
  have hmoved : ActsFor s wv sp false q.1 := by
    subst hp hq
    exact (scalarRequest_acts ..).accesses ((cachesOnly_scalarReads ..).accesses wv)
  have hlanes : lduLanes d z.val (seen s wv sp) (walkOver p.1 wv) p.2 = delivered wv q.1 (noteReads (waveAt q.1 wv) sp (accKeys p.2)) q.2
      (lduResult d z.val (seen s wv sp) (walkOver p.1 wv) p.2) := by
    subst hq
    exact lduLanes_eq d z.val (seen s wv sp) (walkOver p.1 wv) p.2 hmoved.resident
  have hget := delivered_get wv q.1 (noteReads (waveAt q.1 wv) sp (accKeys p.2)) q.2 (lduResult d z.val (seen s wv sp) (walkOver p.1 wv) p.2)
  rw [← hlanes] at hget
  have hkeeps := (hmoved.keeps.trans (keepsIssuer_noteReads (hmoved.split (by omega)) (accKeys p.2))).trans (keepsIssuer_gains sp
    (addedResults q.1 q.2 (lduResult d z.val (seen s wv sp) (walkOver p.1 wv) p.2)) _)
  obtain ⟨t, ht, hcomp⟩ := scalar_completes (y := y) h rfl rfl (makes_ldu d a z i) hp hpass hget hkeeps
  rw [hlanes] at hcomp
  refine ⟨t, _, ht, ⟨(sameOutside_delivered ..).trans hcomp.outside, fun hy => (hcomp.quarters hy).trans (delivered_quarters ..), hcomp.regs, hcomp.win,
    hcomp.out, hcomp.helpers, hcomp.pc⟩, ?_⟩
  rw [gains, noteReads_out, hmoved.out, hout, List.nil_append]

/-- R187: STU leaves the machine of its write. -/
theorem stu_completes (h : ready s wv sp { sr := [d.val, a.val] } = true)
    (hp : (scalarRequest s wv sp 1 (accBytes z.val) (scalarVa (waveAt s wv) a z.val i)).lanes wv = p) (hpass : passes p (coreOf (waveAt s wv)) = true)
    {m : State} (hm : stuMoved d z.val (seen s wv sp) (walkOver p.1 wv) p.2 = m) :
    ∃ t w, exec (.stu y d a z i) s = .next t ∧ Completes s wv sp y m (helped (waveAt s wv).ctl.helpers w) t ∧ w.out = [] := by
  obtain ⟨-, -, -, h4, hlen, -, -, -, hout, -⟩ := ready_iff.1 h
  have hmoved : ActsFor s wv sp false m := by
    subst hp hm
    exact (scalarRequest_acts ..).accesses (accessesOnly_stuMoved d z.val (seen s wv sp) _ _)
  have hlanes : stuLanes d z.val (seen s wv sp) (walkOver p.1 wv) p.2 = onWave m wv fun w => noteWrites w sp (accKeys p.2) := by
    rw [← hm]
    rfl
  have hget := onWave_get hmoved.resident fun w => noteWrites w sp (accKeys p.2)
  rw [← hlanes] at hget
  have hkeeps := hmoved.keeps.trans (keepsIssuer_noteWrites (hmoved.split (by omega)) (accKeys p.2))
  obtain ⟨t, ht, hcomp⟩ := scalar_completes (y := y) h rfl rfl (makes_stu d a z i) hp hpass hget hkeeps
  rw [hlanes] at hcomp
  refine ⟨t, _, ht, ⟨(sameOutside_onWave ..).trans hcomp.outside, fun hy => (hcomp.quarters hy).trans (onWave_quarters ..), hcomp.regs, hcomp.win,
    hcomp.out, hcomp.helpers, hcomp.pc⟩, ?_⟩
  rw [noteWrites_out, hmoved.out, hout]
end

/-- Settles O24: the one access of the scalar unit, made without helper lanes, passes its checks. -/
theorem scalarMemoryInstructions : Obligations.ScalarMemoryInstructions := by
  unfold Obligations.ScalarMemoryInstructions
  intro y d a z i s wv sp c w n va e0 e fits from_ read stored goesOn
  have he (access : Nat) : (scalarRequest s wv sp access n va.toNat).lanes wv = e access := by
    have he0 : (scalarRequest s wv sp access n va.toNat).source = e0 := by
      simp only [scalarRequest, e0, onWave_of_get (entered_get s wv sp false), openIssue_helpers]
      rfl
    rw [Request.lanes, he0]
    rfl
  have hacts (access : Nat) : ActsFor s wv sp false (from_ access) := by
    have h := scalarRequest_acts s wv sp access n va.toNat
    rwa [he] at h
  have hgoes {m t : State} {v : Wave} (hm : ActsFor s wv sp false m) (hcomp : Completes s wv sp y m (helped w.ctl.helpers v) t) : goesOn t :=
    ⟨hcomp.regs, hcomp.win, hcomp.helpers, fun k hk => (hcomp.outside.waves k hk).trans (hm.others k hk), hcomp.outside.groups.trans hm.groups,
      hcomp.outside.launches.trans hm.launches, hcomp.pc⟩
  refine ⟨fun h hp => ?ldu, fun h hp => ?stu⟩
  case ldu =>
    have hreads : scalarReads z.val c (from_ 0) (e 0).2 = read := by
      simp only [scalarReads, show c.wv = wv from rfl, (hacts 0).core, (hacts 0).island, (hacts 0).islandOf]
      rfl
    have hcaches : CachesOnly (from_ 0) read.1 := cachesOnly_readAll ..
    obtain ⟨t, v, ht, hcomp, hout⟩ := ldu_completes y d a z i h (he 0) hp hreads
    have hone : read.2.length = 1 := (length_readAll ..).trans (length_resolveLanes ..)
    refine ⟨t, ht, ?_, hone, hgoes ((hacts 0).accesses (hcaches.accesses wv)) hcomp, hcomp.outside.dev, hcomp.outside.cores, hcomp.outside.clusters,
      hcomp.outside.islands.trans (hcaches.islands.trans ?_)⟩
    · have hsome : read.2 ≠ [] := fun hnil => by simp [hnil] at hone
      have hsca : (lduResult d z.val c (from_ 0) (e 0).2).sca = read.2.map fun v => (d.val, BitVec.ofNat 64 (extendTo 64 z.val v.2.2)) := by
        rw [lduResult, hreads]
      rw [hcomp.out, helped, hout, map_addedResults _ _ _ fun _ => rfl, if_neg hsome]
      exact congrArg (fun x => [([d.val], x)]) hsca
    · exact (walkOver_islands ..).trans ((cachesOnly_resolved ..).islands.trans (sameOutside_onWave ..).islands)
  case stu =>
    have hmoved : stuMoved d z.val c (from_ 1) (e 1).2 = stored := by
      simp only [stuMoved, show c.wv = wv from rfl, (hacts 1).core, (hacts 1).island, (hacts 1).fenced]
      rfl
    have hstored : AccessesOnly wv (from_ 1) stored := by
      rw [← hmoved]
      exact accessesOnly_stuMoved d z.val c (from_ 1) (e 1).2
    obtain ⟨t, v, ht, hcomp, hout⟩ := stu_completes y d a z i h (he 1) hp hmoved
    exact ⟨t, ht, hgoes ((hacts 1).accesses hstored) hcomp, hcomp.out.trans hout, hcomp.outside.dev, hcomp.outside.cores, hcomp.outside.clusters,
      hcomp.outside.islands⟩

end Sys2Proof.Machine
end

section
/-!
The atomics (R190, R191).
-/
namespace Sys2Proof.Machine

/-! The new values (R190). -/
section
variable (et : Nat) {bits old v : Nat} (v2 : Nat)

/-- A sum modulo a power of two gives its first term back. -/
theorem atomNew_add (ho : old < 2 ^ bits) (hv : v < 2 ^ bits) :
    (atomNew et 0 bits old v v2 + 2 ^ bits - v) % 2 ^ bits = old ∧ atomNew et 0 bits old v v2 < 2 ^ bits := by
  have hnew : atomNew et 0 bits old v v2 = (old + v) % 2 ^ bits := rfl
  rw [hnew]
  refine ⟨?_, Nat.mod_lt _ (by omega)⟩
  by_cases hfits : old + v < 2 ^ bits
  · rw [Nat.mod_eq_of_lt hfits, show old + v + 2 ^ bits - v = old + 2 ^ bits by omega, Nat.add_mod_right, Nat.mod_eq_of_lt ho]
  · have hwraps : (old + v) % 2 ^ bits = old + v - 2 ^ bits := by rw [Nat.mod_eq_sub_mod (by omega), Nat.mod_eq_of_lt (by omega)]
    rw [hwraps, show old + v - 2 ^ bits + 2 ^ bits - v = old by omega, Nat.mod_eq_of_lt ho]
/-- The order of MIN and MAX. -/
def AtomLess (et bits x y : Nat) : Prop := if et = 1 then x < y else signedOf bits x < signedOf bits y
theorem atomLess_iff (et bits x y : Nat) : atomLess et bits x y = true ↔ AtomLess et bits x y := by
  unfold atomLess AtomLess
  split <;> simp
theorem atomNew_min : (AtomLess et bits v old → atomNew et 1 bits old v v2 = v) ∧ (¬ AtomLess et bits v old → atomNew et 1 bits old v v2 = old) := by
  have hnew : atomNew et 1 bits old v v2 = if atomLess et bits v old then v else old := rfl
  rw [hnew, ← atomLess_iff]
  exact ⟨fun h => if_pos h, fun h => if_neg h⟩
theorem atomNew_max : (AtomLess et bits old v → atomNew et 2 bits old v v2 = v) ∧ (¬ AtomLess et bits old v → atomNew et 2 bits old v v2 = old) := by
  have hnew : atomNew et 2 bits old v v2 = if atomLess et bits old v then v else old := rfl
  rw [hnew, ← atomLess_iff]
  exact ⟨fun h => if_pos h, fun h => if_neg h⟩
theorem testBit_atomNew (k : Nat) : (atomNew et 3 bits old v v2).testBit k = (old.testBit k && v.testBit k) ∧
    (atomNew et 4 bits old v v2).testBit k = (old.testBit k || v.testBit k) ∧ (atomNew et 5 bits old v v2).testBit k = (old.testBit k != v.testBit k) :=
  ⟨Nat.testBit_and .., Nat.testBit_or .., Nat.testBit_xor ..⟩
/-- Exchange, and compare-exchange. -/
theorem atomNew_exchange : atomNew et 6 bits old v v2 = v ∧ atomNew et 7 bits v v v2 = v2 ∧ (old ≠ v → atomNew et 7 bits old v v2 = old) :=
  ⟨rfl, if_pos rfl, fun h => if_neg h⟩
end

/-! What the lanes of an atomic leave (R191). -/
section
variable (space : Space) (d a : VReg) (b : SReg) (ord : Nat) (wide : Bool) (c : Ctx) (s : State) (xs : List Acc)

theorem cachesOnly_atomStart : CachesOnly s (atomStart space ord wide c s xs) := by
  have hconflicts : CachesOnly s (if space = .scratch then countConflicts s (waveAt s c.wv) (4 * atomWidth wide) xs else s) := by
    split
    · exact cachesOnly_countConflicts ..
    · exact cachesOnly_refl s
  have hpush (t : State) : CachesOnly t
      (if releases ord then releasePush t (coreOf (waveAt s c.wv)) (islandOf s (waveAt s c.wv)) (atomScope space c) else t) := by
    split
    · exact cachesOnly_releasePush ..
    · exact cachesOnly_refl t
  unfold atomStart
  dsimp only
  split
  · exact (hconflicts.trans (hpush _)).trans (cachesOnly_acquireInvalidate ..)
  · exact hconflicts.trans (hpush _)
theorem accessesOnly_atomActs : AccessesOnly c.wv s (atomActs space d ord wide c s xs).1 :=
  ((cachesOnly_atomStart space ord wide c s xs).accesses c.wv).trans (accessesOnly_atomAll ..)
theorem accessesOnly_atomMoved : AccessesOnly c.wv s (atomMoved space d ord wide c s xs) := by
  have hlead : AccessesOnly c.wv s (if atomScope space c = 7 then
      (accLines xs).foldl (fun t l => promote t l (coreOf (waveAt s c.wv)) (islandOf s (waveAt s c.wv))) (atomActs space d ord wide c s xs).1
    else (atomActs space d ord wide c s xs).1) := by
    have hacts := accessesOnly_atomActs space d ord wide c s xs
    split
    · exact hacts.trans ((cachesOnly_foldl (fun _ _ => cachesOnly_promote ..) _ _).accesses c.wv)
    · exact hacts
  exact hlead.trans (((cachesOnly_foldl (fun _ _ => cachesOnly_recordStore ..) _ _).trans (cachesOnly_clearCovered ..)).accesses c.wv)
theorem atomNoted_keeps (w : Wave) : KeepsIssuer c.sp w (atomNoted space d a b ord wide c s xs w).1 ∧
    (atomNoted space d a b ord wide c s xs w).1.out = w.out := by
  unfold atomNoted
  dsimp only
  split
  · exact ⟨keepsIssuer_noteAcquire .., noteAcquire_out ..⟩
  · exact ⟨keepsIssuer_refl .., rfl⟩
end

section
variable {s : State} {wv sp : Nat} (y : Bool) (d a : VReg) (b : SReg) (space : Space) (ord : Fin 4) (wide : Bool)

/-- The lanes of an atomic, and where their checks leave them. -/
def atomChecked (s : State) (wv sp : Nat) (a : VReg) (b : SReg) (wide : Bool) (space : Space) : State × List Acc :=
  resolveLanes space (waveAt s wv) 2 (4 * atomWidth wide) ((laneAddrs (seen s wv sp) a b).filter fun p => !mbit (waveAt s wv).ctl.helpers p.1)
    (entered s wv sp true)
theorem atomChecked_acts (s : State) (wv sp : Nat) (a : VReg) (b : SReg) (wide : Bool) (space : Space) :
    ActsFor s wv sp true (walkOver (atomChecked s wv sp a b wide space).1 wv) := (actsFor_entered ..).checked ..

/-- What comes before the lanes of an atomic. -/
theorem atomStart_checked {p : State × List Acc} (hp : atomChecked s wv sp a b wide space = p) :
    atomStart space ord.val wide (seen s wv sp) (walkOver p.1 wv) p.2 =
      let s0 := if space = .scratch then countConflicts (walkOver p.1 wv) (waveAt s wv) (4 * atomWidth wide) p.2 else walkOver p.1 wv
      let s1 := if ord.val = 2 ∨ ord.val = 3 then releasePush s0 (coreOf (waveAt s wv)) (islandOf s (waveAt s wv)) (atomScope space (seen s wv sp)) else s0
      if ord.val = 1 ∨ ord.val = 3 then acquireInvalidate s1 (coreOf (waveAt s wv)) (atomScope space (seen s wv sp)) else s1 := by
  have hwv : (seen s wv sp).wv = wv := rfl
  subst hp
  have hacts := atomChecked_acts s wv sp a b wide space
  simp only [atomStart, hwv, hacts.core, hacts.island, hacts.islandOf, hacts.conflicts, releases_iff, acquires_iff]
/-- What the lanes of an atomic do, in order. -/
theorem atomActs_checked {p : State × List Acc} (hp : atomChecked s wv sp a b wide space = p) :
    atomActs space d ord.val wide (seen s wv sp) (walkOver p.1 wv) p.2 =
      atomAll (seen s wv sp) (coreOf (waveAt s wv)) (islandOf s (waveAt s wv)) (modeET (seen s wv sp).split.mode) (modeAO (seen s wv sp).split.mode)
        wide d (scopeLevel (atomScope space (seen s wv sp))) (atomScope space (seen s wv sp) == 7) p.2
        (atomStart space ord.val wide (seen s wv sp) (walkOver p.1 wv) p.2) := by
  have hwv : (seen s wv sp).wv = wv := rfl
  subst hp
  have hacts := atomChecked_acts s wv sp a b wide space
  simp only [atomActs, hwv, hacts.core, hacts.island, hacts.islandOf]
/-- What an atomic leaves, from what its lanes have done. -/
theorem atomMoved_checked {p : State × List Acc} (hp : atomChecked s wv sp a b wide space = p) {q : State × List (Nat × Nat × Nat)}
    (hq : atomActs space d ord.val wide (seen s wv sp) (walkOver p.1 wv) p.2 = q) :
    atomMoved space d ord.val wide (seen s wv sp) (walkOver p.1 wv) p.2 =
      let lead := if atomScope space (seen s wv sp) = 7 then
        (accLines p.2).foldl (fun t l => promote t l (coreOf (waveAt s wv)) (islandOf t (waveAt s wv))) q.1 else q.1
      clearCovered (scopeLevel (atomScope space (seen s wv sp))) (coreOf (waveAt s wv))
        ((accLines p.2).foldl (recordStore (waveAt s wv).fenced
          (if ord.val = 2 ∨ ord.val = 3 then some (atomScope space (seen s wv sp)) else none) (coreOf (waveAt s wv))) lead) (4 * atomWidth wide) p.2 := by
  have hwv : (seen s wv sp).wv = wv := rfl
  subst hp hq
  have hacts := atomChecked_acts s wv sp a b wide space
  have hlanes := hacts.accesses (accessesOnly_atomActs space d ord.val wide (seen s wv sp) _ (atomChecked s wv sp a b wide space).2)
  rw [foldl_islandOf (f := fun i t l => promote t l (coreOf (waveAt s wv)) i)
    fun _ _ _ => ⟨(cachesOnly_promote ..).groups, (cachesOnly_promote ..).launches⟩, hlanes.islandOf]
  simp only [atomMoved, hwv, hacts.core, hacts.island, hacts.islandOf, hacts.fenced, releases_iff]

/-- R94, R190: the pending result of an atomic. -/
theorem atom_delivers (h : ready s wv sp (useAtom (seen s wv sp).split.mode d a b wide) = true)
    (hrel : ord.val = 2 ∨ ord.val = 3 → releaseClear s wv = true) {p : State × List Acc} (hp : atomChecked s wv sp a b wide space = p)
    (hpass : passes p (coreOf (waveAt s wv)) = true) {q : State × List (Nat × Nat × Nat)}
    (hq : atomActs space d ord.val wide (seen s wv sp) (walkOver p.1 wv) p.2 = q) :
    ∃ t, issue s y (useAtom (seen s wv sp).split.mode d a b wide) (atomBody space d a b ord.val wide) = .next t ∧
      Delivers s wv sp y ((laneAddrs (seen s wv sp) a b).filter fun p => !mbit (waveAt s wv).ctl.helpers p.1)
        (atomMoved space d ord.val wide (seen s wv sp) (walkOver p.1 wv) p.2)
        (vecResult (waveAt s wv) (seen s wv sp).split.frame d.val (atomWidth wide) (q.2.map fun v => (v.1, v.2.2))) t := by
  subst hq
  exact vector_delivers (y := y) (m := atomMoved space d ord.val wide (seen s wv sp) (walkOver p.1 wv) p.2)
    (note := fun w => (atomNoted space d a b ord.val wide (seen s wv sp) (walkOver p.1 wv) p.2 w).1)
    (vals := (atomActs space d ord.val wide (seen s wv sp) (walkOver p.1 wv) p.2).2) h rfl
    (atomBody_eq _ _ _ _ _ _ _ _ fun hr => (releaseClear_entered ..).trans (hrel (releases_iff.1 hr))) rfl hp hpass rfl
    (accessesOnly_atomMoved space d ord.val wide (seen s wv sp) (walkOver p.1 wv) p.2)
    (fun w _ => atomNoted_keeps space d a b ord.val wide (seen s wv sp) (walkOver p.1 wv) p.2 w) (length_atomAll ..) rfl
end

/-- Settles O27: the atomics are one access, whose lanes act in order, a release at its issue (log 10); the new values are read off `atomNew`. -/
theorem atomicInstructions : Obligations.AtomicInstructions := by
  unfold Obligations.AtomicInstructions
  refine ⟨?acts, fun et bits old v v2 _ ho hv => ?values⟩
  case values =>
    obtain ⟨hadd, hlt⟩ := atomNew_add et v2 ho hv
    obtain ⟨hmin, hminOld⟩ := atomNew_min et (bits := bits) (old := old) (v := v) v2
    obtain ⟨hmax, hmaxOld⟩ := atomNew_max et (bits := bits) (old := old) (v := v) v2
    have hbit := testBit_atomNew et (bits := bits) (old := old) (v := v) v2
    exact ⟨hadd, hlt, hmin, hminOld, hmax, hmaxOld, fun k => (hbit k).1, fun k => (hbit k).2.1, fun k => (hbit k).2.2, atomNew_exchange et v2⟩
  case acts =>
    intro y d a b ord wide s wv sp c w m n
    have hn : n = 4 * atomWidth wide := by cases wide <;> rfl
    clear_value n
    subst hn
    intro u who acts
    have hacts {i : Instr} {space : Space} {sc : Nat} (hi : s.cur = some (wv, sp) → exec i s = issue s y u (atomBody space d a b ord.val wide))
        (hsc : atomScope space c = sc) : acts i space sc := by
      subst hsc
      show ready s wv sp u = true → passes (atomChecked s wv sp a b wide space) (coreOf w) = true → _
      intro h hp hrel
      have hq := atomActs_checked (s := s) (wv := wv) (sp := sp) d a b space ord wide rfl
      rw [atomStart_checked a b space ord wide rfl] at hq
      obtain ⟨t, ht, hdel⟩ := atom_delivers y d a b space ord wide h hrel rfl hp hq
      have hothers (k : Nat) (hk : k ≠ wv) : waveAt t k = waveAt s k := (hdel.outside.waves k hk).trans
        (((atomChecked_acts ..).accesses (accessesOnly_atomMoved space d ord.val wide c _ _)).others k hk)
      rw [atomMoved_checked d a b space ord wide rfl hq] at hdel
      rw [hi (ready_iff.1 h).2.1, Nat.mul_div_cancel_left _ (by decide)]
      exact ⟨t, ht, hdel.out, hdel.regs, hdel.win, hdel.pc, hdel.outside.dev, hdel.outside.cores, hdel.outside.clusters, hdel.outside.islands,
        fun k hk => congrArg Wave.regs (hothers k hk)⟩
    clear_value acts
    exact ⟨hacts (fun hcur => exec_atom hcur y d a b ord wide) rfl, hacts (fun hcur => exec_atoms hcur y d a b ord wide) rfl⟩

end Sys2Proof.Machine
end
